-- ==== Sys2Proof/Word.lean ====
section
/-! DEFINITION. The word types and their plainest arithmetic (R2, R7, Table 0.4). -/
namespace Sys2Proof

/-- A 32-bit scalar (width class S, R66). -/
abbrev Word := BitVec 32
/-- A 64-bit value: a stream register (R88), a table entry (R320), a codebook entry (R178). -/
abbrev DWord := BitVec 64
abbrev Byte := BitVec 8
/-- A 2048-bit vector of 64 lanes (width class V, R66). -/
abbrev Vec := BitVec 2048

/-- wrap(x, w) of Table 0.4 for an exact integer. -/
def wrap (w : Nat) (x : Int) : BitVec w := BitVec.ofInt w x

/-- Lane j of a vector: bits [32j+31 : 32j] (R166). -/
def Vec.lane (v : Vec) (j : Nat) : Word := v.extractLsb' (32 * j) 32

/-- The vector whose lane j is f j. -/
def Vec.ofLanes (f : Nat → Word) : Vec :=
  BitVec.ofNat 2048 ((List.range 64).foldr (fun j acc => acc * 2 ^ 32 + (f j).toNat)
    0)

/-- The value of a little-endian byte list (R2). -/
def leNat : List Byte → Nat
  | [] => 0
  | b :: bs => b.toNat + 256 * leNat bs

/-- The n low bytes of a number, little-endian (R2). -/
def leBytes : Nat → Nat → List Byte
  | 0, _ => []
  | n + 1, x => BitVec.ofNat 8 x :: leBytes n (x / 256)

end Sys2Proof
end

