-- ==== Sys2Proof/Machine/Numbers.lean ====
section
/-! DEFINITION. Number formats and arithmetic (R28 to R59): exact values, rounding over magnitude codes, conversions,
block scales, reductions and the approximate functions. Nothing here reads the state. -/
namespace Sys2Proof.Machine
open Sys2Proof

/-! ### Exact values -/

/-- An exact float value: NaN, an infinity, or the signed binary fraction (−1)^neg · m · 2^e, zeros with their sign. -/
inductive FV where
  | nan
  | inf (neg : Bool)
  | fin (neg : Bool) (m : Nat) (e : Int)
  deriving DecidableEq, Repr

def FV.zero : FV := .fin false 0 0
def FV.ofInt (x : Int) : FV := .fin (decide (x < 0)) x.natAbs 0

def FV.neg : FV → FV
  | .nan => .nan
  | .inf s => .inf (!s)
  | .fin s m e => .fin (!s) m e

def FV.abs : FV → FV
  | .nan => .nan
  | .inf _ => .inf false
  | .fin _ m e => .fin false m e

def FV.isNan : FV → Bool
  | .nan => true
  | _ => false

/-- The signed mantissa of a finite value at exponent e0, which is at most its own exponent. -/
def signedAt (neg : Bool) (m : Nat) (e e0 : Int) : Int :=
  let x : Int := (m * 2 ^ (e - e0).toNat : Nat)
  if neg then -x else x

/-- The exact product (R49): NaN for a NaN factor and for an infinity times a zero. -/
def FV.mul : FV → FV → FV
  | .nan, _ => .nan
  | _, .nan => .nan
  | .inf a, .inf b => .inf (a != b)
  | .inf a, .fin b m _ => if m = 0 then .nan else .inf (a != b)
  | .fin a m _, .inf b => if m = 0 then .nan else .inf (a != b)
  | .fin a m e, .fin b n f => .fin (a != b) (m * n) (e + f)

/-- The exact sum, with the sign of an exact zero as IEEE 754 has it under RNE (R152). -/
def FV.add : FV → FV → FV
  | .nan, _ => .nan
  | _, .nan => .nan
  | .inf a, .inf b => if a = b then .inf a else .nan
  | .inf a, .fin .. => .inf a
  | .fin .., .inf b => .inf b
  | .fin a m e, .fin b n f =>
    if m = 0 ∧ n = 0 then .fin (a && b) 0 0
    else
      let e0 := min e f
      let s := signedAt a m e e0 + signedAt b n f e0
      .fin (decide (s < 0)) s.natAbs e0

def FV.sub (x y : FV) : FV := x.add y.neg

/-- The value times 2^k. -/
def FV.scale (k : Int) : FV → FV
  | .fin a m e => .fin a m (e + k)
  | x => x

/-- x < y for values that are no NaN, with −0 and +0 equal (R52). -/
def FV.lt : FV → FV → Bool
  | .nan, _ => false
  | _, .nan => false
  | .inf a, .inf b => a && !b
  | .inf a, .fin .. => a
  | .fin .., .inf b => !b
  | .fin a m e, .fin b n f => let e0 := min e f; decide (signedAt a m e e0 < signedAt b n f e0)

/-- x = y for values that are no NaN, with −0 and +0 equal (R52). -/
def FV.eq (x y : FV) : Bool := !x.isNan && !y.isNan && !x.lt y && !y.lt x

/-! ### Formats and rounding -/

/-- A binary floating-point format (Table 3.2): exponent and fraction widths, bias, whether it has infinities, its
largest finite magnitude code and its canonical NaN. -/
structure Fmt where
  eb : Nat
  fb : Nat
  bias : Nat
  hasInf : Bool
  maxc : Nat
  nan : Nat
  deriving DecidableEq, Repr

def fp32 : Fmt := { eb := 8, fb := 23, bias := 127, hasInf := true, maxc := 0x7f7fffff, nan := 0x7fc00000 }
def bf16 : Fmt := { eb := 8, fb := 7, bias := 127, hasInf := true, maxc := 0x7f7f, nan := 0x7fc0 }
def fp16 : Fmt := { eb := 5, fb := 10, bias := 15, hasInf := true, maxc := 0x7bff, nan := 0x7e00 }
def e4m3 : Fmt := { eb := 4, fb := 3, bias := 7, hasInf := false, maxc := 0x7e, nan := 0x7f }
def e5m2 : Fmt := { eb := 5, fb := 2, bias := 15, hasInf := true, maxc := 0x7b, nan := 0x7e }

/-- 2^(eb+fb), the weight of the sign bit. -/
def Fmt.signBit (f : Fmt) : Nat := 2 ^ (f.eb + f.fb)
def Fmt.emin (f : Fmt) : Int := 1 - (f.bias : Int)

/-- The value of an encoding (R33). All NaN encodings are alike (R34). -/
def Fmt.decode (f : Fmt) (code : Nat) : FV :=
  let neg := decide (f.signBit ≤ code % (2 * f.signBit))
  let mag := code % f.signBit
  if f.maxc < mag then (if f.hasInf && mag == f.maxc + 1 then .inf neg else .nan)
  else
    let e := mag / 2 ^ f.fb
    let m := mag % 2 ^ f.fb
    if e = 0 then .fin neg m (f.emin - f.fb) else .fin neg (2 ^ f.fb + m) (f.emin - f.fb + (e - 1 : Nat))

/-- The rounding modes of Table 3.5. -/
inductive Rnd where
  | rne | rtz | down | up | odd
  deriving DecidableEq, Repr

/-- The mode of a rounding code, none for a reserved one (R29). -/
def Rnd.ofCode : Nat → Option Rnd
  | 0 => some .rne
  | 1 => some .rtz
  | 2 => some .down
  | 3 => some .up
  | 4 => some .odd
  | _ => none

/-- The magnitude code of an inexact value between codes c and c + 1, where twice the distance from c is to the distance
of the codes as twice is to unit (R44). -/
def roundStep (mode : Rnd) (neg : Bool) (c maxc twice unit : Nat) : Nat :=
  if twice = 0 then c
  else match mode with
  | .rne => if unit < twice ∨ (twice = unit ∧ c % 2 = 1) then c + 1 else c
  | .rtz => c
  | .down => if neg then c + 1 else c
  | .up => if neg then c else c + 1
  | .odd => if c % 2 = 0 ∧ c ≠ maxc then c + 1 else c

/-- m · 2^e split at 2^u: the whole part, twice the remainder, and the unit of the remainder. -/
def splitAt2 (m : Nat) (e u : Int) : Nat × Nat × Nat :=
  if u ≤ e then (m * 2 ^ (e - u).toNat, 0, 1)
  else
    let d := 2 ^ (u - e).toNat
    (m / d, 2 * (m % d), d)

/-- The magnitude code of m · 2^e, m not zero, unbounded above (R44). -/
def Fmt.magCode (f : Fmt) (mode : Rnd) (neg : Bool) (m : Nat) (e : Int) : Nat :=
  let x := max (m.log2 + e) f.emin
  let p := splitAt2 m e (x - f.fb)
  roundStep mode neg ((x - f.emin).toNat * 2 ^ f.fb + p.1) f.maxc p.2.1 p.2.2

/-- The encoding of a value: a finite overflow saturates (R46) or becomes an infinity (R45). -/
def Fmt.encode (f : Fmt) (mode : Rnd) (sat : Bool) : FV → Nat
  | .nan => f.nan
  | .inf neg => (if neg then f.signBit else 0) + (if f.hasInf then f.maxc + 1 else f.maxc)
  | .fin neg m e =>
    (if neg then f.signBit else 0) +
      (if m = 0 then 0
       else min (f.magCode mode neg m e) (if sat then f.maxc else f.maxc + 1))

/-- round_rne(·, FP32) with overflow to infinity (R45). -/
def f32 (x : FV) : Word := BitVec.ofNat 32 (fp32.encode .rne false x)
/-- The FP32 value of a word. -/
def ofF32 (x : Word) : FV := fp32.decode x.toNat
def nan32 : Word := 0x7fc00000#32

/-! ### Arithmetic on FP32 words (R45, R52) -/

def addF32 (x y : Word) : Word := f32 ((ofF32 x).add (ofF32 y))
def subF32 (x y : Word) : Word := f32 ((ofF32 x).sub (ofF32 y))
def mulF32 (x y : Word) : Word := f32 ((ofF32 x).mul (ofF32 y))
/-- x · y + w with a single rounding. -/
def fmaF32 (x y w : Word) : Word := f32 (((ofF32 x).mul (ofF32 y)).add (ofF32 w))
/-- w − x · y with a single rounding. -/
def fnmaF32 (x y w : Word) : Word := f32 ((ofF32 w).sub ((ofF32 x).mul (ofF32 y)))

/-- Where a word that is no NaN stands in the order of R52, in which −0 is less than +0. -/
def orderF32 (x : Word) : Int :=
  if x.getLsbD 31 then -((x.toNat % 2 ^ 31 : Nat) : Int) - 1 else (x.toNat : Int)

/-- Minimum (R52). -/
def minF32 (x y : Word) : Word :=
  if (ofF32 x).isNan then (if (ofF32 y).isNan then nan32 else y)
  else if (ofF32 y).isNan then x
  else if orderF32 y < orderF32 x then y else x
/-- Maximum (R52). -/
def maxF32 (x y : Word) : Word :=
  if (ofF32 x).isNan then (if (ofF32 y).isNan then nan32 else y)
  else if (ofF32 y).isNan then x
  else if orderF32 x < orderF32 y then y else x

def ltF32 (x y : Word) : Bool := (ofF32 x).lt (ofF32 y)
def eqF32 (x y : Word) : Bool := (ofF32 x).eq (ofF32 y)
def leF32 (x y : Word) : Bool := ltF32 x y || eqF32 x y
/-- The word with its sign bit cleared; the canonical NaN for a NaN. -/
def absF32 (x : Word) : Word := if (ofF32 x).isNan then nan32 else x &&& 0x7fffffff#32
/-- The word with its sign bit inverted; the canonical NaN for a NaN. -/
def negF32 (x : Word) : Word := if (ofF32 x).isNan then nan32 else x ^^^ 0x80000000#32

/-- Zero of the same sign for a subnormal, when the flush is on (R35). -/
def flush (on : Bool) (x : Word) : Word :=
  if on && x.toNat % 2 ^ 31 < 2 ^ 23 then x &&& 0x80000000#32 else x

/-! ### BF16 arithmetic -/

def ofBf16 (x : Nat) : FV := bf16.decode x
def toBf16 (x : FV) : Nat := bf16.encode .rne false x

/-! ### Conversions to integers (R46) -/

/-- The exact value rounded to an integer by a mode; 0 for a NaN; bound beyond every target for an infinity. -/
def FV.toIntegral (mode : Rnd) : FV → Int
  | .nan => 0
  | .inf neg => if neg then -(2 ^ 80 : Int) else 2 ^ 80
  | .fin neg m e =>
    let p := splitAt2 m e 0
    let c := roundStep mode neg p.1 (2 ^ 200) p.2.1 p.2.2
    if neg then -(c : Int) else c

def clampInt (lo hi x : Int) : Int := max lo (min hi x)

def toS32 (mode : Rnd) (x : FV) : Word := BitVec.ofInt 32 (clampInt (-(2 ^ 31)) (2 ^ 31 - 1) (x.toIntegral mode))
def toZ32 (mode : Rnd) (x : FV) : Word := BitVec.ofInt 32 (clampInt 0 (2 ^ 32 - 1) (x.toIntegral mode))
def intToF32 (mode : Rnd) (x : Int) : Word := BitVec.ofNat 32 (fp32.encode mode true (FV.ofInt x))

/-! ### LNS6 (R36 to R38) -/

/-- T[k] in units of 1/4096. -/
def lnsT : Nat → Nat
  | 0 => 4096
  | 1 => 4871
  | 2 => 5793
  | _ => 6889

/-- T[p mod 4] · 2^⌊p/4⌋. -/
def lnsPow (neg : Bool) (p : Int) : FV := .fin neg (lnsT (p % 4).toNat) (p / 4 - 12)

/-- The value of an LNS6 byte; bits [7:6] are ignored (R32) and every zero is +0. -/
def lnsDecode (b : Nat) : FV :=
  let e := b % 32
  if e = 0 then .zero else lnsPow (decide (32 ≤ b % 64)) ((e : Int) - 16)

/-- The table-summed product of R37. -/
def lnsMul (a b : Nat) : FV :=
  let ea := a % 32
  let eb := b % 32
  if ea = 0 ∨ eb = 0 then .zero
  else lnsPow (decide (32 ≤ a % 64) != decide (32 ≤ b % 64)) ((ea : Int) + eb - 32)

/-- V(c) in units of 2^−16: the magnitude of code c. -/
def lnsMag (c : Nat) : Nat :=
  if c = 0 then 0 else lnsT (c % 4) * 2 ^ (c / 4)

/-- The LNS6 code whose magnitude the mode chooses for m · 2^e, by search upward from c over k codes. -/
def lnsSearch (mode : Rnd) (neg : Bool) (m : Nat) (e : Int) : Nat → Nat → Nat
  | 0, c => c
  | k + 1, c =>
    -- the unit is 2^-16; both sides are brought to a common exponent
    let e0 := min e (-16)
    let x := m * 2 ^ (e - e0).toNat
    let u := 2 ^ (-16 - e0).toNat
    if lnsMag (c + 1) * u ≤ x then lnsSearch mode neg m e k (c + 1)
    else roundStep mode neg c 31 (2 * (x - lnsMag c * u)) (lnsMag (c + 1) * u - lnsMag c * u)

/-- A conversion to LNS6 (R38): 0 for NaN and zeros, saturation at V(31). -/
def lnsEncode (mode : Rnd) : FV → Nat
  | .nan => 0
  | .inf neg => (if neg then 32 else 0) + 31
  | .fin neg m e =>
    let c := lnsSearch mode neg m e 31 0
    if c = 0 then 0 else (if neg then 32 else 0) + c

/-! ### Integer elements (R39, R46) -/

/-- An integer element of format 6: its width, its signedness and its substitute field. -/
structure IntFmt where
  w : Nat
  signed : Bool
  subst : Nat
  deriving DecidableEq, Repr

/-- Whether a code is the reserved one and raises INT_RESERVED (R39, R40). -/
def IntFmt.traps (f : IntFmt) (code : Nat) : Bool := f.signed && f.subst == 3 && code == 2 ^ (f.w - 1)

/-- The value of an element, with the substitute for the reserved code; under substitute 3 it reads as 0 (R40). -/
def IntFmt.decode (f : IntFmt) (code : Nat) : Int :=
  if f.signed then
    if code = 2 ^ (f.w - 1) then
      (match f.subst with
       | 0 => -(2 ^ (f.w - 1) : Int)
       | 2 => -(2 ^ (f.w - 1) - 1 : Int)
       | _ => 0)
    else if code < 2 ^ (f.w - 1) then code else (code : Int) - 2 ^ f.w
  else code

def IntFmt.lo (f : IntFmt) : Int :=
  if f.signed then (if f.subst = 0 then -(2 ^ (f.w - 1) : Int) else -(2 ^ (f.w - 1) - 1 : Int)) else 0
def IntFmt.hi (f : IntFmt) : Int := if f.signed then 2 ^ (f.w - 1) - 1 else 2 ^ f.w - 1

def IntFmt.encode (f : IntFmt) (mode : Rnd) (x : FV) : Nat :=
  (clampInt f.lo f.hi (x.toIntegral mode) % 2 ^ f.w).toNat

/-! ### MX blocks (R41 to R43) -/

/-- The element format of an MX format code 8, 9 or 10, by its plain code 3, 4 or 5, and emax (Table 3.4). -/
def mxEmax : Nat → Int
  | 3 => 8
  | 4 => 15
  | _ => 3

/-- An element of format 3, 4 or 5. -/
def smallDecode (code x : Nat) : FV :=
  match code with
  | 3 => e4m3.decode x
  | 4 => e5m2.decode x
  | _ => lnsDecode x
def smallEncode (code : Nat) (mode : Rnd) (x : FV) : Nat :=
  match code with
  | 3 => e4m3.encode mode true x
  | 4 => e5m2.encode mode true x
  | _ => lnsEncode mode x

/-- An element under an E8M0 scale: NaN under code 255 (R43). -/
def mxDecode (code scale x : Nat) : FV :=
  if scale = 255 then .nan else (smallDecode code x).scale ((scale : Int) - 127)

/-- floor(log2 |x|) of a nonzero finite value. -/
def FV.logFloor : FV → Option Int
  | .fin _ m e => if m = 0 then none else some (m.log2 + e)
  | _ => none

def FV.isFinite : FV → Bool
  | .fin .. => true
  | _ => false

/-- The largest floor(log2 |x|) of a block, none when every input is zero. -/
def blockLog : List FV → Option Int
  | [] => none
  | x :: xs =>
    match x.logFloor, blockLog xs with
    | none, o => o
    | some a, none => some a
    | some a, some b => some (max a b)

/-- mx_quantise of R42: the scale code and the elements. -/
def mxQuantise (code : Nat) (xs : List FV) : Nat × List Nat :=
  if xs.any (fun x => !x.isFinite) then (255, xs.map fun _ => 0)
  else match blockLog xs with
    | none => (0, xs.map fun x => smallEncode code .rne x)
    | some l =>
      let s := max (l - mxEmax code) (-127)
      ((s + 127).toNat, xs.map fun x => smallEncode code .rne (x.scale (-s)))

/-! ### The reduction tree (R51) -/

/-- One level of Table 3.7. -/
def pairUp (f : Word → Word → Word) : List Word → List Word
  | x :: y :: r => f x y :: pairUp f r
  | xs => xs

/-- Node 0 after k levels. -/
def treeReduce (f : Word → Word → Word) : Nat → List Word → Word
  | 0, xs => xs.headD 0
  | k + 1, xs => treeReduce f k (pairUp f xs)

/-! ### Approximate functions (R53 to R59) -/

/-- floor(sqrt n) for n < 2^(2k), from the bits above k already in r. -/
def isqrtFrom : Nat → Nat → Nat → Nat
  | 0, _, r => r
  | k + 1, n, r => isqrtFrom k n (if (r + 2 ^ k) * (r + 2 ^ k) ≤ n then r + 2 ^ k else r)

/-- floor(v + 1/2) from floor(2 v). -/
def halfUp (floorTwice : Nat) : Nat := (floorTwice + 1) / 2

/-- Table Q. -/
def tabQ (n : Nat) : Nat := halfUp (2 ^ 25 * 128 / (128 + n))
/-- Table S0: floor(2 · 2^24 · sqrt(128/(128+n))) is an integer square root. -/
def tabS0 (n : Nat) : Nat := halfUp (isqrtFrom 26 (2 ^ 50 * 128 / (128 + n)) 0)
/-- Table S1, the same of 64/(128+n). -/
def tabS1 (n : Nat) : Nat := halfUp (isqrtFrom 26 (2 ^ 50 * 64 / (128 + n)) 0)

/-- The largest x whose 128th power is at most b, from the bits above k already in r. -/
def root128From : Nat → Nat → Nat → Nat
  | 0, _, r => r
  | k + 1, b, r => root128From k b (if (r + 2 ^ k) ^ 128 ≤ b then r + 2 ^ k else r)

/-- Table P: floor(2^24 · 2^(n/128)) is a 128th root. -/
def tabP (n : Nat) : Nat := halfUp (root128From 26 (2 ^ (24 * 128 + n)) 0)

/-- The next k binary digits of log2(y / 2^128), for 2^128 ≤ y < 2^129, by repeated squaring, above those in r. -/
def log2Digits : Nat → Nat → Nat → Nat
  | 0, _, r => r
  | k + 1, y, r =>
    let z := y * y / 2 ^ 128
    if 2 ^ 129 ≤ z then log2Digits k (z / 2) (2 * r + 1) else log2Digits k z (2 * r)

/-- Table G: 25 digits of log2(1 + n/128), rounded half up at 24. -/
def tabG (n : Nat) : Nat :=
  if n = 128 then 2 ^ 24 else halfUp (log2Digits 25 ((128 + n) * 2 ^ 121) 0)

/-- lerp(Tab, i, d). -/
def lerp (tab : Nat → Nat) (i d : Nat) : Int :=
  (tab i : Int) + (((tab (i + 1) : Int) - tab i) * d / 2 ^ 16)

/-- normalise of R54 for m · 2^e: (M, e') with 2^23 ≤ M < 2^24 and m · 2^e = M · 2^(e' − 23). FP32 inputs only. -/
def normalise (m : Nat) (e : Int) : Nat × Int :=
  let l := m.log2
  (m * 2 ^ (23 - l), (l : Int) + e)

def signed (neg : Bool) (y : Int) (e : Int) : FV := .fin neg y.toNat e

/-- rcp (R55, Table 3.8). -/
def rcpF32 (x : Word) : Word :=
  match ofF32 x with
  | .nan => nan32
  | .inf neg => f32 (.fin neg 0 0)
  | .fin neg 0 _ => f32 (.inf neg)
  | .fin neg m e =>
    let p := normalise m e
    f32 (signed neg (lerp tabQ ((p.1 - 2 ^ 23) / 2 ^ 16) ((p.1 - 2 ^ 23) % 2 ^ 16)) (-24 - p.2))

/-- rsq (R56). -/
def rsqF32 (x : Word) : Word :=
  match ofF32 x with
  | .nan => nan32
  | .inf neg => if neg then nan32 else 0
  | .fin neg 0 _ => f32 (.inf neg)
  | .fin true _ _ => nan32
  | .fin false m e =>
    let p := normalise m e
    let tab := if p.2 % 2 = 0 then tabS0 else tabS1
    f32 (signed false (lerp tab ((p.1 - 2 ^ 23) / 2 ^ 16) ((p.1 - 2 ^ 23) % 2 ^ 16)) (-24 - (p.2 - p.2 % 2) / 2))

/-- floor(m · 2^e · 2^k) with sign. -/
def floorScaled (neg : Bool) (m : Nat) (e : Int) : Int :=
  let p := splitAt2 m e 0
  if neg then (if p.2.1 = 0 then -(p.1 : Int) else -(p.1 : Int) - 1) else p.1

/-- exp2 (R57). -/
def exp2F32 (x : Word) : Word :=
  match ofF32 x with
  | .nan => nan32
  | .inf neg => if neg then 0 else f32 (.inf false)
  | .fin neg m e =>
    if !(FV.fin neg m e).lt (.fin false 128 0) then f32 (.inf false)
    else if (FV.fin neg m e).lt (.fin true 150 0) then 0
    else
      let n := floorScaled neg m e
      let fr := (floorScaled neg m (e + 23) - n * 2 ^ 23).toNat
      f32 (signed false (lerp tabP (fr / 2 ^ 16) (fr % 2 ^ 16)) (n - 23))

/-- log2 (R58). -/
def log2F32 (x : Word) : Word :=
  match ofF32 x with
  | .nan => nan32
  | .inf neg => if neg then nan32 else f32 (.inf false)
  | .fin _ 0 _ => f32 (.inf true)
  | .fin true _ _ => nan32
  | .fin false m e =>
    let p := normalise m e
    let y := p.2 * 2 ^ 24 + lerp tabG ((p.1 - 2 ^ 23) / 2 ^ 16) ((p.1 - 2 ^ 23) % 2 ^ 16)
    f32 (.fin (decide (y < 0)) y.natAbs (-24))

/-- tanh (R59). -/
def tanhF32 (x : Word) : Word :=
  match ofF32 x with
  | .nan => nan32
  | .inf neg => if neg then 0xbf800000#32 else 0x3f800000#32
  | .fin neg m e =>
    let a := absF32 x
    if m = 0 then x
    else if (FV.fin false m e).lt (.fin false 1 (-2)) then
      let z := mulF32 x x
      let p := fmaF32 0xbd5d0dd4#32 z 0x3e088889#32
      let q := fmaF32 p z 0xbeaaaaab#32
      fmaF32 x (mulF32 q z) x
    else if !(FV.fin false m e).lt (.fin false 9 0) then (if neg then 0xbf800000#32 else 0x3f800000#32)
    else
      let b := exp2F32 (mulF32 a 0x4038aa3b#32)
      let c := addF32 b 0x3f800000#32
      let r := f32 ((FV.ofInt 1).sub ((FV.ofInt 2).mul (ofF32 (rcpF32 c))))
      if neg then negF32 r else r

end Sys2Proof.Machine
end

