-- ==== Sys2Proof/Syntax.lean ====
section
/-! DEFINITION. The steps of the part: one constructor of Instr per row of spec/opcode_table.json, and the plain data that
steps carry. A stream instruction carries the fields of its word (R87 to R91); a trigger
of sa or sb, ag0 or ag1 carries the unit (false for the first); its operands are the ports of the context it runs on
(R84). A device event carries the number of the core, context, die or the ticket of the work it concerns. -/
namespace Sys2Proof

/-- A guest completion packet (R363). -/
structure GuestPacket where
  seq    : BitVec 32
  status : BitVec 16
  opcode : BitVec 16
  count0 : BitVec 32
  count1 : BitVec 32
  count2 : BitVec 32
  count3 : BitVec 32
  value  : BitVec 64
  deriving DecidableEq, Repr

/-- A guest request through the coherent port (R365): what it asks at a device virtual address. Each byte that is written carries its
poison mark (R375). -/
inductive GuestAsk where
  | read (len : Nat)
  | rawRead (len : Nat)
  | write (bytes : List (BitVec 8 × Bool)) (keep : Bool)   -- keep: the guest goes on holding the lines modified
  | atomic (code : Nat) (operand compare : BitVec 32)      -- on the 32-bit word at the address; codes as in Table 13.7
  | translate
  deriving DecidableEq, Repr

/-- translated tells that the guest has translated the address itself (R365). -/
structure GuestRequest where
  translated : Bool
  home : BitVec 3
  index : BitVec 20
  generation : BitVec 9
  offset : BitVec 45
  ask : GuestAsk
  deriving DecidableEq, Repr

/-- Where a protection mechanism finds an error (Table 27.1). -/
inductive ErrorPlace where
  | granule (addr : Nat)                 -- scratchpad granule holding a physical scratchpad address
  | sector (addr : Nat)                  -- sector holding a device memory address
  | l2 (addr : Nat)                      -- sector of an L2 line holding a storage address
  | l2Tag (addr : Nat)                   -- the tag of the L2 line that holds a storage address
  | compTag (addr tag : Nat)             -- the compression tag of the granule that holds a storage address, which reads so
  | register (ctx src lane : Nat)        -- a word of a register or result port named by its source code (R66)
  | operand (ctx port lane : Nat)        -- a word of an operand port
  | snapshot (ctx idx lane : Nat)        -- a word of a snapshot-buffer entry
  | gate (ctx idx word : Nat)            -- a 32-bit word of a store in the store gate
  | result (ctx port lane : Nat)         -- the result a datapath is about to write into a result port
  | accum (ctx tile : Nat)               -- an accumulator tile the matrix engine writes
  | codebook (core bank index : Nat)
  | rowSlot (core slot row : Nat)
  | tableEntry (replica key : Nat)
  | record (tensor : Nat)
  | streamWord (sid pc : Nat)
  | streamState (sid place : Nat)        -- 64 bits of a stream's state: g0 to g31, t0 to t31 in pairs, counters 0 to 63 in pairs
  deriving DecidableEq, Repr

structure ErrorEvent where
  place : ErrorPlace
  corrected : Bool
  syndrome : BitVec 32
  deriving DecidableEq, Repr

/-- The links whose failure R378 treats. -/
inductive LinkKind where
  | mesh | expander | peer | guest | scratchFabric | sequencer
  deriving DecidableEq, Repr

/-- Host registers that have no row of their own in the table (R348, R352, R353, R357, R360, Table 19.4,
Table 23.2, R370, R384). -/
inductive HostReg where
  | aperture (slot : Nat)
  | lsrc | llen | lslot | lgo | lrel | lmap
  | fact (sid : Nat) | arg0 (sid : Nat) | arg1 (sid : Nat) | gk (sid k : Nat)
  | cmd (sid : Nat)
  | cwCons
  | tuSlot (slot word : Nat) | tuProd
  | cstSpill (die : Nat) | cstComp (die : Nat) | cstFloor (die : Nat) | cstRcmp (die : Nat) | cstDepth (die : Nat)
  | cstNeard (die : Nat) | cstFetchd (die : Nat)
  | accThresh (die : Nat) | tmig (die : Nat) | trcEn (die : Nat)
  | collTmo
  | mbArg | mbLen | mbData (byte : Nat)
  | readOnly
  deriving DecidableEq, Repr

/-- One constructor per row of spec/opcode_table.json. -/
inductive Instr where
  /-- R71: A context issues one bundle: header wait and clear, guards, reads of all sources and the plain register moves, once per REP repeat. -/
  | bundleIssue (core : Nat)
  /-- R303: A context that has issued 512 bundles since it became current forces a switch. -/
  | rotationCountExpiry (core : Nat)
  /-- R305: A context that has been ready without issuing for 1536 cycles becomes aged and forces a switch at the next bundle boundary. -/
  | contextAged (core : Nat)
  /-- R77: The result of an exposed-latency trigger lands in the context's result port at the end of cycle t + L − 1. -/
  | exposedResultLand (core : Nat)
  /-- R147: Four cycles after a write to fmt issues, the new value takes effect for later bundles. -/
  | fmtWriteEffect (core : Nat)
  /-- R184: Four cycles after a codebook entry write issues, readers on the core see the new entry. -/
  | cbwrVisible (core : Nat)
  /-- R189: On first use of a bank with a foreign owner tag, the old owner's contents are saved if changed, the requester's area is loaded and the owner changes. -/
  | codebookTake (core : Nat)
  /-- R314: At a marked, entry or implicit boundary the context waits for earlier translations, starts the store-gate drain and copies its shadowed state. -/
  | restartMark (ctx : Nat)
  /-- R316: An implicit mark is taken around a closing bundle, after 1024 bundles of a region, when the gate would overflow, or at pre-emption. -/
  | implicitMark (ctx : Nat)
  /-- R315: The gated stores of a region are performed in program order at their granules or enter the collector. -/
  | storeGateDrain (ctx : Nat)
  /-- R151: Eighteen cycles after a division or remainder trigger, quotient and remainder land together in sm.q and sm.qh. -/
  | smDivisionResult (core : Nat)
  /-- R196: A scratchpad load, store, atomic or barrier-object operation is performed and delivers its result to ls.q. -/
  | lsAccessComplete (id : Nat)
  /-- R200: A remote full/empty operation waiting at core c finds its condition met and is performed. -/
  | remoteFePerformed (id : Nat)
  /-- R211: The core's transfer path fills an i-port buffer or drains an o-port buffer by one element. -/
  | streamElementTransfer (ctx port : Nat)
  /-- R312: A tile command starts once the translation of every page it touches has completed. -/
  | tileCmdTranslate (id : Nat)
  /-- R218: A tile command completes, sets its completion flag and writes its fingerprint. -/
  | tileCmdComplete (id : Nat)
  /-- R226: A global word load, store, atomic or versioned operation completes and delivers gv.q or gv.qv. -/
  | gvAccessComplete (id : Nat)
  /-- R249: A queued matrix operation starts once the previous entry is visible and every ring granule it waits for is full. -/
  | mxOpStart (core : Nat)
  /-- R249: A matrix operation retires: its accumulator, scratchpad and F-bit writes and ring pops take effect and mx.q is delivered. -/
  | mxOpRetire (core : Nat)
  /-- R262: A row-engine command completes, writes its slot or Y granules and sets rw.q. -/
  | rwCmdComplete (core : Nat)
  /-- R186: A codebook load completes: entries become valid, the generation advances, the bank stops being busy and the flag is set. -/
  | cbldComplete (id : Nat)
  /-- R206: T cycles after a wait reached the object, an unfinished bar.wait returns 1 and Waiters falls. -/
  | barWaitTimeout (id : Nat)
  /-- R233: Every participant has arrived at a (scope, id) round, so waiting syncs, waits and votes complete. -/
  | bnRoundComplete (id : Nat)
  /-- R235: A publication, acquire, phase or fence completes once the earlier global stores are performed and published at its scope. -/
  | bnPubComplete (id : Nat)
  /-- R273: A store held in a die's collector drains to its home. -/
  | collectorDrain (id : Nat)
  /-- R273: 100 µs after a di publication, every store it published must have drained to its home. -/
  | diDrainDeadline (die : Nat)
  /-- R239: The guest accepts a pushed packet and gq.q receives its sequence number. -/
  | gqAccept (id : Nat)
  /-- R239: A guest completion packet arrives and is written at the completion address, then the flag is set. -/
  | gqCompletion (id : Nat)
  /-- R21: A waiting barge is placed on the qualifying cluster with the most usable free contexts and its tasks start. -/
  | placeBarge (die : Nat)
  /-- R23: A barge whose tasks have all halted and whose engine commands have all completed frees its contexts. -/
  | bargeRetire (barge : Nat)
  /-- R124: A dispatched xform, route, a2av, coll or gop completes, releasing its stores and decrementing its counter. -/
  | launchedOpComplete (id : Nat)
  /-- R355: A waiting fault, error, completion or signal record is posted to the completion window once the ring has room. -/
  | completionRecordPost
  /-- R308: The sequencer stops a lower-priority barge, catches its in-flight results, settles its work and starts saving it. -/
  | preempt (barge : Nat)
  /-- R309: The save of a pre-empted barge completes, its contexts are freed and it enters the resume list. -/
  | saveComplete (barge : Nat)
  /-- R312: On a later release of H storage the engine retries the save-area allocation of a host-suspended barge. -/
  | saveAreaRetry (die : Nat)
  /-- R313: A suspended barge whose contexts are free again is restored and resumes. -/
  | resumeBarge (barge : Nat)
  /-- R319: A walker translates a tensor offset through the segment and page tables and checks the access. -/
  | translationWalk (id : Nat)
  /-- R323: The table-update engine writes an update into all eight replicas, splintering leaves when needed, then shoots down. -/
  | tableUpdate
  /-- R324: TLB dirty bits are written into all replicas on shoot-down, last retirement or the harvest command. -/
  | dirtyHarvest
  /-- R324: Every 2 ms on the I/O die timer a harvest of dirty bits is forced. -/
  | forcedHarvest
  /-- R322: A segment's translations are held, its busy count drains, its pages are copied and the tables are updated. -/
  | segmentMigration (tensor seg : Nat) (toL : Bool)
  /-- R292: When free H is below a request, eligible tensors are released, compressed, spilled or dropped until the request is covered. -/
  | victimSelection (die : Nat)
  /-- R293: A spill copy to tier L completes, the tensor becomes SPILL_L and its H storage is released. -/
  | spillCopyComplete (tensor : Nat)
  /-- R291: A SPILL_L tensor is copied back to H by distance, notification or pin, and becomes RES_H. -/
  | fetch (tensor : Nat)
  /-- R297: A dropped tensor's recipe is replayed on its home die, recursing for dropped inputs. -/
  | replay (id : Nat)
  /-- R297: Every operation of a replay has completed, its bound tensors become RES_H and the estimate is measured again. -/
  | replayComplete (id : Nat)
  /-- R300: The residency engine takes a notification from its queue, fetches, migrates or discards, and re-arms the counter. -/
  | accessNotification (die : Nat)
  /-- R340: The residency engine refills the overflow reserve from free H. -/
  | overflowReserveRefill (die : Nat)
  /-- R339: A dirty line is written back; into a compressed page each touched granule is expanded, merged, re-encoded and its block re-packed. -/
  | l2Writeback (line : Nat)
  /-- R335: A request that reaches a bank under refresh receives RETRY with a wait hint. -/
  | retryResponse (id hint : Nat)
  /-- R335: After the wait hint elapses the requester reissues the retried request. -/
  | retryReissue (id : Nat)
  /-- R335: A base die refreshes the banks of its stack on its own schedule. -/
  | refresh (bank : Nat) (busy : Bool)
  /-- R345: A cross-die request whose response has not arrived 10 000 ticks after sending times out. -/
  | crossDieRequestTimeout (id : Nat)
  /-- R373: The scrub visits arrays and memory, corrects single faults and poisons what it cannot correct. -/
  | patrolScrub (find : ErrorEvent) (newSector : List (BitVec 8))
  /-- R372: A protection mechanism detects an error and corrects it or poisons the data. -/
  | errorDetected (err : ErrorEvent)
  /-- R372: A flit with a CRC error is replayed on its link. -/
  | linkReplay (stack unit : Nat)
  /-- R378: A link fails after retraining and its unit is fenced, or the device becomes FATAL. -/
  | linkFailure (kind : LinkKind) (unit : Nat)
  /-- R386: A stack whose junction reaches 105 °C runs at the lowest clock. -/
  | thermalThrottle (stack : Nat)
  /-- R386: A stack whose junction reaches 115 °C is fenced with reason 6. -/
  | thermalTrip (stack : Nat)
  /-- R387: The device verifies firmware, trains links, loads the identity map, publishes capabilities and sets READY. guest tells whether the guest site
  finds a guest to train (R351, R361). -/
  | reset (guest : Bool)
  /-- R115: Loads a sign-extended immediate into a g register. -/
  | li (a : BitVec 5) (imm : BitVec 32)
  /-- R115: Adds a sign-extended immediate to a g register. -/
  | addi (a b : BitVec 5) (imm : BitVec 32)
  /-- R115: Adds two g registers modulo 2^64. -/
  | add (a b c : BitVec 5)
  /-- R115: Subtracts two g registers modulo 2^64. -/
  | sub (a b c : BitVec 5)
  /-- R115: Multiplies two g registers, keeping the low 64 bits. -/
  | mul (a b c : BitVec 5)
  /-- R115: Shifts a g register left. -/
  | sll (a b c : BitVec 5)
  /-- R115: Shifts a g register right, unsigned. -/
  | srl (a b c : BitVec 5)
  /-- R116: Branches unconditionally by a word offset. -/
  | b (imm : BitVec 32)
  /-- R116: Branches when two g registers are equal. -/
  | beq (a b : BitVec 5) (imm : BitVec 32)
  /-- R116: Branches when two g registers differ. -/
  | bne (a b : BitVec 5) (imm : BitVec 32)
  /-- R116: Branches when one g register is signed-less than another. -/
  | blt (a b : BitVec 5) (imm : BitVec 32)
  /-- R116: Writes the next PC to a link register and branches. -/
  | call (a : BitVec 5) (imm : BitVec 32)
  /-- R116: Sets the PC from a link register. -/
  | ret (a : BitVec 5)
  /-- R118: Defines a tensor from a descriptor, allocating its record and H storage. -/
  | tdef (a : BitVec 5) (imm : BitVec 32)
  /-- R119: Releases a tensor, advancing its generation and freeing storage at busy count zero. -/
  | tfree (a : BitVec 5)
  /-- R120: Makes a tensor resident and uncompressed and increments its pin count. -/
  | tpin (a : BitVec 5)
  /-- R120: Decrements a tensor's pin count. -/
  | tunpin (a : BitVec 5)
  /-- R122: Attaches a use list to a tensor. -/
  | tuse (a : BitVec 5) (imm : BitVec 32)
  /-- R121: Replaces a tensor's residency hint. -/
  | thint (a : BitVec 5) (hint : BitVec 4)
  /-- R123: Reads a field of a tensor record into a g register. -/
  | tstat (a b : BitVec 5) (sel : BitVec 4)
  /-- R128: Checks and dispatches a kernel launch of G barges of n tasks. -/
  | opr (a b c : BitVec 5) (mode : BitVec 2) (fixDie : BitVec 3) (nt : BitVec 4) (kernel : BitVec 16) (ctr : BitVec 6) (ng : BitVec 5)
  /-- R130: Dispatches a convert, transpose, compress, expand or requantize transform. -/
  | xform (a b : BitVec 5) (kind : BitVec 4) (fmt : BitVec 4) (ctr : BitVec 6)
  /-- R132: Dispatches a sort of token-expert pairs into permutation, counts and offsets. -/
  | route (a b c : BitVec 5) (experts : BitVec 16) (ctr : BitVec 6)
  /-- R134: Dispatches an uneven all-to-all exchange over a group. -/
  | a2av (a b c : BitVec 5) (group : BitVec 16) (ctr : BitVec 6)
  /-- R136: Builds a guest command packet from handles and hands it to the guest queue. -/
  | gop (a : BitVec 5) (countM1 : BitVec 2) (opcode : BitVec 16) (ctr : BitVec 6)
  /-- R135: Dispatches an all-reduce, all-gather or reduce-scatter over a group. -/
  | coll (a b : BitVec 5) (kind : BitVec 2) (group : BitVec 16) (ctr : BitVec 6)
  /-- R137: Opens a recipe bracket and saves the registers into a recipe frame. -/
  | rcpb
  /-- R137: Closes a recipe bracket and records its recipe inputs. -/
  | rcpe
  /-- R139: Blocks the stream until a dependency counter is 0, acquiring at pk. -/
  | depw (ctr : BitVec 6)
  /-- R139: Sets a dependency counter from a g register. -/
  | depset (a : BitVec 5) (ctr : BitVec 6)
  /-- R141: Waits for earlier operations in scope, then releases and acquires at that scope. -/
  | phase (scope : BitVec 3)
  /-- R141: Waits for earlier dispatched operations in scope to complete. -/
  | fence (scope : BitVec 3)
  /-- R142: Puts the stream in HALTED. -/
  | halt
  /-- R142: Stops the stream in FAULTED with SQ_TRAP and a code. -/
  | trap (code : BitVec 32)
  /-- R142: Does nothing. -/
  | nop
  /-- R148: sa or sb: x + y wrapped. -/
  | saAdd (second : Bool)
  /-- R148: sa or sb: x − y wrapped. -/
  | saSub (second : Bool)
  /-- R148: sa or sb: y − x wrapped. -/
  | saRsub (second : Bool)
  /-- R148: sa or sb: bitwise and. -/
  | saAnd (second : Bool)
  /-- R148: sa or sb: bitwise or. -/
  | saOr (second : Bool)
  /-- R148: sa or sb: bitwise xor. -/
  | saXor (second : Bool)
  /-- R148: sa or sb: x and not y. -/
  | saAndn (second : Bool)
  /-- R148: sa or sb: not y. -/
  | saNot (second : Bool)
  /-- R148: sa or sb: shift left. -/
  | saShl (second : Bool)
  /-- R148: sa or sb: logical shift right. -/
  | saShr (second : Bool)
  /-- R148: sa or sb: arithmetic shift right. -/
  | saSar (second : Bool)
  /-- R148: sa or sb: rotate left. -/
  | saRotl (second : Bool)
  /-- R148: sa or sb: signed minimum. -/
  | saMinS (second : Bool)
  /-- R148: sa or sb: signed maximum. -/
  | saMaxS (second : Bool)
  /-- R148: sa or sb: unsigned minimum. -/
  | saMinZ (second : Bool)
  /-- R148: sa or sb: unsigned maximum. -/
  | saMaxZ (second : Bool)
  /-- R148: sa or sb: equality test. -/
  | saEq (second : Bool)
  /-- R148: sa or sb: inequality test. -/
  | saNe (second : Bool)
  /-- R148: sa or sb: signed less-than. -/
  | saLtS (second : Bool)
  /-- R148: sa or sb: signed less-or-equal. -/
  | saLeS (second : Bool)
  /-- R148: sa or sb: unsigned less-than. -/
  | saLtZ (second : Bool)
  /-- R148: sa or sb: unsigned less-or-equal. -/
  | saLeZ (second : Bool)
  /-- R148: sa or sb: count leading zeros. -/
  | saClz (second : Bool)
  /-- R148: sa or sb: count trailing zeros. -/
  | saCtz (second : Bool)
  /-- R148: sa or sb: population count. -/
  | saPopc (second : Bool)
  /-- R149: sa or sb: sign-extended field extract. -/
  | saExtS (second : Bool)
  /-- R149: sa or sb: zero-extended field extract. -/
  | saExtZ (second : Bool)
  /-- R149: sa or sb: field insert from w. -/
  | saIns (second : Bool)
  /-- R148: sa or sb: result is y. -/
  | saMov (second : Bool)
  /-- R148: sa or sb: x if y ≠ 0, else w. -/
  | saSel (second : Bool)
  /-- R148: sa or sb: byte reversal. -/
  | saBswap (second : Bool)
  /-- R148: sa or sb: signed absolute difference. -/
  | saAbsd (second : Bool)
  /-- R150: Low 32 bits of x · y. -/
  | smMul
  /-- R150: High 32 bits of the signed product. -/
  | smMulhS
  /-- R150: High 32 bits of the unsigned product. -/
  | smMulhZ
  /-- R150: x · y + w wrapped. -/
  | smMad
  /-- R151: Starts a signed division, quotient to sm.q. -/
  | smDivS
  /-- R151: Starts an unsigned division, quotient to sm.q. -/
  | smDivZ
  /-- R151: Starts a signed division, remainder to sm.q. -/
  | smRemS
  /-- R151: Starts an unsigned division, remainder to sm.q. -/
  | smRemZ
  /-- R152: FP32 addition. -/
  | smFadd
  /-- R152: FP32 subtraction. -/
  | smFsub
  /-- R152: FP32 multiplication. -/
  | smFmul
  /-- R152: FP32 fused multiply-add. -/
  | smFfma
  /-- R152: FP32 minimum. -/
  | smFmin
  /-- R152: FP32 maximum. -/
  | smFmax
  /-- R152: FP32 absolute value. -/
  | smFabs
  /-- R152: FP32 negation. -/
  | smFneg
  /-- R152: FP32 less-than. -/
  | smFlt
  /-- R152: FP32 less-or-equal. -/
  | smFle
  /-- R152: FP32 equality. -/
  | smFeq
  /-- R153: FP32 to signed 32-bit integer by RND. -/
  | smFcvtS32
  /-- R153: FP32 to unsigned 32-bit integer by RND. -/
  | smFcvtZ32
  /-- R153: Signed 32-bit integer to FP32 by RND. -/
  | smIcvtS32
  /-- R153: Unsigned 32-bit integer to FP32 by RND. -/
  | smIcvtZ32
  /-- R152: Approximate reciprocal. -/
  | smFrcp
  /-- R152: Approximate reciprocal square root. -/
  | smFrsq
  /-- R152: Approximate exp2. -/
  | smFexp2
  /-- R152: Approximate log2. -/
  | smFlog2
  /-- R154: ag0 or ag1: returns a_j. -/
  | agGet (second : Bool)
  /-- R154: ag0 or ag1: returns a_j and post-increments it in its window. -/
  | agPinc (second : Bool)
  /-- R154: ag0 or ag1: returns a_j and post-decrements it in its window. -/
  | agPdec (second : Bool)
  /-- R154: ag0 or ag1: pre-increments a_j and returns it. -/
  | agPreinc (second : Bool)
  /-- R154: ag0 or ag1: adds a signed offset to a_j and returns it. -/
  | agAdd (second : Bool)
  /-- R154: ag0 or ag1: returns a_j plus a signed offset in its window. -/
  | agLea (second : Bool)
  /-- R154: ag0 or ag1: returns a_j plus index times stride in its window. -/
  | agIdx (second : Bool)
  /-- R341: Host read of ACC_OVF returns the overflow count and clears it. -/
  | accOvfRead (die : Nat)
  /-- R348: Host write of RECIDX latches one whole tensor record. -/
  | recidxWrite (die idx : Nat)
  /-- R370: Host write selecting a core latches its trace buffer, count and call depths. -/
  | trcSelWrite (die : Nat) (val : BitVec 32)
  /-- R289: A write to CST_NEARW resizes the near pool and demotes tensors when lowered. -/
  | cstNearwWrite (die : Nat) (val : BitVec 32)
  /-- R340: A write to CM_RESV resizes the overflow reserve. -/
  | cmResvWrite (die : Nat) (val : BitVec 32)
  /-- R359: Host write to a group entry, ignored while a collective of the group is outstanding. -/
  | groupTableWrite (group q : Nat) (ranks : List (BitVec 16))
  /-- R5: Host write to any register without a row of its own. -/
  | registerWrite (reg : HostReg) (val : BitVec 64)
  /-- R352: LGO command 1: reads and checks a container and loads a kernel or stream image. -/
  | load (file : Option (List (BitVec 8)))
  /-- R352: LGO command 2: releases the kernel image LREL names unless it is bound or running. -/
  | releaseImage
  /-- R352: A load or release operation ends and LSTAT receives its status. -/
  | loadOperationEnd
  /-- R354: Starts a stream at its entry word. -/
  | start (sid : Nat)
  /-- R354: Resumes a faulted stream at its PC. -/
  | resume (sid : Nat)
  /-- R354: Resumes a faulted stream at PC + 1. -/
  | skip (sid : Nat)
  /-- R354: Stops a stream's sequencer execution and pre-empts its barges. -/
  | suspend (sid : Nat)
  /-- R354: Clears SUSP and puts suspended barges into resume lists. -/
  | continue_ (sid : Nat)
  /-- R354: Writes a kernel-table entry with an image identifier. -/
  | bind (sid : Nat)
  /-- R354: Empties a stream slot and invalidates its recipes. -/
  | unload (sid : Nat)
  /-- R354: Resumes a stopped context at its resume point. -/
  | cresume (sid : Nat)
  /-- R354: Resumes a stopped context after its resume-point bundle. -/
  | cskip (sid : Nat)
  /-- R354: Ends a stopped context's task as END does. -/
  | cend (sid : Nat)
  /-- R357: Table request: allocates, zero-fills and maps not-present pages. -/
  | map
  /-- R357: Table request: clears V and releases frames. -/
  | unmap
  /-- R357: Table request: sets the W bit of pages. -/
  | protect
  /-- R357: Table request: moves pages to H or tier L. -/
  | migrate
  /-- R357: Table request: releases a tensor as tfree does. -/
  | release
  /-- R349: A host read through an aperture slot, expanded or poisoned as the checks decide. -/
  | hostCoherentRead (slot off len : Nat)
  /-- R349: A host write through an aperture slot, performed or discarded. -/
  | hostCoherentWrite (slot off : Nat) (bytes : List (BitVec 8 × Bool))
  /-- R359: A collective message from a peer rank arrives and its Q and rank are checked. -/
  | peerCollectiveMessage (id rank q senderRank : Nat) (agrees : Bool) (counts : List (Int × Bool)) (data : List (BitVec 8 × Bool))
  /-- R360: A collective waiting longer than COLL_TMO for a peer ends with a TIMEOUT record. -/
  | collTimeout (id : Nat)
  /-- R361: Host write of FENCE fences the guest with reason HOST. -/
  | siteFence
  /-- R367: Host request to pre-empt the guest. -/
  | gpreempt
  /-- R367: Host request to end a guest pre-emption and re-deliver checkpointed packets. -/
  | gresume
  /-- R364: The site accepts a packet into its ingress queue, gives it GSEQ and delivers it. -/
  | guestPacketDelivery (id : Nat)
  /-- R363: A guest completion packet arrives for an outstanding sequence number. -/
  | completionPacket (pkt : GuestPacket)
  /-- R366: A guest fault record arrives and becomes a GUEST fault or error record. -/
  | guestFaultRecord (seq : BitVec 32) (code : BitVec 16) (kind : BitVec 8) (handle page : BitVec 32)
  /-- R365: A guest request through the coherent port is translated and performed. -/
  | guestCoherentRequest (req : GuestRequest)
  /-- R366: The guest acknowledges a shoot-down. -/
  | guestShootdownAck
  /-- R366: 2 µs pass without the guest's shoot-down acknowledgement and the guest is fenced. -/
  | guestShootdownTimeout
  /-- R367: The guest acknowledges pre-emption and STATE becomes 3. -/
  | guestPreemptAck
  /-- R367: 50 µs pass without the guest's pre-emption acknowledgement and the guest is fenced. -/
  | guestPreemptTimeout
  /-- R368: The guest draws more than 150 W for 10 ms and is fenced. -/
  | guestPowerExceeded
  /-- R384: Mailbox command returning the oldest error record or summary counters. -/
  | elog
  /-- R384: Mailbox command preparing the identity certificate. -/
  | cert
  /-- R383: Mailbox command preparing a signed attestation report. -/
  | attest
  /-- R384: Mailbox command reading a chunk of the prepared output. -/
  | rdout
  /-- R384: Mailbox command staging firmware bytes in recovery mode. -/
  | fwload
  /-- R382: Mailbox command verifying, writing and starting the staged image. -/
  | fwcommit
  /-- R384: Mailbox command mapping or unmapping a virtual die. -/
  | setmap
  /-- R384: Mailbox command fencing a unit with reason 4. -/
  | mailboxFence
  /-- R385: Mailbox command setting the power cap. -/
  | pcap
  /-- R385: Mailbox command entering or leaving power state P1. -/
  | pstate
  /-- R112: An operation without barges (xform, route, a2av, coll, gop) starts on its engines and frees its entry in the die's launch queue. -/
  | launchedOpStart (id : Nat)
  /-- R291: The copy of a fetched SPILL_L tensor back to H completes and the tensor leaves MOVING for RES_H, releasing dispatches and tpin that wait on it. -/
  | fetchCopyComplete (tensor : Nat)
  /-- R380: The copy of a fenced stack's virtual die to the spare stack completes, the die is remapped, held completions are delivered and its streams and barges continue there. -/
  | spareCopyComplete (die : Nat)
  /-- R384: A mailbox command finishes, MB_STAT receives its status with busy cleared, and MSI-X vector 2 is raised. -/
  | mailboxCommandComplete
  /-- R351: A peer port whose link partner becomes available trains and comes up, changing its Peers capability state and advancing CAPGEN. -/
  | peerPortUp (port : Nat) (up : Bool)
  /-- R158: Redirects by a signed offset after the delay bundle. -/
  | brJmp
  /-- R158: Redirects to a bundle number after the delay bundle. -/
  | brJma
  /-- R157: Writes the link, increments call depth and redirects. -/
  | brCall
  /-- R157: Decrements call depth and redirects. -/
  | brRet
  /-- R160: Pushes a counted loop frame. -/
  | brLoop
  /-- R161: Pushes a staged loop frame and sets the stage predicates. -/
  | brLoops
  /-- R160: Pops the innermost frame and redirects past its end. -/
  | brBrk
  /-- R163: Ends the task after this bundle. -/
  | brHalt
  /-- R163: Gives up the issue slot after this bundle. -/
  | brYield
  /-- R164: Raises CORE_TRAP after this bundle. -/
  | brTrap
  /-- R244: Writes the shape register. -/
  | mxShape
  /-- R246: Writes the ring selection. -/
  | mxRing
  /-- R252: Queues a matrix product that accumulates into tiles. -/
  | mxMma
  /-- R252: Queues a matrix product whose first block sets the tiles. -/
  | mxMmaz
  /-- R253: Queues one online-softmax step. -/
  | mxMmasm
  /-- R255: Queues a drain of a tile region to scratchpad. -/
  | mxDrain
  /-- R256: Queues a drain fused with an activation derivative. -/
  | mxDrainf
  /-- R254: Queues zeroing of accumulator tiles. -/
  | mxZero
  /-- R254: Queues loading a tile from scratchpad. -/
  | mxLdacc
  /-- R254: Queues scaling of tiles by a factor or by 1/rsum. -/
  | mxScale
  /-- R254: Queues reading one rmax or rsum entry into mx.q. -/
  | mxRowstat
  /-- R254: Queues resetting a tile's side registers. -/
  | mxSmreset
  /-- R254: Queues an entry that retires after all before it. -/
  | mxFence
  /-- R264: Queues computing normalisation statistics into a slot. -/
  | rwFstat
  /-- R264: Queues a row softmax with its statistics. -/
  | rwFsmx
  /-- R264: Queues normalising rows from slot statistics. -/
  | rwNorm
  /-- R264: Queues the layer-norm backward pass. -/
  | rwBln
  /-- R264: Queues the RMS-norm backward pass. -/
  | rwBrms
  /-- R264: Queues the softmax backward pass. -/
  | rwBsm
  /-- R263: Claims, saves or loads a row-engine slot. -/
  | rwSlot
  /-- R261: Releases a row-engine slot. -/
  | rwFree
  /-- R219: Queues a tile load from a tensor into scratchpad. -/
  | txLd
  /-- R220: Queues a tile load into a ring's tail slot. -/
  | txLdr
  /-- R221: Queues a tile store from scratchpad to a tensor. -/
  | txSt
  /-- R221: Queues a tensor-to-tensor tile copy. -/
  | txCp
  /-- R222: Queues a prefetch of a tile into L2. -/
  | txPf
  /-- R224: Reads a fingerprint field once its flag's commands are done. -/
  | txFpr
  /-- R217: Sets the context's tile-command limit. -/
  | txQlim
  /-- R217: Returns the free tile-queue space. -/
  | txQspc
  /-- R198: Loads a sign-extended byte. -/
  | lsLd8S
  /-- R198: Loads a zero-extended byte. -/
  | lsLd8Z
  /-- R198: Loads a sign-extended half. -/
  | lsLd16S
  /-- R198: Loads a zero-extended half. -/
  | lsLd16Z
  /-- R198: Loads a word. -/
  | lsLd32
  /-- R198: Loads 256 bytes. -/
  | lsLdv
  /-- R198: Stores a byte. -/
  | lsSt8
  /-- R198: Stores a half. -/
  | lsSt16
  /-- R198: Stores a word. -/
  | lsSt32
  /-- R198: Stores 256 bytes. -/
  | lsStv
  /-- R199: Waits for full, loads a word. -/
  | lsLdwf
  /-- R199: Waits for full, loads a word and sets empty. -/
  | lsLdwfe
  /-- R199: Waits for empty, stores a word and sets full. -/
  | lsStwe
  /-- R199: Stores a word and sets full without waiting. -/
  | lsStfull
  /-- R199: Waits for eight granules full, loads 256 bytes. -/
  | lsLdvwf
  /-- R199: Waits for eight granules full, loads and sets them empty. -/
  | lsLdvwfe
  /-- R199: Waits for eight granules empty, stores and sets them full. -/
  | lsStvwe
  /-- R199: Sets n granules full. -/
  | lsSetf
  /-- R199: Sets n granules empty. -/
  | lsSete
  /-- R199: Reads a granule's F bit. -/
  | lsGetf
  /-- R202: Completes once every earlier ls operation is performed. -/
  | lsFence
  /-- R201: Scratchpad atomic add. -/
  | lsAmoAdd
  /-- R201: Scratchpad compare-and-swap. -/
  | lsAmoCas
  /-- R201: Scratchpad atomic swap. -/
  | lsAmoSwap
  /-- R201: Scratchpad atomic signed maximum. -/
  | lsAmoMax
  /-- R204: Initialises a barrier object. -/
  | lsBarInit
  /-- R205: Arrives at a barrier object with a count. -/
  | lsBarArrive
  /-- R206: Waits, with a timeout, for a barrier phase to end. -/
  | lsBarWait
  /-- R207: Reads a barrier object whole. -/
  | lsBarQuery
  /-- R209: Binds a stream port to a scratchpad walk. -/
  | lsSbind
  /-- R212: Unbinds a stream port and returns its element count. -/
  | lsSunbind
  /-- R169: Lane-wise FP32 addition. -/
  | vfAddF32
  /-- R169: Lane-wise FP32 subtraction. -/
  | vfSubF32
  /-- R169: Lane-wise FP32 multiplication. -/
  | vfMulF32
  /-- R169: Lane-wise FP32 fused multiply-add. -/
  | vfFmaF32
  /-- R169: Lane-wise FP32 w − x · y, one rounding. -/
  | vfFnmaF32
  /-- R169: Lane-wise FP32 minimum. -/
  | vfMinF32
  /-- R169: Lane-wise FP32 maximum. -/
  | vfMaxF32
  /-- R169: Lane-wise FP32 absolute value. -/
  | vfAbsF32
  /-- R169: Lane-wise FP32 less-than. -/
  | vfLtF32
  /-- R169: Lane-wise FP32 less-or-equal. -/
  | vfLeF32
  /-- R169: Lane-wise FP32 equality. -/
  | vfEqF32
  /-- R170: Element-wise BF16 addition. -/
  | vfAddBf16
  /-- R170: Element-wise BF16 multiplication. -/
  | vfMulBf16
  /-- R170: Element-wise BF16 fused multiply-add. -/
  | vfFmaBf16
  /-- R169: Lane-wise integer addition. -/
  | vfAddS32
  /-- R169: Lane-wise integer subtraction. -/
  | vfSubS32
  /-- R169: Lane-wise integer multiplication. -/
  | vfMulS32
  /-- R169: Lane-wise signed minimum. -/
  | vfMinS32
  /-- R169: Lane-wise signed maximum. -/
  | vfMaxS32
  /-- R169: Lane-wise and. -/
  | vfAnd
  /-- R169: Lane-wise or. -/
  | vfOr
  /-- R169: Lane-wise xor. -/
  | vfXor
  /-- R169: Lane-wise shift left. -/
  | vfShl
  /-- R169: Lane-wise logical shift right. -/
  | vfShr
  /-- R169: Lane-wise arithmetic shift right. -/
  | vfSar
  /-- R169: Lane-wise select. -/
  | vfSel
  /-- R169: Lane-wise four-way signed byte dot product plus w. -/
  | vfDot4S8
  /-- R171: FP32 sum over the fixed tree. -/
  | vfRsumF32
  /-- R171: FP32 maximum over the fixed tree. -/
  | vfRmaxF32
  /-- R171: Wrapped integer sum of lanes. -/
  | vfRsumS32
  /-- R171: Inclusive integer prefix sum. -/
  | vfScanS32
  /-- R171: Counts nonzero lanes. -/
  | vfCnt
  /-- R172: Permutes lanes of x and w by y. -/
  | vxPerm
  /-- R172: Broadcasts one lane. -/
  | vxBcast
  /-- R172: Rotates lanes. -/
  | vxRotl
  /-- R172: Interleaves the low halves. -/
  | vxZipLo
  /-- R172: Interleaves the high halves. -/
  | vxZipHi
  /-- R172: Takes even lanes of x then y. -/
  | vxUnzipLo
  /-- R172: Takes odd lanes of x then y. -/
  | vxUnzipHi
  /-- R172: Extracts one lane to vx.qs and broadcasts it. -/
  | vxExt
  /-- R172: Inserts a scalar into one lane. -/
  | vxIns
  /-- R173: Widens BF16 elements 0–63 to FP32. -/
  | vxCvtF32Bf16Lo
  /-- R173: Widens BF16 elements 64–127 to FP32. -/
  | vxCvtF32Bf16Hi
  /-- R173: Narrows two FP32 vectors to BF16. -/
  | vxCvtBf16F32
  /-- R173: Widens an E4M3 part to FP32. -/
  | vxCvtF32E4m3
  /-- R173: Narrows FP32 into an E4M3 part. -/
  | vxCvtE4m3F32
  /-- R173: Widens an E5M2 part to FP32. -/
  | vxCvtF32E5m2
  /-- R173: Narrows FP32 into an E5M2 part. -/
  | vxCvtE5m2F32
  /-- R173: Widens an LNS6 part to FP32. -/
  | vxCvtF32L6
  /-- R173: Narrows FP32 into an LNS6 part. -/
  | vxCvtL6F32
  /-- R173: Widens a signed 8-bit part to FP32. -/
  | vxCvtF32S8
  /-- R173: Narrows FP32 into a signed 8-bit part. -/
  | vxCvtS8F32
  /-- R174: Widens a format-6 part to FP32. -/
  | vxCvtF32Int
  /-- R173: Narrows FP32 into a format-6 part. -/
  | vxCvtIntF32
  /-- R175: Quantises two MX blocks into the packed layout. -/
  | vxMxq
  /-- R175: Decodes two packed MX blocks to FP32. -/
  | vxMxdq
  /-- R176: Lane-wise approximate exp2. -/
  | vxExp2
  /-- R176: Lane-wise approximate log2. -/
  | vxLog2
  /-- R176: Lane-wise approximate reciprocal. -/
  | vxRcp
  /-- R176: Lane-wise approximate reciprocal square root. -/
  | vxRsq
  /-- R176: Lane-wise approximate tanh. -/
  | vxTanh
  /-- R177: Compacts selected lanes. -/
  | vxCmpk
  /-- R177: Accumulates a 64-bin histogram. -/
  | vxHist
  /-- R183: Expands a slice of computed indices through the active bank. -/
  | vxCbx
  /-- R226: Loads a word of a tensor. -/
  | gvLd32
  /-- R226: Loads two words of a tensor. -/
  | gvLd64
  /-- R226: Stores a word of a tensor. -/
  | gvSt32
  /-- R226: Stores two words of a tensor. -/
  | gvSt64
  /-- R281: Loads a word and its line's version. -/
  | gvLdv
  /-- R230: Adds an entry to the validate set. -/
  | gvVadd
  /-- R230: Checks the validate set for a consistent snapshot. -/
  | gvVchk
  /-- R230: Empties the validate set. -/
  | gvVclr
  /-- R231: Versioned swap at the line's home. -/
  | gvCasv
  /-- R227: Global atomic add. -/
  | gvAmoAdd
  /-- R227: Global atomic FP32 add. -/
  | gvAmoFadd
  /-- R227: Global atomic signed minimum. -/
  | gvAmoMin
  /-- R227: Global atomic signed maximum. -/
  | gvAmoMax
  /-- R227: Global atomic swap. -/
  | gvAmoSwap
  /-- R227: Global compare-and-swap. -/
  | gvAmoCas
  /-- R227: Global reduction add without result. -/
  | gvRedAdd
  /-- R227: Global reduction FP32 add without result. -/
  | gvRedFadd
  /-- R234: Arrives at a network barrier and waits for the round. -/
  | bnSync
  /-- R234: Arrives at a network barrier. -/
  | bnArrive
  /-- R234: Waits for the round of the last arrival. -/
  | bnWait
  /-- R235: Publishes earlier global stores at a scope. -/
  | bnPub
  /-- R235: Acquires at a scope for later global loads. -/
  | bnAcq
  /-- R235: Publishes and acquires at a scope. -/
  | bnPhase
  /-- R235: Orders earlier and later global accesses without publishing. -/
  | bnFence
  /-- R234: Synchronises and returns the OR of votes. -/
  | bnVoteAny
  /-- R234: Synchronises and returns the AND of votes. -/
  | bnVoteAll
  /-- R236: Writes the format register with its shadow. -/
  | syFmt
  /-- R186: Starts loading a codebook bank from scratchpad. -/
  | syCbld
  /-- R185: Writes one half of one codebook entry. -/
  | syCbwr
  /-- R187: Selects the active codebook bank. -/
  | syCbsel
  /-- R236: Sets completion flags. -/
  | syFset
  /-- R236: Clears completion flags. -/
  | syFclr
  /-- R236: Posts a signal record to the completion window. -/
  | sySig
  /-- R237: Raises CORE_TRAP, keeping a pending redirect. -/
  | syTrap
  /-- R370: Writes a trace entry when tracing is enabled. -/
  | syDbg
  /-- R238: Sets the context's issue class. -/
  | syPrio
  /-- R236: Does nothing. -/
  | syNop
  /-- R239: Sends a 64-byte packet to the guest. -/
  | gqPush
  /-- R240: Returns the free guest-queue entries. -/
  | gqSpace
  /-- R240: Tests whether a sequence number's completion has arrived. -/
  | gqPoll
  /-- R348: Host write of HARVEST starts a dirty-bit harvest and clears when it completes. -/
  | harvest
  /-- R349: Host read of APST returns the aperture status and clears it. -/
  | apstRead
  deriving DecidableEq, Repr

end Sys2Proof
end

