-- ==== Sys2Proof/WellFormed.lean ====
section
/-! DEFINITION. Which stream instructions are well formed: the field limits that R90, R91, R114, R120 to R123, R128, R130,
R132, R135, R136, R139 and R141 put on the word itself. Every other step has no ill-formed term: a trigger has no field
but its unit. -/
namespace Sys2Proof

/-- A register range b, b + 1, …, b + n − 1 stays within g31 or t31 (R91). -/
def inFile (b : BitVec 5) (n : Nat) : Bool := b.toNat + n ≤ 32

/-- The field limits of a stream word. A violation is SQ_ILLEGAL. -/
def Instr.wf : Instr → Bool
  | .thint _ hint => hint.toNat ≤ 5
  | .tstat _ _ sel => sel.toNat ≤ 7
  | .opr _ rb c mode fixDie nt _ _ ng =>
      mode != 3 && (mode == 1 || fixDie == 0) && nt.toNat + ng.toNat ≤ 16 && inFile rb nt.toNat && inFile c ng.toNat
  | .xform _ _ kind fmt _ => kind.toNat ≤ 4 && fmt.toNat ≤ 10
  | .route _ _ c experts _ => experts != 0 && inFile c 3
  | .gop a countM1 _ _ => inFile a (countM1.toNat + 1)
  | .coll _ _ kind _ _ => kind != 3
  | .depw ctr => ctr != 0
  | .depset _ ctr => ctr != 0
  | .phase scope => 3 ≤ scope.toNat && scope.toNat ≤ 5
  | .fence scope => 3 ≤ scope.toNat && scope.toNat ≤ 5
  | _ => true

end Sys2Proof
end

