-- ==== Sys2Proof/Decode.lean ====
section
/-! DEFINITION. Decoding and encoding: stream words (R87 to R91, Table 5.13), move slots and bundles (R60 to R86, Tables
5.1 to 5.9). Decoding is total and rejects by name. -/
namespace Sys2Proof

/-! ### Stream words -/

/-- Why a stream word is no instruction (R90): each is SQ_ILLEGAL. -/
inductive StreamError where
  | opcode | reserved | range
  deriving DecidableEq, Repr

/-- The fields of a stream word (Table 5.11). -/
structure StreamWord where
  op : BitVec 8
  a : BitVec 5
  b : BitVec 5
  c : BitVec 5
  x : BitVec 9
  imm : BitVec 32
  deriving DecidableEq, Repr

def StreamWord.ofBits (w : BitVec 64) : StreamWord where
  op := w.extractLsb' 56 8
  a := w.extractLsb' 51 5
  b := w.extractLsb' 46 5
  c := w.extractLsb' 41 5
  x := w.extractLsb' 32 9
  imm := w.extractLsb' 0 32

def StreamWord.bits (f : StreamWord) : BitVec 64 :=
  f.op ++ f.a ++ f.b ++ f.c ++ f.x ++ f.imm

/-- IMM of a launching instruction: [31:16], counter, number of g parameters (Table 5.12). -/
def launchImm (hi : BitVec 16) (ctr : BitVec 6) (ng : BitVec 5) : BitVec 32 := hi ++ ctr ++ ng ++ 0#5

/-- The instruction that the fields name, before any limit is checked. Each opcode's row of Table 5.13 follows. -/
def StreamWord.read (f : StreamWord) : Option Instr :=
  let hi := f.imm.extractLsb' 16 16
  let ctr := f.imm.extractLsb' 10 6
  match f.op.toNat with
  | 0x01 => some (.li f.a f.imm)
  | 0x02 => some (.addi f.a f.b f.imm)
  | 0x03 => some (.add f.a f.b f.c)
  | 0x04 => some (.sub f.a f.b f.c)
  | 0x05 => some (.mul f.a f.b f.c)
  | 0x06 => some (.sll f.a f.b f.c)
  | 0x07 => some (.srl f.a f.b f.c)
  | 0x10 => some (.b f.imm)
  | 0x11 => some (.beq f.a f.b f.imm)
  | 0x12 => some (.bne f.a f.b f.imm)
  | 0x13 => some (.blt f.a f.b f.imm)
  | 0x14 => some (.call f.a f.imm)
  | 0x15 => some (.ret f.a)
  | 0x20 => some (.tdef f.a f.imm)
  | 0x21 => some (.tfree f.a)
  | 0x22 => some (.tuse f.a f.imm)
  | 0x23 => some (.tpin f.a)
  | 0x24 => some (.tunpin f.a)
  | 0x25 => some (.thint f.a (f.x.extractLsb' 0 4))
  | 0x26 => some (.tstat f.a f.b (f.x.extractLsb' 0 4))
  | 0x30 => some (.opr f.a f.b f.c (f.x.extractLsb' 7 2) (f.x.extractLsb' 4 3) (f.x.extractLsb' 0 4) hi ctr
      (f.imm.extractLsb' 5 5))
  | 0x31 => some (.xform f.a f.b (f.x.extractLsb' 5 4) (f.imm.extractLsb' 16 4) ctr)
  | 0x32 => some (.route f.a f.b f.c hi ctr)
  | 0x33 => some (.a2av f.a f.b f.c hi ctr)
  | 0x34 => some (.gop f.a (f.x.extractLsb' 0 2) hi ctr)
  | 0x35 => some (.coll f.a f.b (f.x.extractLsb' 7 2) hi ctr)
  | 0x38 => some .rcpb
  | 0x39 => some .rcpe
  | 0x40 => some (.depw ctr)
  | 0x41 => some (.depset f.a ctr)
  | 0x48 => some (.phase (f.x.extractLsb' 0 3))
  | 0x49 => some (.fence (f.x.extractLsb' 0 3))
  | 0x50 => some .halt
  | 0x51 => some (.trap f.imm)
  | 0x52 => some .nop
  | _ => none

/-- The fields of a stream instruction (Table 5.13): every field and bit that its row does not name is zero. -/
def Instr.streamFields : Instr → Option StreamWord
  | .li a imm => some ⟨0x01, a, 0, 0, 0, imm⟩
  | .addi a rb imm => some ⟨0x02, a, rb, 0, 0, imm⟩
  | .add a rb c => some ⟨0x03, a, rb, c, 0, 0⟩
  | .sub a rb c => some ⟨0x04, a, rb, c, 0, 0⟩
  | .mul a rb c => some ⟨0x05, a, rb, c, 0, 0⟩
  | .sll a rb c => some ⟨0x06, a, rb, c, 0, 0⟩
  | .srl a rb c => some ⟨0x07, a, rb, c, 0, 0⟩
  | .b imm => some ⟨0x10, 0, 0, 0, 0, imm⟩
  | .beq a rb imm => some ⟨0x11, a, rb, 0, 0, imm⟩
  | .bne a rb imm => some ⟨0x12, a, rb, 0, 0, imm⟩
  | .blt a rb imm => some ⟨0x13, a, rb, 0, 0, imm⟩
  | .call a imm => some ⟨0x14, a, 0, 0, 0, imm⟩
  | .ret a => some ⟨0x15, a, 0, 0, 0, 0⟩
  | .tdef a imm => some ⟨0x20, a, 0, 0, 0, imm⟩
  | .tfree a => some ⟨0x21, a, 0, 0, 0, 0⟩
  | .tuse a imm => some ⟨0x22, a, 0, 0, 0, imm⟩
  | .tpin a => some ⟨0x23, a, 0, 0, 0, 0⟩
  | .tunpin a => some ⟨0x24, a, 0, 0, 0, 0⟩
  | .thint a hint => some ⟨0x25, a, 0, 0, 0#5 ++ hint, 0⟩
  | .tstat a rb sel => some ⟨0x26, a, rb, 0, 0#5 ++ sel, 0⟩
  | .opr a rb c mode fixDie nt kernel ctr ng => some ⟨0x30, a, rb, c, mode ++ fixDie ++ nt, launchImm kernel ctr ng⟩
  | .xform a rb kind fmt ctr => some ⟨0x31, a, rb, 0, kind ++ 0#5, 0#12 ++ fmt ++ ctr ++ 0#10⟩
  | .route a rb c experts ctr => some ⟨0x32, a, rb, c, 0, launchImm experts ctr 0⟩
  | .a2av a rb c group ctr => some ⟨0x33, a, rb, c, 0, launchImm group ctr 0⟩
  | .gop a countM1 opcode ctr => some ⟨0x34, a, 0, 0, 0#7 ++ countM1, launchImm opcode ctr 0⟩
  | .coll a rb kind group ctr => some ⟨0x35, a, rb, 0, kind ++ 0#7, launchImm group ctr 0⟩
  | .rcpb => some ⟨0x38, 0, 0, 0, 0, 0⟩
  | .rcpe => some ⟨0x39, 0, 0, 0, 0, 0⟩
  | .depw ctr => some ⟨0x40, 0, 0, 0, 0, launchImm 0 ctr 0⟩
  | .depset a ctr => some ⟨0x41, a, 0, 0, 0, launchImm 0 ctr 0⟩
  | .phase scope => some ⟨0x48, 0, 0, 0, 0#6 ++ scope, 0⟩
  | .fence scope => some ⟨0x49, 0, 0, 0, 0#6 ++ scope, 0⟩
  | .halt => some ⟨0x50, 0, 0, 0, 0, 0⟩
  | .trap code => some ⟨0x51, 0, 0, 0, 0, code⟩
  | .nop => some ⟨0x52, 0, 0, 0, 0, 0⟩
  | _ => none

/-- Decodes a stream word: the opcode, then that every bit its row does not name is zero, then the field limits. -/
def decodeStream (w : BitVec 64) : Except StreamError Instr :=
  let f := StreamWord.ofBits w
  match f.read with
  | none => .error .opcode
  | some i =>
    if i.streamFields = some f then (if i.wf then .ok i else .error .range) else .error .reserved

/-- The word of a stream instruction; none for a step that is no stream instruction. -/
def encodeStream (i : Instr) : Option (BitVec 64) := i.streamFields.map StreamWord.bits

/-! ### Triggers -/

/-- The operations of `sa` in position order (Table 5.8). -/
def saOps : List (Bool → Instr) :=
  [.saAdd, .saSub, .saRsub, .saAnd, .saOr, .saXor, .saAndn, .saNot, .saShl, .saShr, .saSar, .saRotl, .saMinS, .saMaxS, .saMinZ, .saMaxZ] ++
  [.saEq, .saNe, .saLtS, .saLeS, .saLtZ, .saLeZ, .saClz, .saCtz, .saPopc, .saExtS, .saExtZ, .saIns, .saMov, .saSel, .saBswap, .saAbsd]

/-- The operations of `sm` in position order (Table 5.8). -/
def smOps : List (Instr) :=
  [.smMul, .smMulhS, .smMulhZ, .smMad, .smDivS, .smDivZ, .smRemS, .smRemZ, .smFadd, .smFsub, .smFmul, .smFfma, .smFmin, .smFmax, .smFabs, .smFneg] ++
  [.smFlt, .smFle, .smFeq, .smFcvtS32, .smFcvtZ32, .smIcvtS32, .smIcvtZ32, .smFrcp, .smFrsq, .smFexp2, .smFlog2]

/-- The operations of `ag` in position order (Table 5.8). -/
def agOps : List (Bool → Instr) :=
  [.agGet, .agPinc, .agPdec, .agPreinc, .agAdd, .agLea, .agIdx]

/-- The operations of `br` in position order (Table 5.8). -/
def brOps : List (Instr) :=
  [.brJmp, .brJma, .brCall, .brRet, .brLoop, .brLoops, .brBrk, .brHalt, .brYield, .brTrap]

/-- The operations of `mx` in position order (Table 5.8). -/
def mxOps : List (Instr) :=
  [.mxShape, .mxRing, .mxMma, .mxMmaz, .mxMmasm, .mxDrain, .mxDrainf, .mxZero, .mxLdacc, .mxScale, .mxRowstat, .mxSmreset, .mxFence]

/-- The operations of `rw` in position order (Table 5.8). -/
def rwOps : List (Instr) :=
  [.rwFstat, .rwFsmx, .rwNorm, .rwBln, .rwBrms, .rwBsm, .rwSlot, .rwFree]

/-- The operations of `tx` in position order (Table 5.8). -/
def txOps : List (Instr) :=
  [.txLd, .txLdr, .txSt, .txCp, .txPf, .txFpr, .txQlim, .txQspc]

/-- The operations of `ls` in position order (Table 5.8). -/
def lsOps : List (Instr) :=
  [.lsLd8S, .lsLd8Z, .lsLd16S, .lsLd16Z, .lsLd32, .lsLdv, .lsSt8, .lsSt16, .lsSt32, .lsStv, .lsLdwf, .lsLdwfe, .lsStwe, .lsStfull, .lsLdvwf, .lsLdvwfe] ++
  [.lsStvwe, .lsSetf, .lsSete, .lsGetf, .lsFence, .lsAmoAdd, .lsAmoCas, .lsAmoSwap, .lsAmoMax, .lsBarInit, .lsBarArrive, .lsBarWait, .lsBarQuery, .lsSbind, .lsSunbind]

/-- The operations of `vf` in position order (Table 5.8). -/
def vfOps : List (Instr) :=
  [.vfAddF32, .vfSubF32, .vfMulF32, .vfFmaF32, .vfFnmaF32, .vfMinF32, .vfMaxF32, .vfAbsF32, .vfLtF32, .vfLeF32, .vfEqF32, .vfAddBf16, .vfMulBf16, .vfFmaBf16, .vfAddS32, .vfSubS32] ++
  [.vfMulS32, .vfMinS32, .vfMaxS32, .vfAnd, .vfOr, .vfXor, .vfShl, .vfShr, .vfSar, .vfSel, .vfDot4S8, .vfRsumF32, .vfRmaxF32, .vfRsumS32, .vfScanS32, .vfCnt]

/-- The operations of `vx` in position order (Table 5.8). -/
def vxOps : List (Instr) :=
  [.vxPerm, .vxBcast, .vxRotl, .vxZipLo, .vxZipHi, .vxUnzipLo, .vxUnzipHi, .vxExt, .vxIns, .vxCvtF32Bf16Lo, .vxCvtF32Bf16Hi, .vxCvtBf16F32, .vxCvtF32E4m3, .vxCvtE4m3F32, .vxCvtF32E5m2, .vxCvtE5m2F32] ++
  [.vxCvtF32L6, .vxCvtL6F32, .vxCvtF32S8, .vxCvtS8F32, .vxCvtF32Int, .vxCvtIntF32, .vxMxq, .vxMxdq, .vxExp2, .vxLog2, .vxRcp, .vxRsq, .vxTanh, .vxCmpk, .vxHist, .vxCbx]

/-- The operations of `gv` in position order (Table 5.8). -/
def gvOps : List (Instr) :=
  [.gvLd32, .gvLd64, .gvSt32, .gvSt64, .gvLdv, .gvVadd, .gvVchk, .gvVclr, .gvCasv, .gvAmoAdd, .gvAmoFadd, .gvAmoMin, .gvAmoMax, .gvAmoSwap, .gvAmoCas, .gvRedAdd] ++
  [.gvRedFadd]

/-- The operations of `bn` in position order (Table 5.8). -/
def bnOps : List (Instr) :=
  [.bnSync, .bnArrive, .bnWait, .bnPub, .bnAcq, .bnPhase, .bnFence, .bnVoteAny, .bnVoteAll]

/-- The operations of `sy` in position order (Table 5.8). -/
def syOps : List (Instr) :=
  [.syFmt, .syCbld, .syCbwr, .syCbsel, .syFset, .syFclr, .sySig, .syTrap, .syDbg, .syPrio, .syNop]

/-- The operations of `gq` in position order (Table 5.8). -/
def gqOps : List (Instr) :=
  [.gqPush, .gqSpace, .gqPoll]

/-- The trigger of a destination code (R83): its unit's base plus the position of the operation. -/
def decodeTrigger (code : Nat) : Option Instr :=
  if code < 0x200 then none
  else if code < 0x220 then (saOps[code - 0x200]?).map (· false)
  else if code < 0x240 then (saOps[code - 0x220]?).map (· true)
  else if code < 0x260 then smOps[code - 0x240]?
  else if code < 0x270 then (agOps[code - 0x260]?).map (· false)
  else if code < 0x280 then (agOps[code - 0x270]?).map (· true)
  else if code < 0x290 then brOps[code - 0x280]?
  else if code < 0x2a0 then mxOps[code - 0x290]?
  else if code < 0x2b0 then rwOps[code - 0x2a0]?
  else if code < 0x2c0 then txOps[code - 0x2b0]?
  else if code < 0x2e0 then lsOps[code - 0x2c0]?
  else if code < 0x300 then vfOps[code - 0x2e0]?
  else if code < 0x320 then vxOps[code - 0x300]?
  else if code < 0x340 then gvOps[code - 0x320]?
  else if code < 0x350 then bnOps[code - 0x340]?
  else if code < 0x360 then syOps[code - 0x350]?
  else if code < 0x370 then gqOps[code - 0x360]?
  else none

/-- The trigger code of an operation (Table 5.8); none for a step that is no trigger. -/
def encodeTrigger : Instr → Option Nat
  | .saAdd u => some (bif u then 0x220 else 0x200)
  | .saSub u => some (bif u then 0x221 else 0x201)
  | .saRsub u => some (bif u then 0x222 else 0x202)
  | .saAnd u => some (bif u then 0x223 else 0x203)
  | .saOr u => some (bif u then 0x224 else 0x204)
  | .saXor u => some (bif u then 0x225 else 0x205)
  | .saAndn u => some (bif u then 0x226 else 0x206)
  | .saNot u => some (bif u then 0x227 else 0x207)
  | .saShl u => some (bif u then 0x228 else 0x208)
  | .saShr u => some (bif u then 0x229 else 0x209)
  | .saSar u => some (bif u then 0x22a else 0x20a)
  | .saRotl u => some (bif u then 0x22b else 0x20b)
  | .saMinS u => some (bif u then 0x22c else 0x20c)
  | .saMaxS u => some (bif u then 0x22d else 0x20d)
  | .saMinZ u => some (bif u then 0x22e else 0x20e)
  | .saMaxZ u => some (bif u then 0x22f else 0x20f)
  | .saEq u => some (bif u then 0x230 else 0x210)
  | .saNe u => some (bif u then 0x231 else 0x211)
  | .saLtS u => some (bif u then 0x232 else 0x212)
  | .saLeS u => some (bif u then 0x233 else 0x213)
  | .saLtZ u => some (bif u then 0x234 else 0x214)
  | .saLeZ u => some (bif u then 0x235 else 0x215)
  | .saClz u => some (bif u then 0x236 else 0x216)
  | .saCtz u => some (bif u then 0x237 else 0x217)
  | .saPopc u => some (bif u then 0x238 else 0x218)
  | .saExtS u => some (bif u then 0x239 else 0x219)
  | .saExtZ u => some (bif u then 0x23a else 0x21a)
  | .saIns u => some (bif u then 0x23b else 0x21b)
  | .saMov u => some (bif u then 0x23c else 0x21c)
  | .saSel u => some (bif u then 0x23d else 0x21d)
  | .saBswap u => some (bif u then 0x23e else 0x21e)
  | .saAbsd u => some (bif u then 0x23f else 0x21f)
  | .smMul => some 0x240
  | .smMulhS => some 0x241
  | .smMulhZ => some 0x242
  | .smMad => some 0x243
  | .smDivS => some 0x244
  | .smDivZ => some 0x245
  | .smRemS => some 0x246
  | .smRemZ => some 0x247
  | .smFadd => some 0x248
  | .smFsub => some 0x249
  | .smFmul => some 0x24a
  | .smFfma => some 0x24b
  | .smFmin => some 0x24c
  | .smFmax => some 0x24d
  | .smFabs => some 0x24e
  | .smFneg => some 0x24f
  | .smFlt => some 0x250
  | .smFle => some 0x251
  | .smFeq => some 0x252
  | .smFcvtS32 => some 0x253
  | .smFcvtZ32 => some 0x254
  | .smIcvtS32 => some 0x255
  | .smIcvtZ32 => some 0x256
  | .smFrcp => some 0x257
  | .smFrsq => some 0x258
  | .smFexp2 => some 0x259
  | .smFlog2 => some 0x25a
  | .agGet u => some (bif u then 0x270 else 0x260)
  | .agPinc u => some (bif u then 0x271 else 0x261)
  | .agPdec u => some (bif u then 0x272 else 0x262)
  | .agPreinc u => some (bif u then 0x273 else 0x263)
  | .agAdd u => some (bif u then 0x274 else 0x264)
  | .agLea u => some (bif u then 0x275 else 0x265)
  | .agIdx u => some (bif u then 0x276 else 0x266)
  | .brJmp => some 0x280
  | .brJma => some 0x281
  | .brCall => some 0x282
  | .brRet => some 0x283
  | .brLoop => some 0x284
  | .brLoops => some 0x285
  | .brBrk => some 0x286
  | .brHalt => some 0x287
  | .brYield => some 0x288
  | .brTrap => some 0x289
  | .mxShape => some 0x290
  | .mxRing => some 0x291
  | .mxMma => some 0x292
  | .mxMmaz => some 0x293
  | .mxMmasm => some 0x294
  | .mxDrain => some 0x295
  | .mxDrainf => some 0x296
  | .mxZero => some 0x297
  | .mxLdacc => some 0x298
  | .mxScale => some 0x299
  | .mxRowstat => some 0x29a
  | .mxSmreset => some 0x29b
  | .mxFence => some 0x29c
  | .rwFstat => some 0x2a0
  | .rwFsmx => some 0x2a1
  | .rwNorm => some 0x2a2
  | .rwBln => some 0x2a3
  | .rwBrms => some 0x2a4
  | .rwBsm => some 0x2a5
  | .rwSlot => some 0x2a6
  | .rwFree => some 0x2a7
  | .txLd => some 0x2b0
  | .txLdr => some 0x2b1
  | .txSt => some 0x2b2
  | .txCp => some 0x2b3
  | .txPf => some 0x2b4
  | .txFpr => some 0x2b5
  | .txQlim => some 0x2b6
  | .txQspc => some 0x2b7
  | .lsLd8S => some 0x2c0
  | .lsLd8Z => some 0x2c1
  | .lsLd16S => some 0x2c2
  | .lsLd16Z => some 0x2c3
  | .lsLd32 => some 0x2c4
  | .lsLdv => some 0x2c5
  | .lsSt8 => some 0x2c6
  | .lsSt16 => some 0x2c7
  | .lsSt32 => some 0x2c8
  | .lsStv => some 0x2c9
  | .lsLdwf => some 0x2ca
  | .lsLdwfe => some 0x2cb
  | .lsStwe => some 0x2cc
  | .lsStfull => some 0x2cd
  | .lsLdvwf => some 0x2ce
  | .lsLdvwfe => some 0x2cf
  | .lsStvwe => some 0x2d0
  | .lsSetf => some 0x2d1
  | .lsSete => some 0x2d2
  | .lsGetf => some 0x2d3
  | .lsFence => some 0x2d4
  | .lsAmoAdd => some 0x2d5
  | .lsAmoCas => some 0x2d6
  | .lsAmoSwap => some 0x2d7
  | .lsAmoMax => some 0x2d8
  | .lsBarInit => some 0x2d9
  | .lsBarArrive => some 0x2da
  | .lsBarWait => some 0x2db
  | .lsBarQuery => some 0x2dc
  | .lsSbind => some 0x2dd
  | .lsSunbind => some 0x2de
  | .vfAddF32 => some 0x2e0
  | .vfSubF32 => some 0x2e1
  | .vfMulF32 => some 0x2e2
  | .vfFmaF32 => some 0x2e3
  | .vfFnmaF32 => some 0x2e4
  | .vfMinF32 => some 0x2e5
  | .vfMaxF32 => some 0x2e6
  | .vfAbsF32 => some 0x2e7
  | .vfLtF32 => some 0x2e8
  | .vfLeF32 => some 0x2e9
  | .vfEqF32 => some 0x2ea
  | .vfAddBf16 => some 0x2eb
  | .vfMulBf16 => some 0x2ec
  | .vfFmaBf16 => some 0x2ed
  | .vfAddS32 => some 0x2ee
  | .vfSubS32 => some 0x2ef
  | .vfMulS32 => some 0x2f0
  | .vfMinS32 => some 0x2f1
  | .vfMaxS32 => some 0x2f2
  | .vfAnd => some 0x2f3
  | .vfOr => some 0x2f4
  | .vfXor => some 0x2f5
  | .vfShl => some 0x2f6
  | .vfShr => some 0x2f7
  | .vfSar => some 0x2f8
  | .vfSel => some 0x2f9
  | .vfDot4S8 => some 0x2fa
  | .vfRsumF32 => some 0x2fb
  | .vfRmaxF32 => some 0x2fc
  | .vfRsumS32 => some 0x2fd
  | .vfScanS32 => some 0x2fe
  | .vfCnt => some 0x2ff
  | .vxPerm => some 0x300
  | .vxBcast => some 0x301
  | .vxRotl => some 0x302
  | .vxZipLo => some 0x303
  | .vxZipHi => some 0x304
  | .vxUnzipLo => some 0x305
  | .vxUnzipHi => some 0x306
  | .vxExt => some 0x307
  | .vxIns => some 0x308
  | .vxCvtF32Bf16Lo => some 0x309
  | .vxCvtF32Bf16Hi => some 0x30a
  | .vxCvtBf16F32 => some 0x30b
  | .vxCvtF32E4m3 => some 0x30c
  | .vxCvtE4m3F32 => some 0x30d
  | .vxCvtF32E5m2 => some 0x30e
  | .vxCvtE5m2F32 => some 0x30f
  | .vxCvtF32L6 => some 0x310
  | .vxCvtL6F32 => some 0x311
  | .vxCvtF32S8 => some 0x312
  | .vxCvtS8F32 => some 0x313
  | .vxCvtF32Int => some 0x314
  | .vxCvtIntF32 => some 0x315
  | .vxMxq => some 0x316
  | .vxMxdq => some 0x317
  | .vxExp2 => some 0x318
  | .vxLog2 => some 0x319
  | .vxRcp => some 0x31a
  | .vxRsq => some 0x31b
  | .vxTanh => some 0x31c
  | .vxCmpk => some 0x31d
  | .vxHist => some 0x31e
  | .vxCbx => some 0x31f
  | .gvLd32 => some 0x320
  | .gvLd64 => some 0x321
  | .gvSt32 => some 0x322
  | .gvSt64 => some 0x323
  | .gvLdv => some 0x324
  | .gvVadd => some 0x325
  | .gvVchk => some 0x326
  | .gvVclr => some 0x327
  | .gvCasv => some 0x328
  | .gvAmoAdd => some 0x329
  | .gvAmoFadd => some 0x32a
  | .gvAmoMin => some 0x32b
  | .gvAmoMax => some 0x32c
  | .gvAmoSwap => some 0x32d
  | .gvAmoCas => some 0x32e
  | .gvRedAdd => some 0x32f
  | .gvRedFadd => some 0x330
  | .bnSync => some 0x340
  | .bnArrive => some 0x341
  | .bnWait => some 0x342
  | .bnPub => some 0x343
  | .bnAcq => some 0x344
  | .bnPhase => some 0x345
  | .bnFence => some 0x346
  | .bnVoteAny => some 0x347
  | .bnVoteAll => some 0x348
  | .syFmt => some 0x350
  | .syCbld => some 0x351
  | .syCbwr => some 0x352
  | .syCbsel => some 0x353
  | .syFset => some 0x354
  | .syFclr => some 0x355
  | .sySig => some 0x356
  | .syTrap => some 0x357
  | .syDbg => some 0x358
  | .syPrio => some 0x359
  | .syNop => some 0x35a
  | .gqPush => some 0x360
  | .gqSpace => some 0x361
  | .gqPoll => some 0x362
  | _ => none

/-! ### Bundles -/

/-- Illegal-bundle codes that decode can raise (Table 5.9), with their code numbers (Table 21.6). -/
inductive BundleError where
  | hdr | src | dst | trig | width | ports | dwrite | dtrig | rep
  deriving DecidableEq, Repr

def BundleError.code : BundleError → Nat
  | .hdr => 0x10 | .src => 0x11 | .dst => 0x12 | .trig => 0x13 | .width => 0x14 | .ports => 0x15 | .dwrite => 0x16
  | .dtrig => 0x17 | .rep => 0x18

/-- A failing decode check: the code, the slot (8 for a header or bundle-wide check) and the operand (R86). -/
structure DecodeFault where
  err : BundleError
  slot : Nat
  operand : Nat
  deriving DecidableEq, Repr

/-- A non-empty slot (R62, R63). -/
structure Move where
  slot : Nat
  guard : Nat
  src : Nat
  dst : Nat
  deriving DecidableEq, Repr

/-- A decoded bundle (R60, R61). -/
structure Bundle where
  waitf : BitVec 8
  mark : Bool
  clrf : Bool
  rep : Nat
  lits : List (BitVec 32)
  moves : List Move
  deriving DecidableEq, Repr

/-- The 192-bit slot field: word 1 in the low bits (R60). -/
def slotField (ws : List (BitVec 32)) : Nat := ((ws.drop 1).take 6).foldr (fun w acc => acc * 2 ^ 32 + w.toNat) 0

/-- Slot j of the slot field (R62). -/
def slotWord (ws : List (BitVec 32)) (j : Nat) : BitVec 24 := BitVec.ofNat 24 (slotField ws / 2 ^ (24 * j))

def moveOfWord (j : Nat) (w : BitVec 24) : Move where
  slot := j
  guard := (w.extractLsb' 20 4).toNat
  src := (w.extractLsb' 10 10).toNat
  dst := (w.extractLsb' 0 10).toNat

/-- The word of a move (R62). -/
def Move.word (m : Move) : BitVec 24 :=
  BitVec.ofNat 4 m.guard ++ BitVec.ofNat 10 m.src ++ BitVec.ofNat 10 m.dst

/-- NLIT of a header word (Table 5.1). -/
def headerNlit (h : BitVec 32) : Nat := (h.extractLsb' 21 3).toNat

/-- A width class: scalar, vector, or as a stream port's binding says at issue (R66, R70). -/
inductive Width where
  | s | v | port
  deriving DecidableEq, Repr

/-- A sluice view (Table 5.2). -/
def isView (src : Nat) : Bool := 0x180 ≤ src && src ≤ 0x1ff

/-- The width of a source code, none for a reserved one (Table 5.2, Table 5.3). nlit bounds the literals (R64). -/
def srcWidth (nlit src : Nat) : Option Width :=
  if src < 0x40 then some .s
  else if src < 0x60 then some .v
  else if src < 0xa8 then some .s
  else if src < 0xac then some .port
  else if src < 0xb0 then none
  else if src < 0xc3 then some (if src == 0xba || src == 0xbb || src == 0xbc || src == 0xbe then .v else .s)
  else if src < 0xe0 then none
  else if src < 0xef then some (if src == 0xe5 then .v else .s)
  else if src < 0x100 then none
  else if src < 0x108 then (if src - 0x100 < nlit then some .s else none)
  else if src < 0x180 then none
  else if src < 0x200 then some .v
  else if src < 0x400 then some .s
  else none

/-- The width of a destination code (Table 5.5, Table 5.4). A trigger has the width of its operand (R84). -/
def dstWidth (dst : Nat) : Option Width :=
  if dst < 0x40 then some .s
  else if dst < 0x60 then some .v
  else if dst < 0xa0 then some .s
  else if dst == 0xa0 then none
  else if dst < 0xa8 then some .s
  else if dst < 0xac then some .port
  else if dst < 0xb0 then none
  else if dst < 0xcf then some (if 0xc4 ≤ dst && dst ≤ 0xc8 then .v else .s)
  else if dst < 0x200 then none
  else if 0x2e0 ≤ dst && dst < 0x320 then some .v
  else if dst < 0x400 then some .s
  else none

/-- A predicate destination p1 to p7. -/
def isPred (dst : Nat) : Bool := 0xa1 ≤ dst && dst ≤ 0xa7

/-- The unit a trigger code belongs to, by the base of its block. -/
def unitOf (dst : Nat) : Nat :=
  if dst < 0x220 then 0x200 else if dst < 0x240 then 0x220 else if dst < 0x260 then 0x240
  else if dst < 0x270 then 0x260 else if dst < 0x280 then 0x270 else if dst < 0x290 then 0x280
  else if dst < 0x2a0 then 0x290 else if dst < 0x2b0 then 0x2a0 else if dst < 0x2c0 then 0x2b0
  else if dst < 0x2e0 then 0x2c0 else if dst < 0x300 then 0x2e0 else if dst < 0x320 then 0x300
  else if dst < 0x340 then 0x320 else if dst < 0x350 then 0x340 else if dst < 0x360 then 0x350 else 0x360

/-- The checks of one slot in the order of R86: source, destination, trigger code (with ILL_REP), width. Table 5.6 refuses a view to an S
register, a p register or an S operand port, and takes lane 0 of it to a trigger of S width. DESIGN CHOICE (log entry 15): the operand of
ILL_WIDTH is the source code. -/
def checkMove (nlit rep : Nat) (m : Move) : Option DecodeFault :=
  match srcWidth nlit m.src with
  | none => some ⟨.src, m.slot, m.src⟩
  | some sw =>
    match dstWidth m.dst with
    | none => some ⟨.dst, m.slot, m.dst⟩
    | some dw =>
      if 0x200 ≤ m.dst && (decodeTrigger m.dst).isNone then some ⟨.trig, m.slot, m.dst⟩
      else if rep != 0 && (0x280 ≤ m.dst && m.dst < 0x290) then some ⟨.rep, m.slot, m.dst⟩
      else if isView m.src && dw == .s && m.dst < 0x200 then some ⟨.width, m.slot, m.src⟩
      else if sw == .v && isPred m.dst then some ⟨.width, m.slot, m.src⟩
      else none

/-- The first move, in slot order, whose count of moves satisfying p exceeds the limit (R86). -/
def overLimit (p : Move → Bool) : Nat → List Move → Option Move
  | _, [] => none
  | left, m :: ms => if p m then (if left = 0 then some m else overLimit p (left - 1) ms) else overLimit p left ms

/-- The later of the first two moves with one key (R86). -/
def duplicate (key : Move → Option Nat) : List Nat → List Move → Option Move
  | _, [] => none
  | seen, m :: ms =>
    match key m with
    | none => duplicate key seen ms
    | some k => if seen.contains k then some m else duplicate key (k :: seen) ms

/-- The bundle-wide limits in the order of R86. DESIGN CHOICE (log entry 15): of two moves on one i port and two on one o port, which are one
step of R86, the i port is reported first. -/
def checkWide (ms : List Move) : Option DecodeFault :=
  let srcAt (o : Option Move) := o.map fun m => (⟨.ports, 8, m.src⟩ : DecodeFault)
  let dstAt (e : BundleError) (o : Option Move) := o.map fun m => (⟨e, 8, m.dst⟩ : DecodeFault)
  (srcAt (overLimit (fun m => m.src < 0x40) 6 ms)).orElse fun _ =>
  (dstAt .ports (overLimit (fun m => m.dst < 0x40) 4 ms)).orElse fun _ =>
  (srcAt (overLimit (fun m => (0x40 ≤ m.src && m.src < 0x60) || isView m.src) 3 ms)).orElse fun _ =>
  (dstAt .ports (overLimit (fun m => 0x40 ≤ m.dst && m.dst < 0x60) 2 ms)).orElse fun _ =>
  (srcAt (overLimit (fun m => isView m.src) 2 ms)).orElse fun _ =>
  (srcAt (duplicate (fun m => if 0xa8 ≤ m.src && m.src < 0xac then some m.src else none) [] ms)).orElse fun _ =>
  (dstAt .ports (duplicate (fun m => if 0xa8 ≤ m.dst && m.dst < 0xac then some m.dst else none) [] ms)).orElse fun _ =>
  (dstAt .dwrite (duplicate (fun m => some m.dst) [] ms)).orElse fun _ =>
  dstAt .dtrig (duplicate (fun m => if 0x200 ≤ m.dst then some (unitOf m.dst) else none) [] ms)

/-- The non-empty slots of a bundle (R63). -/
def movesOf (ws : List (BitVec 32)) : List Move :=
  ((List.range 8).map fun j => moveOfWord j (slotWord ws j)).filter fun m => m.guard != 8

/-- Decodes the words of a bundle, or names the first failing check (R85, R86). DESIGN CHOICE (log entry 15): the operand of ILL_HDR is the
header word. Words past the end of the code section are not given here; a header past it reads as zero. -/
def decodeBundle (ws : List (BitVec 32)) : Except DecodeFault Bundle :=
  let h := ws.headD 0
  if h.extractLsb' 16 3 ≠ 0 ∨ h.extractLsb' 0 8 ≠ 0 then .error ⟨.hdr, 8, h.toNat⟩
  else if ws.length < 7 + headerNlit h then .error ⟨.hdr, 8, h.toNat⟩
  else
    let ms := movesOf ws
    let rep := (h.extractLsb' 8 8).toNat
    match (ms.findSome? (checkMove (headerNlit h) rep)).orElse fun _ => checkWide ms with
    | some e => .error e
    | none => .ok { waitf := h.extractLsb' 24 8, mark := h.getLsbD 20, clrf := h.getLsbD 19, rep := rep,
                    lits := (ws.drop 7).take (headerNlit h), moves := ms }

/-- The step that a move's destination triggers (R69, R84). -/
def decodeSlot (w : BitVec 24) : Option Instr := decodeTrigger (moveOfWord 0 w).dst

/-- The slot that triggers an operation with a zero operand, always active, as `zwas` writes it (R92). -/
def encodeSlot (i : Instr) : Option (BitVec 24) := (encodeTrigger i).map fun c => Move.word ⟨0, 0, 0xea, c⟩

/-- The i-th 32-bit word of a bit string. -/
def bitsWord (w i : Nat) : BitVec 32 := BitVec.ofNat 32 (w / 2 ^ (32 * i))

/-- The words of a bundle given as one bit string; its own NLIT says how many literals follow. -/
def bundleOfBits (w : Nat) : List (BitVec 32) := (List.range (7 + headerNlit (bitsWord w 0))).map (bitsWord w)

/-- The instruction of nbits bits: a stream word of 64 bits (R87), a move slot of 24 bits (R62), or a bundle of 224 bits
and more (R60), which the first core of the package issues. Other lengths encode nothing. -/
def decodeTableWord (nbits w : Nat) : Option Instr :=
  if nbits = 64 then (decodeStream (BitVec.ofNat 64 w)).toOption
  else if nbits = 24 then decodeSlot (BitVec.ofNat 24 w)
  else if 224 ≤ nbits then (decodeBundle (bundleOfBits w)).toOption.map fun _ => .bundleIssue 0
  else none

end Sys2Proof
end

