-- ==== Sys2Proof/Config.lean ====
section
/-! DEFINITION. What an implementation fixes, and the free values: opaque constants with no body, of which nothing can be
proved. A field of State counts or keys each use. -/
namespace Sys2Proof

/-- Which agent moves next. The manual bounds few durations (R389), so the order in which the agents move is open:
a core's cycle, one instruction of a die's sequencer, one step of the table that no word encodes, or the passing of one
tick of a stack's reference timer (R15) or of the I/O die's; or a transfer engine, or a tile
unit, stores one more part of an operation or command before the rest (R127). -/
inductive Turn where
  | core (stack cluster core : Nat)
  | sequencer (die : Nat)
  | event (i : Instr)
  | tick (stack : Nat)
  | ioTick
  | engine (op part : Nat)
  | tile (id part : Nat)
  deriving DecidableEq, Repr, Inhabited

/-- The agent that moves at the n-th turn the agenda does not name. FREE (log entry 1). -/
opaque Config.schedule : Nat → Turn
/-- Whether the n-th load that meets another context's unpublished collector store observes it early (R276). FREE. -/
opaque Config.earlyHit : Nat → Bool
/-- A byte of an RSA-4096 signature or certificate made by the root of trust (R383). FREE (log entry 9). -/
opaque Config.signatureByte : Nat → BitVec 8
/-- Whether the root of trust accepts the signature and security version of a staged image (R382). FREE. -/
opaque Config.verifies : List (Nat × BitVec 8) → Bool
/-- The SHA-512 digest of a firmware image, by byte (R383). FREE. -/
opaque Config.digestByte : List (Nat × BitVec 8) → Nat → BitVec 8
/-- The security version of a firmware image (R383). FREE. -/
opaque Config.securityVersion : List (Nat × BitVec 8) → BitVec 32
/-- The identity certificate (R383). FREE (log entry 9). -/
opaque Config.certificate : List (BitVec 8)
/-- A word the manual leaves undefined, by the count of its use. FREE (log entry 8). -/
opaque Config.freeWord : Nat → BitVec 32
/-- Which of two values an unordered access binds, by the count of its use. FREE (log entry 8). -/
opaque Config.freeBit : Nat → Bool

/-- Whether the kernel image of the n-th operation is resident in the L2 of its launching die (R14). FREE (log entry 100). -/
opaque Config.imageInL2 : Nat → Bool

/-- HBM of one stack in 64 KiB frames (R11). -/
def Config.framesPerStack : Nat := 2 ^ 20
/-- LPDDR6 on the module in 64 KiB pages (R343). -/
def Config.lpddrPages : Nat := 2 ^ 25

/-- What is fitted to the module, found at bring-up (R343, R342, R351, R361): the reported bytes of the memory expander of a
port (0 for none), the heat classes of a stack's channels, the peer ports with a link partner, and a guest's vendor and the
opcodes it accepts. FREE (log entry 41). -/
opaque Config.expanderBytes : Nat → Nat
opaque Config.heatClasses : Nat → BitVec 64
opaque Config.peerUp : Nat → Bool
opaque Config.guestVendor : BitVec 16
opaque Config.guestFirst : BitVec 16
opaque Config.guestLast : BitVec 16
/-- The silicon revision of the Device capability, and the offset of the attestation mailbox (Table 25.2). FREE (log entry 115). -/
opaque Config.siliconRevision : BitVec 16
opaque Config.mailboxOffset : BitVec 32

end Sys2Proof
end

