-- ==== Sys2Proof/Machine/State.lean ====
section
/-! DEFINITION. The state of the package as plain data: what the manual gives the machine, and the model's own fields
(which agent runs, which moves next, tickets of work in flight). Collections that are sparse are lists of key and value
in one canonical form (Machine/Ops.lean). -/
namespace Sys2Proof.Machine
open Sys2Proof

/-- Sparse data by key: keys strictly rising, and no value equal to the default of that map. -/
abbrev Map (α : Type) := List (Nat × α)

/-- A 32-bit word with its poison mark (R375). -/
structure PW where
  val : Word
  poi : Bool
  deriving DecidableEq, Repr

/-- A vector, or a scalar in lane 0, with a poison mark for each 32-bit word (R375). -/
structure PV where
  val : Vec
  poi : BitVec 64
  deriving DecidableEq, Repr

/-- An address set j of R154: the registers a, n, b and k of one number. -/
structure AgSet where
  a : PW
  n : PW
  b : PW
  k : PW
  deriving DecidableEq, Repr

/-- A trigger of the bundle that has just issued, not yet executed: its slot word, its trigger operand (R84), and the
address sets its operand names as they stood before the bundle (R154, R209). cyc is the core's cycle of issue,
and delay tells a delay bundle (R158). -/
structure Trig where
  ctx : Nat
  slot : Nat
  bno : Nat
  cyc : Nat
  delay : Bool
  word : BitVec 24
  y : PV
  ag : AgSet
  ag2 : AgSet
  deriving DecidableEq, Repr

/-- The agent whose instruction is executing: none, a stream of a sequencer, or a context with the trigger it executes. -/
inductive Agent where
  | idle
  | stream (sid : Nat)
  | trigger (t : Trig)
  deriving DecidableEq, Repr

/-! ### A context (Table 9.1, Table 15.1) -/

/-- An exposed result in flight (R77): it lands in its port for bundles that issue at cycle due or later. -/
structure Flight where
  port : Nat
  val : PV
  due : Nat
  deriving DecidableEq, Repr

/-- A write to fmt inside its shadow (R147). -/
structure FmtWrite where
  due : Nat
  mask : Word
  val : Word
  deriving DecidableEq, Repr

/-- A loop frame (R160, R161). stages is none for a counted frame; trips counts the trips begun. -/
structure Frame where
  start : Nat
  stop : Nat
  count : Nat
  stages : Option Nat
  n : Nat
  trips : Nat
  deriving DecidableEq, Repr

/-- A buffered stream element (R211): its ticket, value and scratchpad address, and the width and full/empty mode of the binding
that it was fetched or pushed under. -/
structure Elem where
  id : Nat
  val : PV
  addr : Nat
  wide : Bool
  fe : Bool
  deriving DecidableEq, Repr

/-- A stream binding (R209, R210) with the buffer of R211. taken counts pops or pushes; moved counts elements fetched;
closed is set once the last element of an o port has been pushed; born is the ticket of the sbind. -/
structure Binding where
  fe : Bool
  wide : Bool
  a : Word
  n : Word
  m : Word
  b : Word
  k : Word
  c1 : Nat
  c2 : Nat
  taken : Nat
  moved : Nat
  buf : List Elem
  closed : Bool
  born : Nat
  deriving DecidableEq, Repr

/-- A fingerprint (R223). -/
structure Fpr where
  nan : Word
  mx : Word
  s : Word
  q : Word
  deriving DecidableEq, Repr

/-- A store in the store gate (R315): a scratchpad store to core dst with the physical address of each byte, or a
global store with storage addresses. poi lists the addresses of its poisoned bytes (R375). walked holds once a global store has its
translation (R322), released once a mark has started its drain, and sent is the tick at which a store to an MSA page of another die left
(R345). -/
structure GStore where
  isGlobal : Bool
  dst : Nat
  cells : List (Nat × Byte)
  poi : List Nat
  opId : Nat
  bno : Nat
  slot : Nat
  handle : Word
  walked : Bool
  released : Bool
  sent : Option Nat
  deriving DecidableEq, Repr

/-- The state that a restart mark copies (R314): Table 9.1, the shape register and ring selection, the validate set, the
fingerprints and the tile limit. -/
structure Regs where
  sr : Vector PW 64
  vr : Vector PV 32
  ar : Vector PW 16
  nr : Vector PW 16
  br : Vector PW 16
  kr : Vector PW 16
  pr : BitVec 8
  flags : BitVec 8
  binds : Vector (Option Binding) 8
  fmt : Word
  fmtPend : List FmtWrite
  opnd : Vector PV 31
  res : Vector PV 19
  pend : Vector (Option Nat) 19
  pc : Nat
  redirect : Option Nat
  rep : Option Nat
  rbs : BitVec 5
  rbv : BitVec 4
  loops : List Frame
  calld : BitVec 8
  shape : Word
  ring : BitVec 12
  vlist : List (Word × Word × Word)
  vover : Bool
  fprs : Vector Fpr 8
  tlimit : Nat
  deriving DecidableEq, Repr

/-- Table 21.5, the parts of a fault record that its cause fixes. -/
structure FaultInfo where
  cls : Nat
  code : Nat
  flags : Nat
  slot : Nat
  subcode : Nat
  bno : Nat
  value : Nat
  deriving DecidableEq, Repr

/-- A fault that a stopped context keeps for its next boundary: the action that its class had when it was raised (R327), and the resume
point that a rollback fixed (R317). -/
structure LaterFault where
  info : FaultInfo
  action : Nat
  resume : Option Nat
  deriving DecidableEq, Repr

/-- Why a context is stopped: the class of the fault and the resume point (R326, R327). -/
structure Stop where
  cls : Nat
  resume : Nat
  posted : Bool
  deriving DecidableEq, Repr

structure Ctx where
  barge : Nat
  task : Nat
  r : Regs
  flights : List Flight
  acc : Map Word
  accPoi : BitVec 8
  rmax : Map Word
  rsum : Map Word
  prio : Bool
  gate : List GStore
  region : Nat
  issued : Nat
  shadow : Option (Regs × List Flight)
  marked : Bool
  waited : Nat
  last : Nat
  halted : Bool
  stop : Option Stop
  resolving : Option (Nat × FaultInfo)
  later : List LaterFault
  needMark : Bool
  lastArr : Map Nat
  snap : List Flight
  deriving DecidableEq, Repr

/-! ### A core -/

/-- An entry write inside the four-cycle shadow (R184). -/
structure CbWrite where
  due : Nat
  index : Nat
  entry : DWord
  valid : Bool
  deriving DecidableEq, Repr

/-- A codebook bank (R178, R189). busy holds the ticket of the load that fills it. -/
structure Bank where
  entries : Map DWord
  valid : BitVec 256
  poi : BitVec 256
  busy : Option Nat
  owner : Option Nat
  gen : BitVec 16
  saved : BitVec 16
  writes : List CbWrite
  deriving DecidableEq, Repr

/-- The contents that a bank's save area or a queued matrix operation holds. -/
structure Book where
  entries : Map DWord
  valid : BitVec 256
  poi : BitVec 256
  deriving DecidableEq, Repr

/-- A TLB entry (R319): the leaf of one 64 KiB page of a tensor and its dirty bit (R324). -/
structure TlbEntry where
  tensor : Nat
  page : Nat
  leaf : DWord
  dirty : Bool
  deriving DecidableEq, Repr

/-- A trace entry (R370). -/
structure TraceEntry where
  bno : Word
  cyc : Word
  y : Word
  hctx : Nat
  deriving DecidableEq, Repr

structure CoreState where
  cyc : Nat
  current : Nat
  bubble : Bool
  sinceSwitch : Nat
  switched : Bool
  banks : Vector Bank 4
  take : Option (Nat × Nat × Bool)
  div : Option (Nat × PV × PV × Nat × Nat)
  mxVis : Nat
  slotOwner : Map (Nat × Nat)
  slotMem : Map Word
  slotPoi : Map Bool
  tlb : List TlbEntry
  trace : Map TraceEntry
  traceCnt : Nat
  fenced : Bool
  errTimes : List Nat
  deriving DecidableEq, Repr

/-! ### Work in flight -/

/-- A scratchpad operation (R196): code is its position from trigger code 0x2c0, addr the scratchpad address, arrived the
cycle a bar.wait reached its object, pos the F bits that a setf or sete has changed, done the result once it has been performed, late an
imprecise fault it raised. -/
structure LsOp where
  id : Nat
  ctx : Nat
  code : Nat
  addr : Word
  o : PV
  o2 : PV
  bno : Nat
  slot : Nat
  cyc : Nat
  arrived : Option Nat
  pos : Nat
  done : Option PV
  late : Option FaultInfo
  deriving DecidableEq, Repr

/-- A global word operation (R226): code is its position from 0x320. listed holds once the handle was checked and todo
the pages still to translate (R319); sent is the tick at which a request left for another die (R345). -/
structure GvOp where
  id : Nat
  ctx : Nat
  code : Nat
  handle : Word
  idx : Nat
  o2 : PV
  o3 : PV
  bno : Nat
  slot : Nat
  todo : List Nat
  listed : Bool
  sent : Option Nat
  deriving DecidableEq, Repr

/-- An element of a tensor: its row and column in the two-dimensional view, its bits, its scale code and its mark. -/
structure TElem where
  row : Nat
  col : Nat
  bits : Nat
  scale : Nat
  bad : Bool
  deriving DecidableEq, Repr

/-- A tile command (R213, R217) with the operands its trigger carried. todo lists the pages still to translate (tensor, page,
write); gated the gated bytes it reads that a rollback has taken from the gate (R315, R317); got the source bytes and marks it has already
read, by physical address (R221); pos counts the destination granules landed, out holds the elements that a store or a copy has still to
write once its source is read, fp is the fingerprint of the elements written (R223) and bad the first reserved code it read (R215). -/
structure TileCmd where
  id : Nat
  ctx : Nat
  core : Nat
  code : Nat
  y : Nat
  h : Word
  h2 : Word
  c : Word
  c2 : Word
  sh : Word
  fl : Word
  fmt : Word
  dst : Nat
  bno : Nat
  slot : Nat
  todo : List (Nat × Nat × Bool)
  listed : Bool
  started : Bool
  region : Nat
  sent : Option Nat
  gated : List (Nat × Byte × Bool)
  got : List (Nat × Byte × Bool)
  pos : Nat
  out : Option (List TElem)
  fp : Fpr
  bad : Option Nat
  deriving DecidableEq, Repr

/-- A tx.fpr that waits (R224). -/
structure FprWait where
  id : Nat
  ctx : Nat
  y : Word
  deriving DecidableEq, Repr

/-- What a started matrix operation will do (R249): accumulator and side-register words by key, the tile marks, the
destination granules still to be written, and the value of mx.q. -/
structure MxEff where
  acc : List (Nat × Word)
  rmax : List (Nat × Word)
  rsum : List (Nat × Word)
  marks : List (Nat × Bool)
  out : List (List (Nat × Byte) × Bool)
  q : PV
  deriving DecidableEq, Repr

/-- An entry of the operand queue (R249), with the shape, rings, fmt and codebook its trigger carried, and its effect from
its start on. -/
structure MxOp where
  id : Nat
  ctx : Nat
  core : Nat
  code : Nat
  y : Word
  o : PW
  fmt : Word
  shape : Word
  ring : BitVec 12
  book : Option Book
  bno : Nat
  slot : Nat
  trig : Nat
  start : Option Nat
  eff : MxEff
  fault : Option FaultInfo
  deriving DecidableEq, Repr

/-- A row-engine command (R262) with its descriptor (Table 15.10). -/
structure RwCmd where
  id : Nat
  ctx : Nat
  core : Nat
  code : Nat
  y : Word
  o : Word
  eps : Word
  x : Word
  g : Word
  yAddr : Word
  rows : Nat
  d : Nat
  pitch : Nat
  inBf : Bool
  outBf : Bool
  due : Option Nat
  cycles : Nat
  deriving DecidableEq, Repr

/-- A codebook load (R186), with the source entries as they stood once the context's earlier stores to them had been performed. -/
structure CbLoad where
  id : Nat
  ctx : Nat
  core : Nat
  bank : Nat
  addr : Word
  count : Nat
  flag : Nat
  source : Option (List (DWord × Bool))
  deriving DecidableEq, Repr

/-- A pushed or built guest packet (R239, R136). src is the participant number of a task, or a dispatched operation; addr is the scratchpad
address a push reads its packet from, and bno its bundle. -/
structure GuestCmd where
  id : Nat
  src : Nat
  isStream : Bool
  core : Nat
  addr : Nat
  bno : Nat
  pkt : List Byte
  comp : Word
  flag : Nat
  seq : Option Word
  ingress : Bool
  accepted : Bool
  checkpointed : Bool
  done : Option GuestPacket
  deriving DecidableEq, Repr

/-- A publication, acquire, phase or fence in progress (R235). -/
structure PubOp where
  id : Nat
  ctx : Nat
  code : Nat
  scope : Nat
  before : Nat
  deriving DecidableEq, Repr

/-- A round of a network barrier (R233) of an operation at a scope unit, a scope and a barrier id. arrived lists participants
with the tickets of their arrivals, waiting those that wait with four times the ticket plus the kind of answer. A participant
is 2^10 times its barge plus its task. -/
structure Round where
  id : Nat
  op : Nat
  unit : Nat
  scope : Nat
  bid : Nat
  arrived : List (Nat × Nat)
  orVote : Bool
  andVote : Bool
  waiting : List (Nat × Nat)
  complete : Bool
  deriving DecidableEq, Repr

/-- A global store held in a die's collector (R271), or held back on a VER line (R279). bytes are at storage addresses, and poi lists those
that are poisoned (R375); sent is the tick at which its drain left for another die (R345). -/
structure Held where
  id : Nat
  die : Nat
  ctx : Nat
  barge : Nat
  bytes : List (Nat × Byte)
  poi : List Nat
  ver : Bool
  visible : Bool
  deadline : Option Nat
  sent : Option Nat
  deriving DecidableEq, Repr

/-- A retried request (R335): its 64-byte storage address, the tick of its home die from which it may be reissued, and whether it has been.
It stands before others to the address until it has been performed. -/
structure Retry where
  id : Nat
  sector : Nat
  due : Nat
  again : Bool
  deriving DecidableEq, Repr

/-! ### Images, streams, operations, barges -/

structure BufEntry where
  id : Nat
  bank : Nat
  off : Nat
  size : Nat
  first : Nat
  last : Nat
  deriving DecidableEq, Repr

structure RingEntry where
  ring : Nat
  buf : Nat
  slotSize : Nat
  slots : Nat
  deriving DecidableEq, Repr

structure CbImage where
  bank : Nat
  entries : List DWord
  deriving DecidableEq, Repr

/-- A kernel image (R96 to R108): bundles as the words of each. -/
structure Kernel where
  id : Nat
  bundles : List (List Word)
  entry : Nat
  contexts : Nat
  params : Nat
  bargeMax : Nat
  scratch : Nat
  cbmask : Nat
  ringCount : Nat
  bankMap : BitVec 64
  plan : List BufEntry
  rings : List RingEntry
  books : List CbImage
  size : Nat
  deriving DecidableEq, Repr

/-- A tensor descriptor (R109). -/
structure Desc where
  d0 : Nat
  d1 : Nat
  d2 : Nat
  d3 : Nat
  fmt : Nat
  linear : Bool
  home : Nat
  attrs : BitVec 4
  intByte : BitVec 2
  pad : Word
  deriving DecidableEq, Repr

/-- A stream image (R101, R109). -/
structure StreamImage where
  words : List DWord
  entry : Nat
  prio : Nat
  uses : Option (List (List Nat))
  descs : List Desc
  kernels : List (List Byte × Nat)
  deriving DecidableEq, Repr

inductive StreamState where
  | idle | ready | blocked | halted | done | faulted | empty
  deriving DecidableEq, Repr

/-- Why a stream is BLOCKED (Table 7.1). -/
inductive SWait where
  | none
  | depw (ctr : Nat)
  | ops (scope : Nat)
  | launchQueue
  | moving (tensors : List Nat)
  | replay (id : Nat)
  | alloc (id : Nat)
  | fetch (tensor : Nat)
  deriving DecidableEq, Repr

/-- A recipe frame (R137, R295) with the ticket of its bracket; outs lists the outputs that received its recipe (R285). -/
structure RFrame where
  bracket : Nat
  g : Vector DWord 32
  t : Vector Word 32
  inputs : List Word
  outs : List Word
  deriving DecidableEq, Repr

/-- An open recipe bracket (R137): frame is none when the pool was empty at rcpb. -/
structure Bracket where
  id : Nat
  startPc : Nat
  frame : Option Nat
  inputs : List Word
  written : List Word
  deriving DecidableEq, Repr

/-! ### Residency -/

inductive RState where
  | near | resH | compH | spillL | drop | moving | rebuild
  deriving DecidableEq, Repr

structure UseRef where
  sid : Nat
  list : Nat
  pos : Nat
  deriving DecidableEq, Repr

structure Recipe where
  sid : Nat
  start : Nat
  len : Nat
  frame : Nat
  bracket : Nat
  deriving DecidableEq, Repr

/-- A tensor record (Table 19.1). live is cleared by tfree; stored holds while storage is allocated; toL tells where a
copy of a tensor in MOVING goes. PINNED is shown for a nonzero pin count (R286). -/
structure Rec where
  d0 : Nat
  d1 : Nat
  d2 : Nat
  d3 : Nat
  fmt : Nat
  linear : Bool
  attrs : BitVec 4
  intByte : BitVec 2
  pad : Word
  pages : Nat
  st : RState
  hint : Nat
  comp : Nat
  nextUse : Option Nat
  use : Option UseRef
  recipe : Option Recipe
  gen : Nat
  est : Nat
  pin : Nat
  busy : Nat
  live : Bool
  stored : Bool
  toL : Bool
  deriving DecidableEq, Repr

/-- What a launch that faults after its outputs got fresh storage gives back for a parameter (R111, R126, R133): its record, the frame of
its recipe, and the bytes of storage that were discarded with the addresses of the poisoned ones. -/
structure Undo where
  tensor : Nat
  was : Rec
  frame : Option RFrame
  bytes : List (Nat × Byte)
  poi : List Nat
  deriving DecidableEq, Repr

/-! ### Stream slots -/

/-- A stream slot. bound is the replay depth that a blocked tpin took when it began (R120); undo is what the launching instruction at the PC
gives back if it faults (R111). -/
structure Stream where
  st : StreamState
  pc : Nat
  g : Vector DWord 32
  t : Vector Word 32
  ctrs : Vector Word 64
  ordinal : Nat
  prio : Nat
  susp : Bool
  wait : SWait
  raised : List Nat
  failed : Option (Nat × Nat)
  bracket : Option Bracket
  frames : Map RFrame
  image : StreamImage
  haltPc : Nat
  fact : Word
  arg0 : DWord
  arg1 : DWord
  cmdst : Nat
  hostG : BitVec 32
  bound : Option Nat
  undo : List Undo
  deriving DecidableEq, Repr

/-! ### Operations -/

/-- What a dispatched operation does (R112). -/
inductive OpKind where
  | opr (kernel gridG n mode fixDie : Nat) (args : List Word)
  | xform (kind fmt : Nat)
  | route (experts : Nat)
  | a2av (group nth : Nat)
  | gop (opcode : Nat)
  | coll (kind group nth : Nat)
  deriving DecidableEq, Repr

/-- A message of a peer rank in a collective (R359). ok tells that its group size, sender and instruction agree with this rank's. -/
structure PeerMsg where
  rank : Nat
  ok : Bool
  counts : List (Int × Bool)
  data : List (Byte × Bool)
  deriving DecidableEq, Repr

/-- A dispatched operation (R112). params are its handles with whether each is a write-only output; placed and retired count its barges;
queued holds while it has an entry in the launch queue; tick is the tick of its dispatch, since the I/O die's tick of its start, and
later the tick of its completion; out holds, once an engine operation has read its inputs, the elements that it has still to store, by
tensor (R127); tierFull holds the bytes that an expansion could not get; launchBy is the tick by which an opr's first bundle issues
(R14). old holds the bytes of an engine operation's inputs, by storage address, as they stood before stores of other operations to them
since its start (R127). -/
structure Op where
  id : Nat
  sid : Nat
  die : Nat
  ordinal : Nat
  pc : Nat
  ctr : Nat
  kind : OpKind
  params : List (Word × Bool)
  bracket : Option Nat
  replay : Option Nat
  tick : Nat
  started : Bool
  queued : Bool
  gridG : Nat
  placed : Nat
  retired : Nat
  msgs : List PeerMsg
  out : Option (List (Nat × TElem))
  since : Nat
  tierFull : Option Nat
  done : Bool
  launchBy : Option Nat
  old : Map Byte
  undo : List Undo
  deriving DecidableEq, Repr

inductive BargeState where
  | waiting | placed | saving | suspended | resuming | retired
  deriving DecidableEq, Repr

/-- What the save area of a barge holds (R312): contexts by their task number, scratchpad bytes, F bits and marks by
cluster-local physical address, row slots (core of the cluster, number, words), and work withdrawn at pre-emption. refused tells that a
resume found the virtual die unmapped (R27). -/
structure Save where
  ctxs : List (Nat × Ctx)
  bytes : List (Nat × Byte)
  full : List Nat
  marks : List Nat
  rows : List (Nat × Nat × List (Nat × Word × Bool))
  ls : List LsOp
  tiles : List TileCmd
  fpr : List FprWait
  mx : List MxOp
  rw : List RwCmd
  gv : List GvOp
  pubs : List PubOp
  pushes : List GuestCmd
  pages : Nat
  refused : Bool
  deriving DecidableEq, Repr

/-- A barge. saveBy is the tick by which a save under way completes (R309). -/
structure Barge where
  id : Nat
  op : Nat
  g : Nat
  die : Nat
  cluster : Nat
  prio : Nat
  st : BargeState
  ctxs : List Nat
  seq : Nat
  save : Option Save
  books : Map Book
  ringPos : Map (Nat × Nat)
  since : Nat
  saveBy : Option Nat
  deriving DecidableEq, Repr

structure DieRegs where
  spill : Word
  comp : Word
  floor : Word
  rcmp : Word
  depth : Nat
  nearw : Nat
  neard : Word
  fetchd : Word
  accThresh : Nat
  accOvf : Word
  cmResv : Nat
  tmig : Bool
  heat : DWord
  trcEn : Bool
  recLatch : List Byte
  dbgTrace : Map TraceEntry
  dbgCnt : Nat
  dbgCall : List Nat
  deriving DecidableEq, Repr

/-- Who asked for H storage (R292). -/
inductive Asker where
  | stream (sid : Nat) | replay (id : Nat) | fetch (tensor : Nat) | op (id : Nat) | reserve | save (barge : Nat)
  deriving DecidableEq, Repr

/-- A request for pages of H on a die (R292): tensor is none for a tensor not yet defined or no tensor; minDist is the distance
that a fetch's victims must exceed (R291); spills are the spills its selection has started. -/
structure AllocReq where
  id : Nat
  die : Nat
  pages : Nat
  who : Asker
  tensor : Option Nat
  minDist : Option Nat
  granted : Bool
  spills : List Nat
  deriving DecidableEq, Repr

/-- A replay (R297) at a depth under a bound: the recipe's stream, the rcpb and rcpe words and the next word, its registers, the tensors it
bound, the busy counts it raised, the outputs that received the recipe (R285), and the tick of its first dispatch. word holds the
parameters of the launching word under way once its outputs are bound, nextIn its inputs that are ready, and ready holds once the busy
count of the next one is raised. parent is the replay, ctx the task (as a participant), that waits for it. -/
structure ReplayRun where
  id : Nat
  tensor : Nat
  depth : Nat
  bound : Nat
  parent : Option Nat
  ctx : Option Nat
  started : Bool
  sid : Nat
  start : Nat
  stop : Nat
  at_ : Nat
  g : Vector DWord 32
  t : Vector Word 32
  bound_ : List Nat
  raised : List Nat
  outs : List Word
  word : Option (List (Word × Bool))
  nextIn : Nat
  ready : Bool
  tick : Option Nat
  deriving DecidableEq, Repr

inductive AccState where
  | counting | queued | pending
  deriving DecidableEq, Repr

/-- An access counter (R341); die is the die whose queue its notification goes to, since orders the regions that are pending. -/
structure AccCounter where
  die : Nat
  count : Nat
  st : AccState
  since : Nat
  deriving DecidableEq, Repr

/-- A line of an L2 (R329): its dirty mask and data, the sectors that it holds filled, and the set it lies in (2^16 times its
stack plus the set), by the storage address of the line. -/
structure Line where
  mask : BitVec 256
  data : Vec
  present : BitVec 4
  set : Nat
  deriving DecidableEq, Repr

/-! ### Host, guest, platform -/

/-- A table-update request slot (R357). -/
structure TuSlot where
  kind : Nat
  status : Nat
  handle : Word
  first : Nat
  count : Nat
  arg : Nat
  deriving DecidableEq, Repr

/-- A pending update of the tables: new entries of 64 KiB pages of a tensor (R323). stack counts the replicas already written. -/
structure TabUpdate where
  tensor : Nat
  pages : List (Nat × DWord)
  last : Bool
  stack : Nat
  deriving DecidableEq, Repr

inductive GuestState where
  | absent | present | fenced | preempted
  deriving DecidableEq, Repr

/-- A shoot-down that the guest has not acknowledged (R366): the tick by which it is due, the cached translations (tensor, page) that it
drops then, and the held segments (tensor, segment) that wait for it (R322). -/
structure Shoot where
  due : Nat
  pages : List (Nat × Nat)
  segs : List (Nat × Nat)
  deriving DecidableEq, Repr

/-- The guest site (R361 to R368): modified lists the lines that the guest holds modified, cached its translations (tensor, page);
reply, data and leaf are the response to its last request. ctl holds the bits GPREEMPT, GRESUME and FENCE that the host has set
(Table 25.7). wrapped says that every sequence number has been given out, and lost holds those whose packets a save has withdrawn
(R240). shoots holds the shoot-downs that it has not acknowledged, oldest first. -/
structure Guest where
  st : GuestState
  reason : Nat
  gseq : Word
  wrapped : Bool
  lost : List Word
  vendor : BitVec 16
  firstOp : Nat
  lastOp : Nat
  stopped : Bool
  preemptBy : Option Nat
  shoots : List Shoot
  modified : List Nat
  cached : List (Nat × Nat)
  reply : Nat
  data : List (Option Byte)
  leaf : DWord
  ctl : BitVec 3
  deriving DecidableEq, Repr

/-- The load window (R352) with the operation under way: whether it releases, the container it read (none when the host read failed), and
its status once it has had its effect. -/
structure LoadRegs where
  src : DWord
  len : Word
  slot : Nat
  lid : Nat
  lrel : DWord
  lmap : DWord
  status : Nat
  busy : Bool
  releasing : Bool
  file : Option (List Byte)
  result : Option Nat
  deriving DecidableEq, Repr

/-- The mailbox (R384): output is what CERT or ATTEST prepared, staged the firmware bytes of FWLOAD and flash those of the last FWCOMMIT
(empty: the image of manufacture). result is the status that the command under way will report, drained tells that ELOG has given the
summary counters, and powerDue the tick by which PSTATE 0 completes. -/
structure Mailbox where
  status : Nat
  busy : Bool
  arg : Word
  len : Nat
  data : Map Byte
  output : List Byte
  staged : Map Byte
  flash : Map Byte
  result : Nat
  drained : Bool
  powerDue : Option Nat
  deriving DecidableEq, Repr

/-- After which of its effects a waiting record is posted (R355). -/
inductive PostThen where
  | nothing
  | streamDone (sid : Nat)
  | ctxStopped (pid : Nat)
  | ctxResumed (pid : Nat)
  deriving DecidableEq, Repr

/-- ticks are the reference timers of the stacks, dieTicks what each virtual die has counted on the timer of the stack that holds it. -/
structure Package where
  ticks : Vector Nat 8
  dieTicks : Vector Nat 8
  ioTick : Nat
  vmap : Vector (Option Nat) 8
  ready : Bool
  recovery : Bool
  fatal : Bool
  p1 : Bool
  rr : Word
  capgen : Word
  harvest : Bool
  harvestDue : Nat
  apst : Word
  pcap : Nat
  throttled : List Nat
  fencedClusters : List Nat
  fencedChannels : List Nat
  fencedStacks : List Nat
  fencedExpanders : List Nat
  peers : Vector Nat 8
  expanders : Vector Nat 4
  log : List (List Byte)
  summary : Map Nat
  errTotal : Map Nat
  sectorErrs : Map (List (Nat × Nat))
  msix : BitVec 16
  copying : Map Nat
  deadLinks : List Nat
  deriving DecidableEq, Repr

/-- The memory system beyond the cores (23), its tables (21) and the collectors (17). bmaps and allots hold a compressed block's map entry
and allotment, badTags the tags that a granule's metadata holds in place of its own (R337, R372), packs the frames of a compressed
tensor's retained pages (none once released), overflow the slots in use (die, slot, block), reserve the pages of the overflow reserves
(die, page, frame), broken the table entries (replica, key) that read as not present until they are rewritten (R372). segs is the
segment table of each replica (base and entry count of a tensor's level-1 table), nextTable numbers the tables, and walkQ holds the
misses queued for each stack's walkers (R319); hot lists the pages (tensor, place) that a thermal migration is to move (R342). -/
structure MemSys where
  l2 : Map Line
  versions : Map Word
  replicas : List (Nat × Nat × Nat)
  tags : Map (BitVec 4)
  badTags : Map (BitVec 4)
  bmaps : Map Word
  allots : Map Nat
  packs : Map (List (Option Nat))
  overflow : List (Nat × Nat × Nat)
  reserve : List (Nat × Nat × Nat)
  frames : List Nat
  tlPages : List Nat
  tables : Vector (Map DWord) 8
  segs : Vector (Map (Nat × Nat)) 8
  nextTable : Nat
  walkQ : Vector (List Nat) 8
  heldSegs : List (Nat × Nat)
  hot : List (Nat × Nat)
  held : List Held
  counters : Map AccCounter
  notes : List (Nat × Nat)
  broken : List (Nat × Nat)
  refreshing : List Nat
  retries : List Retry
  deriving DecidableEq, Repr

/-- Work in flight, each entry with its ticket. -/
structure Work where
  ls : List LsOp
  gv : List GvOp
  tiles : List TileCmd
  fprWaits : List FprWait
  mx : List MxOp
  rw : List RwCmd
  cbLoads : List CbLoad
  guestCmds : List GuestCmd
  pubs : List PubOp
  rounds : List Round
  deriving DecidableEq, Repr

/-- Sequencers, residency engines and what they hold. retryList holds the barges that wait for a save area, each with whether H storage of
its die has been released since (R312), wrote the granules that each running operation has written (R285), decs the counter decrements
of completions of this tick (stream, counter, PC), which take effect at its end (R139), badWords, badState and badRecs the poisoned
stream words, parts of a stream's state and tensor records (R372, R376). -/
structure Seq where
  streams : Map Stream
  lastServed : Map Nat
  kernels : List Kernel
  ops : List Op
  barges : List Barge
  recs : Map Rec
  dies : Vector DieRegs 8
  allocs : List AllocReq
  replays : List ReplayRun
  retryList : List (Nat × Bool)
  wrote : List (Nat × Nat)
  decs : List (Nat × Nat × Nat)
  badWords : List (Nat × Nat)
  badState : List (Nat × Nat)
  badRecs : List Nat
  groups : Map (List (BitVec 16))
  groupSeq : Map Nat
  collTmo : Word
  deriving DecidableEq, Repr

/-- The host interface, the guest site and the mailbox (25, 27). hostLines lists the device lines that the host has cached (R282). -/
structure HostSide where
  slots : Map DWord
  load : LoadRegs
  cw : Map (List Byte)
  cwProd : Word
  cwCons : Word
  cwWait : List (List Byte × PostThen)
  tu : Map TuSlot
  tuProd : Word
  tuDone : Word
  tuBusy : Bool
  tuQueue : List TabUpdate
  guest : Guest
  mailbox : Mailbox
  hostData : List (Option Byte)
  hostLines : List Nat
  deriving DecidableEq, Repr

/-- The whole machine: the model's own fields (log entry 1) first. ms, wk, sq, hs and pkg group what the manual keeps in the
memory system, in flight, at the sequencers, at the host and in the package. -/
structure State where
  cur : Agent
  micro : List Trig
  agenda : List Turn
  turnNo : Nat
  nextId : Nat
  freeNo : Nat
  cores : Map CoreState
  ctxs : Map Ctx
  mem : List Host.Cell
  memPoi : Map Bool
  fbits : Map Bool
  ms : MemSys
  wk : Work
  sq : Seq
  hs : HostSide
  pkg : Package
  deriving DecidableEq, Repr

/-- Why the machine stops. -/
inductive Fault where
  /-- Raised by step for a turn that names a stack, cluster, core or die outside Table 1.4: there is no such unit.
  Safe: the hardware has no such agent. -/
  | noSuchUnit
  deriving DecidableEq, Repr

/-- Why the model has no next state. -/
inductive Refusal where
  /-- Raised by no meaning: an instruction without a meaning in this model. Safe. -/
  | notModelled (mnemonic : String)
  /-- Raised by the meaning of a trigger executed when no context is selected, or of a stream instruction executed when
  no stream is selected: no agent of the hardware executes it. Safe. -/
  | noAgent
  deriving DecidableEq, Repr

def PV.zero : PV := { val := 0, poi := 0 }
def PW.zero : PW := { val := 0, poi := false }

/-- The cost, memory and debug registers of a die at reset (Table 19.4, Table 23.2, Table 25.9). -/
def DieRegs.reset : DieRegs where
  spill := 48
  comp := 16
  floor := 256
  rcmp := 256
  depth := 4
  nearw := 4
  neard := 2
  fetchd := 4
  accThresh := 4096
  accOvf := 0
  cmResv := 4
  tmig := true
  heat := 0
  trcEn := false
  recLatch := []
  dbgTrace := []
  dbgCnt := 0
  dbgCall := []

/-- The platform registers at reset (Table 27.4, Table 27.6, R385). -/
def Package.reset : Package where
  ticks := Vector.replicate 8 0
  dieTicks := Vector.replicate 8 0
  ioTick := 0
  vmap := #v[some 0, some 1, some 2, some 3, some 4, some 5, some 6, some 7]
  ready := false
  recovery := false
  fatal := false
  p1 := false
  rr := 0
  capgen := 0
  harvest := false
  harvestDue := 200000
  apst := 0
  pcap := 5000
  throttled := []
  fencedClusters := []
  fencedChannels := []
  fencedStacks := []
  fencedExpanders := []
  peers := Vector.replicate 8 0
  expanders := Vector.replicate 4 0
  log := []
  summary := []
  errTotal := []
  sectorErrs := []
  msix := 0
  copying := []
  deadLinks := []

/-- The frames of the overflow reserves at reset: CM_RESV = 4 pages of each die, taken by R342 from an empty stack whose channels are
all cool (R340). -/
def reserveAtReset : List (Nat × Nat × Nat) := (List.range 32).map fun i => (i / 4, i % 4, i / 4 * 2 ^ 21 + i % 4)

def MemSys.reset : MemSys where
  l2 := []
  versions := []
  replicas := []
  tags := []
  badTags := []
  bmaps := []
  allots := []
  packs := []
  overflow := []
  reserve := reserveAtReset
  frames := reserveAtReset.map fun r => r.2.2
  tlPages := []
  tables := Vector.replicate 8 []
  segs := Vector.replicate 8 []
  nextTable := 0
  walkQ := Vector.replicate 8 []
  heldSegs := []
  hot := []
  held := []
  counters := []
  notes := []
  broken := []
  refreshing := []
  retries := []

def Work.reset : Work where
  ls := []
  gv := []
  tiles := []
  fprWaits := []
  mx := []
  rw := []
  cbLoads := []
  guestCmds := []
  pubs := []
  rounds := []

def Seq.reset : Seq where
  streams := []
  lastServed := []
  kernels := []
  ops := []
  barges := []
  recs := []
  dies := Vector.replicate 8 DieRegs.reset
  allocs := []
  replays := []
  retryList := []
  wrote := []
  decs := []
  badWords := []
  badState := []
  badRecs := []
  groups := []
  groupSeq := []
  collTmo := 1000

def LoadRegs.reset : LoadRegs where
  src := 0
  len := 0
  slot := 0
  lid := 0
  lrel := 0
  lmap := 0xfedcba9876543210#64
  status := 0
  busy := false
  releasing := false
  file := none
  result := none

def Guest.reset : Guest where
  st := .absent
  reason := 0
  gseq := 0
  wrapped := false
  lost := []
  vendor := 0
  firstOp := 0
  lastOp := 0
  stopped := false
  preemptBy := none
  shoots := []
  modified := []
  cached := []
  reply := 0
  data := []
  leaf := 0
  ctl := 0

def Mailbox.reset : Mailbox where
  status := 0
  busy := false
  arg := 0
  len := 0
  data := []
  output := []
  staged := []
  flash := []
  result := 0
  drained := false
  powerDue := none

def HostSide.reset : HostSide where
  slots := []
  load := LoadRegs.reset
  cw := []
  cwProd := 0
  cwCons := 0
  cwWait := []
  tu := []
  tuProd := 0
  tuDone := 0
  tuBusy := false
  tuQueue := []
  guest := Guest.reset
  mailbox := Mailbox.reset
  hostData := []
  hostLines := []

/-- The machine right after reset: before the bring-up of R387, with nothing loaded. -/
def State.reset : State where
  cur := .idle
  micro := []
  agenda := []
  turnNo := 0
  nextId := 0
  freeNo := 0
  cores := []
  ctxs := []
  mem := []
  memPoi := []
  fbits := []
  ms := MemSys.reset
  wk := Work.reset
  sq := Seq.reset
  hs := HostSide.reset
  pkg := Package.reset

end Sys2Proof.Machine
end

