-- ==== Sys2Proof/Machine/Ops.lean ====
section
/-! DEFINITION. The named operations over memory, maps, contexts and cores that every meaning uses, the posting of records
(R355), and taking a fault and returning from one (R325 to R327). -/
namespace Sys2Proof.Machine
open Sys2Proof

/-- A step's outcome in this machine. -/
abbrev Out := Host.Outcome State Fault Refusal

/-! ### Vectors -/

def vget {α : Type} {n : Nat} (v : Vector α n) (i : Nat) (d : α) : α := (v[i]?).getD d
def vset {α : Type} {n : Nat} (v : Vector α n) (i : Nat) (x : α) : Vector α n := v.setIfInBounds i x

/-! ### Lists -/

/-- Inserts into a list that a test keeps in order, after every entry that may stand before it. -/
def insertBy {α : Type} (before : α → α → Bool) (x : α) : List α → List α
  | [] => [x]
  | y :: ys => if before x y then x :: y :: ys else y :: insertBy before x ys
/-- A stable sort. -/
def sortBy {α : Type} (before : α → α → Bool) : List α → List α
  | [] => []
  | x :: xs => insertBy (fun a b => before a b || !before b a) x (sortBy before xs)
def sortNats : List Nat → List Nat := sortBy fun a b => decide (a < b)
def sumNats : List Nat → Nat
  | [] => 0
  | x :: xs => x + sumNats xs

/-! ### Canonical maps -/

/-- The value listed at a key. -/
def Map.find {α : Type} : Map α → Nat → Option α
  | [], _ => none
  | (a, x) :: m, k => if a = k then some x else Map.find m k

def Map.get {α : Type} (m : Map α) (k : Nat) (d : α) : α := (m.find k).getD d

/-- Lists a value at a key, keeping the keys rising. -/
def Map.put {α : Type} : Map α → Nat → α → Map α
  | [], k, x => [(k, x)]
  | (a, y) :: m, k, x => if k < a then (k, x) :: (a, y) :: m else if k = a then (k, x) :: m else (a, y) :: Map.put m k x

/-- Unlists a key. -/
def Map.erase {α : Type} : Map α → Nat → Map α
  | [], _ => []
  | (a, y) :: m, k => if a = k then Map.erase m k else (a, y) :: Map.erase m k

/-- Writes a value at a key of a map whose unlisted keys read as d. -/
def Map.set {α : Type} [DecidableEq α] (m : Map α) (k : Nat) (x d : α) : Map α := if x = d then m.erase k else m.put k x

/-- Changes the value at a key, if one is listed. -/
def Map.mod {α : Type} (m : Map α) (k : Nat) (f : α → α) : Map α :=
  match m.find k with
  | some x => m.put k (f x)
  | none => m

def Map.keys {α : Type} (m : Map α) : List Nat := m.map Prod.fst

/-- Keys strictly rising from a bound. -/
def Map.risingFrom {α : Type} : Nat → Map α → Bool
  | _, [] => true
  | b, (a, _) :: m => b ≤ a && Map.risingFrom (a + 1) m

/-- The canonical form of a memory: addresses strictly rising, and no entry equal to the 0 that an unlisted address reads
as (log entry 3). -/
def Memory.wf (m : List Host.Cell) : Bool := Map.risingFrom 0 m && m.all fun c => c.2 != 0

/-! ### Bytes of memory and their marks -/

/-- Unlisted addresses read as 0 (log entry 3). -/
def State.byte (s : State) (a : Nat) : Byte := Map.get s.mem a 0

def State.bytes (s : State) : Nat → Nat → List Byte
  | _, 0 => []
  | a, n + 1 => s.byte a :: s.bytes (a + 1) n

def State.setByte (s : State) (a : Nat) (b : Byte) : State := { s with mem := Map.set s.mem a b 0 }

def State.setBytes (s : State) : Nat → List Byte → State
  | _, [] => s
  | a, b :: bs => (s.setByte a b).setBytes (a + 1) bs

/-- Bytes at listed addresses. -/
def State.setCells (s : State) : List (Nat × Byte) → State
  | [] => s
  | (a, b) :: cs => (s.setByte a b).setCells cs

/-- Where device memory begins in the model's one space of byte addresses; scratchpads lie below. -/
def devBase : Nat := 2 ^ 56

/-- The grain of a poison mark (R375): a 32-byte granule of scratchpad, a 64-byte sector of device memory. -/
def markOf (a : Nat) : Nat := if a < devBase then a / 32 else devBase + a / 64
def markSize (a : Nat) : Nat := if a < devBase then 32 else 64

def State.poisonAt (s : State) (a : Nat) : Bool := Map.get s.memPoi (markOf a) false
def State.setPoison (s : State) (a : Nat) (p : Bool) : State := { s with memPoi := Map.set s.memPoi (markOf a) p false }

/-- Whether any of n bytes from a carries a mark. -/
def State.anyPoison (s : State) : Nat → Nat → Bool
  | _, 0 => false
  | a, n + 1 => s.poisonAt a || s.anyPoison (a + 1) n

/-- The mark of the granule or sector of a stored byte, after a store of which some bytes are poisoned: one with a poisoned byte is
poisoned whole, and one that the store covers whole is clean (R375). -/
def State.markStore (s : State) (a : Nat) (stored bad : List Nat) : State :=
  if bad.any fun b => markOf b == markOf a then s.setPoison a true
  else
    let g := a / markSize a * markSize a
    if (List.range (markSize a)).all (fun i => stored.contains (g + i)) then s.setPoison a false else s

/-- Performs the store of some bytes; bad lists the poisoned ones. -/
def State.storeCells (s : State) (cs : List (Nat × Byte)) (bad : List Nat) : State :=
  let as := cs.map Prod.fst
  as.foldl (fun t a => t.markStore a as bad) (s.setCells cs)

def listFrom (a : Nat) : List Byte → List (Nat × Byte)
  | [] => []
  | b :: bs => (a, b) :: listFrom (a + 1) bs

/-! ### Numbers of units (Table 1.4, R18) -/

/-- The core of a stack, cluster and core number. -/
def coreKey (p cl c : Nat) : Nat := (p * 6 + cl) * 48 + c
def coreOf (c : Nat) : Nat := c / 4
def hctxOf (c : Nat) : Nat := c % 4
def coreIdx (k : Nat) : Nat := k % 48
def clusterOf (k : Nat) : Nat := k / 48 % 6
def stackOf (k : Nat) : Nat := k / 288

/-! ### Contexts, cores and other entries -/

def State.ctx? (s : State) (c : Nat) : Option Ctx := s.ctxs.find c
def State.putCtx (s : State) (c : Nat) (x : Ctx) : State := { s with ctxs := s.ctxs.put c x }
def State.modCtx (s : State) (c : Nat) (f : Ctx → Ctx) : State := { s with ctxs := s.ctxs.mod c f }
def State.modRegs (s : State) (c : Nat) (f : Regs → Regs) : State := s.modCtx c fun x => { x with r := f x.r }

/-- A codebook bank at reset (log entry 4). -/
def Bank.reset : Bank where
  entries := []
  valid := 0
  poi := 0
  busy := none
  owner := none
  gen := 0
  saved := 0
  writes := []

/-- A core at reset (log entry 4). -/
def CoreState.reset : CoreState where
  cyc := 0
  current := 3
  bubble := false
  sinceSwitch := 0
  switched := true
  banks := Vector.replicate 4 Bank.reset
  take := none
  div := none
  mxVis := 0
  slotOwner := []
  slotMem := []
  slotPoi := []
  tlb := []
  trace := []
  traceCnt := 0
  fenced := false
  errTimes := []

def State.core (s : State) (k : Nat) : CoreState := s.cores.get k CoreState.reset
def State.putCore (s : State) (k : Nat) (x : CoreState) : State := { s with cores := s.cores.put k x }
def State.modCore (s : State) (k : Nat) (f : CoreState → CoreState) : State := s.putCore k (f (s.core k))

def State.barge? (s : State) (b : Nat) : Option Barge := s.sq.barges.find? fun x => x.id == b
def State.op? (s : State) (o : Nat) : Option Op := s.sq.ops.find? fun x => x.id == o
def State.kernel? (s : State) (k : Nat) : Option Kernel := s.sq.kernels.find? fun x => x.id == k
def State.stream? (s : State) (sid : Nat) : Option Stream := s.sq.streams.find sid
def State.rec? (s : State) (t : Nat) : Option Rec := s.sq.recs.find t

def State.modStream (s : State) (sid : Nat) (f : Stream → Stream) : State :=
  { s with sq := { s.sq with streams := s.sq.streams.mod sid f } }
def State.modRec (s : State) (t : Nat) (f : Rec → Rec) : State := { s with sq := { s.sq with recs := s.sq.recs.mod t f } }
def State.modOp (s : State) (o : Nat) (f : Op → Op) : State :=
  { s with sq := { s.sq with ops := s.sq.ops.map fun x => if x.id = o then f x else x } }
def State.modBarge (s : State) (b : Nat) (f : Barge → Barge) : State :=
  { s with sq := { s.sq with barges := s.sq.barges.map fun x => if x.id = b then f x else x } }
def State.modDie (s : State) (v : Nat) (f : DieRegs → DieRegs) : State :=
  { s with sq := { s.sq with dies := vset s.sq.dies v (f (vget s.sq.dies v DieRegs.reset)) } }
def State.die (s : State) (v : Nat) : DieRegs := vget s.sq.dies v DieRegs.reset

/-- The barge, the operation and the kernel image that a context runs for. -/
def State.bargeOf (s : State) (c : Nat) : Option Barge := (s.ctx? c).bind fun x => s.barge? x.barge
def State.opOf (s : State) (c : Nat) : Option Op := (s.bargeOf c).bind fun b => s.op? b.op
def State.kernelOf (s : State) (c : Nat) : Option Kernel :=
  (s.opOf c).bind fun o => match o.kind with
    | .opr k .. => s.kernel? k
    | _ => none
/-- The virtual die of a context (R25), its stream, and its task number. -/
def State.dieOf (s : State) (c : Nat) : Nat := ((s.bargeOf c).map (·.die)).getD 0
def State.sidOf (s : State) (c : Nat) : Nat := ((s.opOf c).map (·.sid)).getD 0

/-- The stack a virtual die maps to (R26). -/
def State.stackOfDie (s : State) (v : Nat) : Option Nat := (vget s.pkg.vmap v none)
def State.mapped (s : State) (v : Nat) : Bool := (s.stackOfDie v).isSome
/-- The ticks that a virtual die has counted: durations are counted on the timer of the stack that holds it, and a move to a spare goes on
with the count (R4, R380). -/
def State.dieTick (s : State) (v : Nat) : Nat := vget s.pkg.dieTicks v 0

/-- Parts of a stream's sequencer state that are written whole carry no poison (R375). -/
def State.cleanState (s : State) (sid : Nat) (k : Nat → Bool) : State :=
  { s with sq := { s.sq with badState := s.sq.badState.filter fun p => !(p.1 == sid && k p.2) } }

/-- A fresh ticket. -/
def State.ticket (s : State) : Nat × State := (s.nextId, { s with nextId := s.nextId + 1 })
/-- A free bit and a free word (log entry 8), each use with a fresh count. -/
def State.freeBit (s : State) : Bool × State := (Config.freeBit s.freeNo, { s with freeNo := s.freeNo + 1 })
def State.freeWord (s : State) : Word × State := (Config.freeWord s.freeNo, { s with freeNo := s.freeNo + 1 })

/-! ### Handles (R117) -/

/-- Home die [31:29], generation [28:20], index [19:0]. A tensor record's key is home · 2^20 + index. -/
def handleHome (h : Word) : Nat := h.toNat / 2 ^ 29
def handleGen (h : Word) : Nat := h.toNat / 2 ^ 20 % 2 ^ 9
def handleIdx (h : Word) : Nat := h.toNat % 2 ^ 20
def handleKey (h : Word) : Nat := handleHome h * 2 ^ 20 + handleIdx h
def isDiscard (h : Word) : Bool := handleGen h == 0 && handleIdx h == 0xfffff
def makeHandle (key gen : Nat) : Word := BitVec.ofNat 32 (key / 2 ^ 20 * 2 ^ 29 + gen * 2 ^ 20 + key % 2 ^ 20)

/-- The record a handle names, none when it is stale: another generation, no live record, or an unmapped home (R380). -/
def State.live? (s : State) (h : Word) : Option Rec :=
  match s.rec? (handleKey h) with
  | some r => if r.live && r.gen == handleGen h && s.mapped (handleHome h) then some r else none
  | none => none

/-- The record that a handle names for an access of context c: a live one, or one that a tfree has released since the context's operation
was dispatched with the handle, which runs to its end on the old storage (R119). -/
def State.opLive? (s : State) (c : Nat) (h : Word) : Option Rec :=
  match s.live? h, s.rec? (handleKey h), s.opOf c with
  | some r, _, _ => some r
  | none, some r, some o =>
    if !r.live && r.stored && r.gen == handleGen h % 511 + 1 && s.mapped (handleHome h) && o.params.any (fun p => p.1 == h) then some r
    else none
  | none, _, _ => none

/-! ### Values with poison marks -/

def PW.of (x : Word) : PW := { val := x, poi := false }
def PV.ofWord (x : Word) (p : Bool) : PV := { val := x.setWidth 2048, poi := if p then 1 else 0 }
def PV.ofVec (x : Vec) (p : Bool) : PV := { val := x, poi := if p then BitVec.allOnes 64 else 0 }
/-- Lane 0 of a value (Table 5.6). -/
def PV.scalar (x : PV) : Word := x.val.extractLsb' 0 32
def PV.lane (x : PV) (j : Nat) : Word := x.val.lane j
def PV.bad (x : PV) : Bool := x.poi != 0

/-- A value whose words are poisoned as a list of bytes is: one mark for each byte, from the lowest (R375). -/
def marksOf (bs : List Bool) : BitVec 64 := BitVec.ofNat 64 ((List.range 64).foldl (fun n j => if ((bs.drop (4 * j)).take 4).any id then n + 2 ^ j else n) 0)
/-- The stored bytes that are poisoned, of cells that hold a value from its lowest byte on. -/
def badCells (cs : List (Nat × Byte)) (poi : BitVec 64) : List Nat :=
  (List.range cs.length).filterMap fun i => if poi.getLsbD (i / 4) then (cs[i]?).map Prod.fst else none
/-- All the bytes of a store, or none of them. -/
def allBad (cs : List (Nat × Byte)) (p : Bool) : List Nat := if p then cs.map Prod.fst else []

/-- The 256 bytes of a vector. -/
def vecBytes (v : Vec) : List Byte := leBytes 256 v.toNat
def wordBytes (w : Word) : List Byte := leBytes 4 w.toNat
def bytesVec (bs : List Byte) : Vec := BitVec.ofNat 2048 (leNat bs)

/-! ### Records of the completion window (R355) -/

/-- Raises an MSI-X vector (R347). -/
def State.msix (s : State) (v : Nat) : State :=
  { s with pkg := { s.pkg with msix := s.pkg.msix ||| (1#16 <<< v) } }

def windowFull (h : HostSide) : Bool := (h.cwProd - h.cwCons).toNat == 4096

/-- A task as a participant: 2^10 times its barge plus its task number. -/
def Ctx.pid (x : Ctx) : Nat := x.barge * 2 ^ 10 + x.task

/-- The context of a participant, from its save area while its barge is suspended. -/
def State.member? (s : State) (pid : Nat) : Option Ctx :=
  (s.barge? (pid / 2 ^ 10)).bind fun b =>
    match b.save with
    | some v => (v.ctxs.find? fun p => p.1 == pid % 2 ^ 10).map Prod.snd
    | none => (b.ctxs[pid % 2 ^ 10]?).bind fun c => s.ctx? c

/-- Changes the context of a participant where it is held. -/
def State.modMember (s : State) (pid : Nat) (f : Ctx → Ctx) : State :=
  match s.barge? (pid / 2 ^ 10) with
  | none => s
  | some b =>
    match b.save with
    | some _ =>
      s.modBarge b.id fun g => { g with save := g.save.map fun w =>
        { w with ctxs := w.ctxs.map fun p => if p.1 = pid % 2 ^ 10 then (p.1, f p.2) else p } }
    | none => s.modCtx (b.ctxs.getD (pid % 2 ^ 10) 0) f

/-- What follows the posting of a record (R355). -/
def State.afterPost (s : State) : PostThen → State
  | .nothing => s
  | .streamDone sid => s.modStream sid fun x => { x with st := .done }
  | .ctxStopped pid | .ctxResumed pid => s.modMember pid fun x => { x with stop := x.stop.map fun y => { y with posted := true } }

/-- Writes a record into its entry and advances CW_PROD. -/
def State.writeRecord (s : State) (r : List Byte) (after : PostThen) : State :=
  let h := s.hs
  let s1 := { s with hs := { h with cw := h.cw.put (h.cwProd.toNat % 4096) r, cwProd := h.cwProd + 1 } }
  (if h.cwProd = h.cwCons then s1.msix 0 else s1).afterPost after

/-- Posts a record, or lets it wait in posting order while the window is full. -/
def State.post (s : State) (r : List Byte) (after : PostThen) : State :=
  if s.hs.cwWait.isEmpty && !windowFull s.hs then s.writeRecord r after
  else { s with hs := { s.hs with cwWait := s.hs.cwWait ++ [(r, after)] } }

/-! ### Taking a fault -/

def fatalBits : Nat := 8

/-- The 32 bytes of a fault record of a core (Table 21.5). -/
def faultRecord (sid die bargeNo core hctx task resume : Nat) (f : FaultInfo) : List Byte :=
  leBytes 1 f.cls ++ leBytes 1 f.flags ++ leBytes 2 f.code ++ leBytes 1 sid ++ leBytes 1 f.slot ++ leBytes 1 f.subcode ++
  leBytes 1 die ++ leBytes 4 f.bno ++ leBytes 4 bargeNo ++ leBytes 1 (clusterOf core) ++ leBytes 1 (coreIdx core) ++
  leBytes 1 hctx ++ leBytes 1 task ++ leBytes 4 resume ++ leBytes 8 f.value

/-- The record of a sequencer fault: flag bit 2, no barge and no core. -/
def streamRecord (sid : Nat) (pc : Nat) (f : FaultInfo) : List Byte :=
  leBytes 1 f.cls ++ leBytes 1 f.flags ++ leBytes 2 f.code ++ leBytes 1 sid ++ leBytes 1 0xff ++ leBytes 1 f.subcode ++
  leBytes 1 (sid / 16) ++ leBytes 4 pc ++ leBytes 4 0xffffffff ++ leBytes 4 0xffffffff ++ leBytes 4 pc ++ leBytes 8 f.value

/-- The precise bit, and the bits for rolled back, sequencer and error record (Table 21.5). -/
def flPrecise : Nat := 1
def flRolled : Nat := 2
def flSequencer : Nat := 4
def flRecord : Nat := 8

/-- The action for a class in a fault action register (R327); the reserved code acts as STOP. -/
def actionOf (fact : Word) (cls : Nat) : Nat := fact.toNat / 2 ^ (2 * cls) % 4

/-- The record of a fault f of a participant with its resume point. -/
def State.recordOf (s : State) (pid : Nat) (resume : Nat) (f : FaultInfo) : List Byte :=
  match s.barge? (pid / 2 ^ 10) with
  | some b =>
    let c := b.ctxs.getD (pid % 2 ^ 10) 0
    faultRecord (((s.op? b.op).map (·.sid)).getD 0) b.die b.g (coreOf c) (hctxOf c) (pid % 2 ^ 10) resume f
  | none => faultRecord 0 0 0xffffffff 0 0 0xff resume f

/-- Stores leave the gate unperformed (R317, R327). The started tile commands of the context that read them still do. -/
def State.dropGate (s : State) (c : Nat) (drop : GStore → Bool) : State :=
  let gone := (((s.ctx? c).map (·.gate)).getD []).filter drop
  let seen (id : Nat) : List (Nat × Byte × Bool) :=
    (gone.filter fun g => !g.isGlobal && g.opId < id).reverse.flatMap fun g => g.cells.map fun q => (q.1, q.2, g.poi.contains q.1)
  let read (k : TileCmd) : TileCmd := if k.ctx = c && k.started then { k with gated := seen k.id ++ k.gated } else k
  { s with wk := { s.wk with tiles := s.wk.tiles.map read } }.modCtx c fun x =>
    { x with gate := x.gate.filter fun g => !drop g }

/-- Ends the task of a context (R163): it issues nothing more, its loop frames and pending redirect are discarded. -/
def Ctx.ended (x : Ctx) : Ctx :=
  { x with halted := true, stop := none, resolving := none, later := [],
           r := { x.r with loops := [], redirect := none, rep := none } }

/-- The record of a fault of a task that has ended: an error record, with no resume point (R163). -/
def State.postEnded (s : State) (pid : Nat) (f : FaultInfo) : State :=
  s.post (s.recordOf pid 0xffffffff { f with flags := f.flags ||| flRecord }) .nothing

/-- Ends the task of a participant for a fault or a command: its store gate is discarded, and the faults that it kept while it was stopped
are posted (R163, R325, R327). -/
def State.endMember (s : State) (pid : Nat) : State :=
  match s.barge? (pid / 2 ^ 10), s.member? pid with
  | some b, some x =>
    let s1 := x.later.foldl (fun t f => t.postEnded pid f.info) s
    let s2 := if b.save.isSome then s1 else s1.dropGate (b.ctxs.getD (pid % 2 ^ 10) 0) fun _ => true
    s2.modMember pid fun y => { y.ended with gate := [] }
  | _, _ => s

/-- Whether a recipe is valid (R284): its length is nonzero, its stream is loaded and its frame has not been released. -/
def State.recipeValid (s : State) (q : Recipe) : Bool :=
  q.len != 0 && match s.stream? q.sid with
    | some x => x.st != .empty && ((x.frames.find q.frame).map fun f => f.bracket == q.bracket).getD false
    | none => false
def State.validRecipe (s : State) (r : Rec) : Bool := (r.recipe.map s.recipeValid).getD false

/-- A replay of a dropped tensor, as RESOLVE and a reference to it start one (R297, R327). bound is the depth it may not
exceed; parent is the replay, and ctx the participant, that waits for it. -/
def State.startReplay (s : State) (t depth bound : Nat) (parent ctx : Option Nat) : Nat × State :=
  let (id, s1) := s.ticket
  let run : ReplayRun :=
    { id := id, tensor := t, depth := depth, bound := bound, parent := parent, ctx := ctx, started := false, sid := 0, start := 0,
      stop := 0, at_ := 0, g := Vector.replicate 32 0, t := Vector.replicate 32 0, bound_ := [], raised := [], outs := [],
      word := none, nextIn := 0, ready := false, tick := none }
  (id, { s1 with sq := { s1.sq with replays := s1.sq.replays ++ [run] } })

/-- Whether RESOLVE rebuilds for this fault: PG_NOTPRESENT on a tensor in DROP that has a recipe (R327). The value holds
the handle in its low 32 bits. -/
def State.resolvable (s : State) (f : FaultInfo) : Option Nat :=
  if f.code = 0x30 then
    let t := handleKey (BitVec.ofNat 32 f.value)
    match s.rec? t with
    | some r => if r.live && r.st = .drop && s.validRecipe r then some t else none
    | none => none
  else none

/-- The action in force for a class of fault of a participant: the register of the stream that dispatched its barge (R327). -/
def State.actionFor (s : State) (pid cls : Nat) : Nat :=
  match ((s.barge? (pid / 2 ^ 10)).bind fun b => s.op? b.op).bind fun o => s.stream? o.sid with
  | some x => actionOf x.fact cls
  | none => 0

/-- A fault as a stopped or suspended task keeps it for its next boundary. -/
def State.keep (s : State) (pid resume : Nat) (f : FaultInfo) : LaterFault :=
  { info := f, action := s.actionFor pid f.cls, resume := if f.flags / flRolled % 2 = 1 then some resume else none }

/-- Stops a context for a fault as an action has it: 1 END, 2 RESOLVE, any other STOP (R327). -/
def State.stopFor (s : State) (c : Nat) (x : Ctx) (resume action : Nat) (f : FaultInfo) : State :=
  let stopped := ({ cls := f.cls, resume := resume, posted := false } : Stop)
  match action with
  | 1 => (s.post (s.recordOf x.pid resume { f with flags := f.flags ||| flRecord }) .nothing).endMember x.pid
  | 2 =>
    match s.resolvable f with
    | some t =>
      let (_, s1) := s.startReplay t 1 (vget s.sq.dies (t / 2 ^ 20) DieRegs.reset).depth none (some x.pid)
      s1.modCtx c fun y => { y with stop := some stopped, resolving := some (t, f) }
    | none => (s.modCtx c fun y => { y with stop := some stopped }).post (s.recordOf x.pid resume f) (.ctxStopped x.pid)
  | _ => (s.modCtx c fun y => { y with stop := some stopped }).post (s.recordOf x.pid resume f) (.ctxStopped x.pid)

/-- Takes a fault f of context c whose resume point is resume (R326, R327): the one shared way in. A halted task's fault
is an error record and stops nothing (R163). A context already stopped keeps the fault for its next boundary, with the action in force
now. -/
def State.takeFault (s : State) (c : Nat) (resume : Nat) (f : FaultInfo) : State :=
  match s.ctx? c with
  | none => s
  | some x =>
    if x.halted then s.postEnded x.pid f
    else if x.stop.isSome then s.modCtx c fun y => { y with later := y.later ++ [s.keep x.pid resume f] }
    else s.stopFor c x resume (s.actionFor x.pid f.cls) f

/-- A context that stands at bundle pc and issues again takes the first fault that it kept, if any: a rolled-back one at its mark, any
other at pc (R326). -/
def State.takeLater (s : State) (c pc : Nat) : State :=
  match s.ctx? c with
  | none => s
  | some x =>
    match x.stop, x.later with
    | none, f :: fs =>
      let at_ := f.resume.getD pc
      let y := { x with later := fs, r := { x.r with pc := at_ } }
      (s.putCtx c y).stopFor c y at_ f.action f.info
    | _, _ => s

/-- Returns from a fault: the context issues again at bundle pc (R327, Table 25.5). A fault kept for its next boundary is
taken there at once. -/
def State.resumeAt (s : State) (c : Nat) (pc : Nat) : State :=
  (s.modCtx c fun x => { x with stop := none, resolving := none, r := { x.r with pc := pc } }).takeLater c pc

/-- Where a stopped context goes on: at its resume point; a later fault that rolled it back has put it at its mark (R317, R326). -/
def Ctx.resumePc (x : Ctx) (st : Stop) : Nat := if x.later.any fun f => f.resume.isSome then x.r.pc else st.resume

/-- A rebuilt task issues again at its resume point, once its record has been posted (R327, R355). One whose barge is suspended does so
when its barge resumes, and takes the faults kept for its next boundary then. -/
def State.resumeMember (s : State) (pid : Nat) : State :=
  match s.barge? (pid / 2 ^ 10), s.member? pid with
  | some b, some x =>
    match x.stop with
    | none => s
    | some st =>
      if b.save.isSome then s.modMember pid fun y => { y with stop := none, resolving := none, r := { y.r with pc := x.resumePc st } }
      else s.resumeAt (b.ctxs.getD (pid % 2 ^ 10) 0) (x.resumePc st)
  | _, _ => s

/-- What follows a posted record beyond its own marks: a task whose tensor has been rebuilt resumes. -/
def State.afterRecord (s : State) : PostThen → State
  | .ctxResumed pid => s.resumeMember pid
  | _ => s

/-- The rebuild that a task waits for under RESOLVE has ended (R327): with the tensor in RES_H the record is posted as an error
record and the context resumes; a failed rebuild acts as STOP. A context stays stopped until its record is posted (R355). -/
def State.resolved (s : State) (pid : Nat) (ok : Bool) : State :=
  match s.member? pid with
  | none => s
  | some x =>
    match x.resolving, x.stop with
    | some (_, f), some st =>
      let s1 := s.modMember pid fun y => { y with resolving := none }
      if ok then
        let s2 := s1.post (s.recordOf pid st.resume { f with flags := f.flags ||| flRecord }) (.ctxResumed pid)
        if s.hs.cwWait.isEmpty && !windowFull s.hs then s2.resumeMember pid else s2
      else s1.post (s.recordOf pid st.resume f) (.ctxStopped pid)
    | _, _ => s

/-- An imprecise fault: the context stops at its next boundary and resumes at the bundle that would have issued next. -/
def State.imprecise (s : State) (c : Nat) (f : FaultInfo) : State :=
  s.takeFault c (((s.ctx? c).map fun x => x.r.pc).getD 0) f

/-- An imprecise fault of a participant: one that has ended posts an error record (R163), and one that is suspended keeps the fault. -/
def State.impreciseMember (s : State) (pid : Nat) (f : FaultInfo) : State :=
  match s.barge? (pid / 2 ^ 10), s.member? pid with
  | some b, some x =>
    if b.st == .retired || x.halted then s.postEnded pid f
    else if b.save.isSome then s.modMember pid fun y => { y with later := y.later ++ [s.keep pid x.r.pc f] }
    else s.imprecise (b.ctxs.getD (pid % 2 ^ 10) 0) f
  | _, _ => s.postEnded pid f

/-- A sequencer fault (R143): the stream stops in FAULTED with its PC on the instruction, and the record is posted. POISON and GUEST are
marked precise (Table 21.6). -/
def State.streamFault (s : State) (sid : Nat) (cls code subcode value : Nat) : State :=
  match s.stream? sid with
  | none => s
  | some x =>
    (s.modStream sid fun y => { y with st := .faulted, wait := .none }).post
      (streamRecord sid x.pc { cls := cls, code := code, flags := flSequencer + (if cls = 11 ∨ cls = 12 then flPrecise else 0),
                               slot := 0xff, subcode := subcode,
                               bno := x.pc, value := value }) .nothing

/-! ### The agent that executes -/

/-- Runs the meaning of a trigger on the context that executes it. -/
def onTrigger (s : State) (f : Trig → Ctx → State) : Out :=
  match s.cur with
  | .trigger t =>
    match s.ctx? t.ctx with
    | some c => .next (f t c)
    | none => .refused .noAgent
  | _ => .refused .noAgent

/-- Runs the meaning of a stream instruction on the stream that executes it. -/
def onStream (s : State) (f : Nat → Stream → State) : Out :=
  match s.cur with
  | .stream sid =>
    match s.stream? sid with
    | some x => .next (f sid x)
    | none => .refused .noAgent
  | _ => .refused .noAgent

end Sys2Proof.Machine
end

