-- ==== Sys2Proof/Machine/Flags.lean ====
section
/-! DEFINITION. The format register (R28 to R31, R146, R147), completion flags (R80, R218, R236), predicates, and the checks of fmt at issue. -/
namespace Sys2Proof.Machine
open Sys2Proof

/-! ### Fields of fmt (Table 9.2) -/

/-- Bits [hi:lo] of a word. -/
def field (w : Word) (lo n : Nat) : Nat := w.toNat / 2 ^ lo % 2 ^ n

def fmtReset : Word := 0x00004011#32
def fmtA (f : Word) : Nat := field f 0 4
def fmtB (f : Word) : Nat := field f 4 4
def fmtDrain (f : Word) : Nat := field f 8 4
def fmtIwid (f : Word) : Nat := field f 12 2
def fmtSigned (f : Word) : Bool := f.getLsbD 14
def fmtSubst (f : Word) : Nat := field f 15 2
/-- Codebook index width in bits. -/
def fmtCbw (f : Word) : Nat := if f.getLsbD 17 then 8 else 4
def fmtCbmode (f : Word) : Nat := field f 18 2
def fmtCbank (f : Word) : Nat := field f 20 2
def fmtIzero (f : Word) : Bool := f.getLsbD 22
def fmtMxs (f : Word) : Bool := f.getLsbD 23
def fmtRnd (f : Word) : Nat := field f 24 3
def fmtFlush (f : Word) : Bool := f.getLsbD 27
def rndReserved (f : Word) : Bool := (Rnd.ofCode (fmtRnd f)).isNone
/-- The rounding mode; a reserved code faults before it is used (R31). -/
def fmtRound (f : Word) : Rnd := (Rnd.ofCode (fmtRnd f)).getD .rne
def fmtInt (f : Word) : IntFmt :=
  { w := if fmtIwid f = 0 then 8 else 4, signed := fmtSigned f, subst := fmtSubst f }

/-- R30: the permitted pairs of matrix formats. -/
def pairPermitted (a b : Nat) : Bool :=
  (a == 6 && b == 6) || ([5, 10].contains a && [5, 10].contains b) ||
  ([1, 2, 3, 4, 7, 8, 9].contains a && [1, 2, 3, 4, 7, 8, 9].contains b)

/-- Format 6 with a reserved width code (R31). -/
def intReserved (code : Nat) (f : Word) : Bool := code == 6 && 2 ≤ fmtIwid f

/-- Whether fmt is reserved for a matrix product (R31). -/
def matrixReserved (f : Word) : Bool :=
  !pairPermitted (fmtA f) (fmtB f) || intReserved (fmtA f) f

/-- Whether fmt is reserved for a drain (R31, R255): FP32 and MX drains do not round by fmt. -/
def drainReserved (f : Word) : Bool :=
  fmtDrain f == 7 || 11 ≤ fmtDrain f || intReserved (fmtDrain f) f ||
  (1 ≤ fmtDrain f && fmtDrain f ≤ 6 && rndReserved f)

/-- A write to fmt, or to the bits of a mask of it, issued in core cycle t: it holds from t + 4 on (R147). -/
def Regs.writeFmt (r : Regs) (t : Nat) (mask val : Word) : Regs :=
  { r with fmtPend := r.fmtPend ++ [{ due := t + 4, mask := mask, val := val }] }

/-- fmt with the writes of a list applied in order. -/
def applyFmt (f : Word) : List FmtWrite → Word
  | [] => f
  | w :: ws => applyFmt ((f &&& ~~~w.mask) ||| (w.val &&& w.mask)) ws

/-- The writes whose shadow has ended by a cycle take effect, in issue order. -/
def Regs.landFmt (r : Regs) (cyc : Nat) : Regs :=
  { r with fmt := applyFmt r.fmt (r.fmtPend.filter fun w => w.due ≤ cyc),
           fmtPend := r.fmtPend.filter fun w => cyc < w.due }

/-! ### Completion flags -/

def Regs.setFlag (r : Regs) (j : Nat) : Regs := { r with flags := r.flags ||| (1#8 <<< j) }
def Regs.clearFlag (r : Regs) (j : Nat) : Regs := { r with flags := r.flags &&& ~~~(1#8 <<< j) }
def Regs.setFlags (r : Regs) (m : BitVec 8) : Regs := { r with flags := r.flags ||| m }
def Regs.clearFlags (r : Regs) (m : BitVec 8) : Regs := { r with flags := r.flags &&& ~~~m }

/-- An engine sets a flag of a context. -/
def State.setFlag (s : State) (c j : Nat) : State := s.modRegs c (·.setFlag j)

/-! ### Predicates and guards (R63) -/

/-- p0 to p7; p0 always reads 1. -/
def Regs.pred (r : Regs) (j : Nat) : Bool := j == 0 || r.pr.getLsbD j
def Regs.setPred (r : Regs) (j : Nat) (b : Bool) : Regs :=
  { r with pr := if b then r.pr ||| (1#8 <<< j) else r.pr &&& ~~~(1#8 <<< j) }
/-- Whether a move with this guard code is active. -/
def Regs.active (r : Regs) (guard : Nat) : Bool :=
  if guard = 0 then true else if guard < 8 then r.pred guard else guard != 8 && !r.pred (guard - 8)

end Sys2Proof.Machine
end

