-- ==== Sys2Proof/Machine/Geometry.lean ====
section
/-! DEFINITION. Tensors as storage: element widths and sizes (R118), the layout unit's offsets (R333), the word image (R226), and
the value of an element by its format (R215). -/
namespace Sys2Proof.Machine
open Sys2Proof

/-- The width in bits of an element of a format code, with the width of integer elements and of codebook indices. -/
def elemWidth (code wInt wCb : Nat) : Nat :=
  match code with
  | 0 => 32
  | 1 | 2 => 16
  | 6 => wInt
  | 7 => wCb
  | _ => 8

def isMx (code : Nat) : Bool := 8 ≤ code && code ≤ 10
/-- The plain format of an MX format: 8, 9, 10 become 3, 4, 5 (Table 3.4). -/
def mxPlain (code : Nat) : Nat := code - 5

/-- ⌈n/m⌉. -/
def ceilDiv (n m : Nat) : Nat := (n + m - 1) / m
def roundUp (n m : Nat) : Nat := ceilDiv n m * m

/-- The width byte of a record (R109). -/
def Rec.width (r : Rec) : Nat :=
  let w := if r.intByte.getLsbD 1 then 4 else 8
  elemWidth r.fmt w w
/-- The integer format of the tensor side: substitute field 0 (R215). -/
def Rec.intFmt (r : Rec) : IntFmt := { w := if r.intByte.getLsbD 1 then 4 else 8, signed := r.intByte.getLsbD 0, subst := 0 }
def Rec.ver (r : Rec) : Bool := r.attrs.getLsbD 0
def Rec.msa (r : Rec) : Bool := r.attrs.getLsbD 1
def Rec.ro (r : Rec) : Bool := r.attrs.getLsbD 2
def Rec.replOk (r : Rec) : Bool := r.attrs.getLsbD 3

def Rec.elems (r : Rec) : Nat := r.d0 * r.d1 * r.d2 * r.d3
/-- Rows of the two-dimensional view (R213). -/
def Rec.rows (r : Rec) : Nat := r.d1 * r.d2 * r.d3

/-- Storage bytes of a shape before rounding to pages (R118). -/
def storageBytes (d0 d1 d2 d3 fmt width : Nat) (linear : Bool) : Nat :=
  let n := if linear then d0 * d1 * d2 * d3 else roundUp d0 32 * roundUp d1 32 * d2 * d3
  ceilDiv (n * width) 8 + (if isMx fmt then ceilDiv n 32 else 0)

def Rec.bytes (r : Rec) : Nat := storageBytes r.d0 r.d1 r.d2 r.d3 r.fmt r.width r.linear
def pageBytes : Nat := 2 ^ 16
def Rec.sizeBytes (r : Rec) : Nat := r.pages * pageBytes

/-- The block and the place in it of the element at a row and column of the view (R333). -/
def Rec.block (r : Rec) (row col : Nat) : Nat × Nat :=
  let r1 := roundUp r.d1 32
  let row' := row / r.d1 * r1 + row % r.d1
  (row' / 32 * (roundUp r.d0 32 / 32) + col / 32, 32 * (row' % 32) + col % 32)

/-- The bit of storage at which an element starts (R333). -/
def Rec.elemBit (r : Rec) (row col : Nat) : Nat :=
  if r.linear then (row * r.d0 + col) * r.width
  else
    let p := r.block row col
    let b := 128 * r.width + (if isMx r.fmt then 32 else 0)
    8 * b * p.1 + p.2 * r.width

/-- The byte of storage that holds an element's scale (R333). -/
def Rec.scaleByte (r : Rec) (row col : Nat) : Nat :=
  if r.linear then r.elems + (row * r.d0 + col) / 32
  else
    let p := r.block row col
    128 * r.width * (p.1 + 1) + 32 * p.1 + p.2 / 32

/-- Whether a place of the view lies in the tensor; places outside read as the pad (R216). -/
def Rec.inside (r : Rec) (row col : Nat) : Bool := col < r.d0 && row < r.rows

/-- The value of an element's bits in a format, with the integer format that applies (R215). -/
def elemValue (code : Nat) (i : IntFmt) (bits : Nat) : FV :=
  match code with
  | 0 => fp32.decode bits
  | 1 => bf16.decode bits
  | 2 => fp16.decode bits
  | 3 => e4m3.decode bits
  | 4 => e5m2.decode bits
  | 5 => lnsDecode bits
  | 6 => FV.ofInt (i.decode bits)
  | _ => FV.ofInt bits

/-- The bits of a value converted to a format by R46. -/
def elemBits (code : Nat) (i : IntFmt) (mode : Rnd) (x : FV) : Nat :=
  match code with
  | 0 => fp32.encode mode true x
  | 1 => bf16.encode mode true x
  | 2 => fp16.encode mode true x
  | 3 => e4m3.encode mode true x
  | 4 => e5m2.encode mode true x
  | 5 => lnsEncode mode x
  | _ => i.encode mode x

/-- The value of an MX element under its scale, or of a plain element (R43, R215). -/
def elemValueScaled (code : Nat) (i : IntFmt) (scale bits : Nat) : FV :=
  if isMx code then mxDecode (mxPlain code) scale bits else elemValue code i bits

/-! ### Keys of tensors -/

/-- The key of byte off of the storage of tensor t. -/
def storeAddr (t off : Nat) : Nat := t * 2 ^ 45 + off
def storeTensor (a : Nat) : Nat := a / 2 ^ 45
def storeOff (a : Nat) : Nat := a % 2 ^ 45
/-- The 256-byte line of a storage address. -/
def lineOf (a : Nat) : Nat := a / 256

/-- Element bits into the bytes of tensor storage, over what the bytes hold. -/
def putBits (old : Nat → Byte) (m : Map Byte) (bit width v : Nat) : Map Byte :=
  if width < 8 then
    let a := bit / 8
    let o := (Map.get m a (old a)).toNat
    let sh := bit % 8
    m.put a (BitVec.ofNat 8 (o - o / 2 ^ sh % 2 ^ width * 2 ^ sh + v % 2 ^ width * 2 ^ sh))
  else (List.range (width / 8)).foldl (fun q i => q.put (bit / 8 + i) (BitVec.ofNat 8 (v / 2 ^ (8 * i)))) m

end Sys2Proof.Machine
end

