-- ==== Sys2Proof/Machine/Compress.lean ====
section
/-! DEFINITION. The lossless granule encodings of Table 23.1 (R337). -/
namespace Sys2Proof.Machine
open Sys2Proof

/-- Splits bytes into little-endian numbers of k bytes. -/
def groups (k : Nat) : Nat → List Byte → List Nat
  | 0, _ => []
  | n + 1, bs => leNat (bs.take k) :: groups k n (bs.drop k)

/-- x − y mod 2^w, read as signed. -/
def signedDiff (w x y : Nat) : Int := (BitVec.ofNat w (x + 2 ^ w - y % 2 ^ w)).toInt

/-- Whether every difference from the first of the numbers fits k bits. -/
def fits (w k : Nat) (xs : List Nat) : Bool :=
  xs.all fun x => let d := signedDiff w x (xs.headD 0); decide (-(2 ^ (k - 1) : Int) ≤ d) && decide (d < 2 ^ (k - 1))

/-- The first encoding of Table 23.1, in its order of trial, that reproduces a granule of 128 bytes. -/
def granuleTag (g : List Byte) : Nat :=
  let w := groups 8 16 g
  let u := groups 4 32 g
  if g.all (fun b => b == 0) then 1
  else if w.all (fun x => x == w.headD 0) then 2
  else if fits 64 8 w then 3
  else if fits 32 8 u then 5
  else if fits 64 16 w then 4
  else 0

def tagSize : Nat → Nat
  | 1 => 0
  | 2 => 8
  | 3 => 24
  | 5 => 36
  | 4 => 40
  | _ => 128

/-- First number of k bytes, then a difference of j bytes for each. -/
def deltaBytes (k j : Nat) (xs : List Nat) : List Byte :=
  leBytes k (xs.headD 0) ++ xs.flatMap fun x => leBytes j (BitVec.ofInt (8 * j) (signedDiff (8 * k) x (xs.headD 0))).toNat

/-- The stored bytes of a granule under its tag. -/
def granuleBytes (tag : Nat) (g : List Byte) : List Byte :=
  match tag with
  | 1 => []
  | 2 => g.take 8
  | 3 => deltaBytes 8 1 (groups 8 16 g)
  | 5 => deltaBytes 4 1 (groups 4 32 g)
  | 4 => deltaBytes 8 2 (groups 8 16 g)
  | _ => g

/-- Undoes deltaBytes for n numbers. -/
def undelta (k j n : Nat) (bs : List Byte) : List Byte :=
  let base := leNat (bs.take k)
  (groups j n (bs.drop k)).flatMap fun d =>
    leBytes k (BitVec.ofInt (8 * k) ((base : Int) + (BitVec.ofNat (8 * j) d).toInt)).toNat

/-- The granule that stored bytes decode to, and whether the tag is one the base die never writes. -/
def granuleDecode (tag : Nat) (bs : List Byte) : List Byte × Bool :=
  match tag with
  | 0 => (bs, false)
  | 1 => (List.replicate 128 0, false)
  | 2 => ((List.replicate 16 (bs.take 8)).flatten, false)
  | 3 => (undelta 8 1 16 bs, false)
  | 5 => (undelta 4 1 32 bs, false)
  | 4 => (undelta 8 2 16 bs, false)
  | _ => (List.replicate 128 0, true)

end Sys2Proof.Machine
end

