-- ==== Sys2Proof/Machine/Operands.lean ====
section
/-! DEFINITION. Every source and destination of a move (Tables 5.2 to 5.6, Table 1.6), operand and result ports, and the
delivery of results: exposed (R77) and interlocked (R78). -/
namespace Sys2Proof.Machine
open Sys2Proof

/-! ### Port numbers: the place in Table 5.4 and in Table 5.3 -/

def oSmO : Nat := 4
def oSmO2 : Nat := 5
def oBrO : Nat := 8
def oBrO2 : Nat := 9
def oMxO : Nat := 10
def oRwO : Nat := 11
def oRwO2 : Nat := 12
def oTxH : Nat := 13
def oTxH2 : Nat := 14
def oTxC : Nat := 15
def oTxC2 : Nat := 16
def oTxS : Nat := 17
def oTxF : Nat := 18
def oLsO : Nat := 19
def oLsO2 : Nat := 20
def oVfO : Nat := 21
def oVfO2 : Nat := 22
def oVxO : Nat := 23
def oVxO2 : Nat := 24
def oGvO : Nat := 25
def oGvO2 : Nat := 26
def oGvO3 : Nat := 27
def oBnO : Nat := 28
def oSyO : Nat := 29
def oGqO : Nat := 30

def qSm : Nat := 2
def qSmH : Nat := 3
def qBr : Nat := 6
def qMx : Nat := 7
def qRw : Nat := 8
def qTx : Nat := 9
def qLs : Nat := 10
def qVf : Nat := 11
def qVx : Nat := 12
def qVxS : Nat := 13
def qGv : Nat := 14
def qGvV : Nat := 15
def qBn : Nat := 16
def qSy : Nat := 17
def qGq : Nat := 18

def Ctx.port (x : Ctx) (i : Nat) : PV := vget x.r.opnd i PV.zero
/-- The word in an operand port. -/
def Ctx.portW (x : Ctx) (i : Nat) : Word := (x.port i).scalar

/-! ### Registers by name (R145) -/

def Regs.sIndex (r : Regs) (i : Nat) : Nat := if i < 32 then i else 32 + (i - 32 + r.rbs.toNat) % 32
def Regs.vIndex (r : Regs) (i : Nat) : Nat := if i < 16 then i else 16 + (i - 16 + r.rbv.toNat) % 16

def PW.toPV (x : PW) : PV := PV.ofWord x.val x.poi
/-- A value as a scalar: lane 0 and its mark. -/
def PV.toPW (x : PV) : PW := { val := x.scalar, poi := x.poi.getLsbD 0 }
/-- A scalar broadcast to all lanes (Table 5.6). -/
def PW.broadcast (x : PW) : PV := PV.ofVec (Vec.ofLanes fun _ => x.val) x.poi

/-- An address register of file 0 to 3, for a, n, b and k. -/
def Regs.addr (r : Regs) (file j : Nat) : PW :=
  match file with
  | 0 => vget r.ar j PW.zero
  | 1 => vget r.nr j PW.zero
  | 2 => vget r.br j PW.zero
  | _ => vget r.kr j PW.zero

def Regs.setAddr (r : Regs) (file j : Nat) (x : PW) : Regs :=
  match file with
  | 0 => { r with ar := vset r.ar j x }
  | 1 => { r with nr := vset r.nr j x }
  | 2 => { r with br := vset r.br j x }
  | _ => { r with kr := vset r.kr j x }

/-- The set j of R154. -/
def Regs.agSet (r : Regs) (j : Nat) : AgSet := { a := r.addr 0 j, n := r.addr 1 j, b := r.addr 2 j, k := r.addr 3 j }

/-- The vector whose lane j holds j. -/
def laneIds : Vec := Vec.ofLanes fun j => BitVec.ofNat 32 j

/-- Identity and special sources (Table 1.6): code 0xe0 + i. -/
def State.identity (s : State) (c bno i : Nat) : PV :=
  let core := coreOf c
  let num (n : Nat) : PV := PV.ofWord (BitVec.ofNat 32 n) false
  match i with
  | 0 => num (((s.ctx? c).map (·.task)).getD 0)
  | 1 => num (coreIdx core)
  | 2 => num (coreIdx core / 4)
  | 3 => num (clusterOf core)
  | 4 => num (s.dieOf c)
  | 5 => { val := laneIds, poi := 0 }
  | 6 => num (s.core core).cyc
  | 7 => PV.ofWord (((s.ctx? c).map (·.r.fmt)).getD 0) false
  | 8 => num (((s.ctx? c).map (·.r.flags.toNat)).getD 0)
  | 9 => num bno
  | 10 => num 0
  | 11 => num (((s.bargeOf c).map (·.g)).getD 0)
  | 12 => num (((s.opOf c).map (·.gridG)).getD 0)
  | 13 => num (((s.bargeOf c).map (·.ctxs.length)).getD 0)
  | _ => num (hctxOf c)

/-- The value of a source code for a bundle of context c (Table 5.2). A stream source reads the element that a pop takes;
a sluice view is given by view. -/
def State.source (s : State) (c : Nat) (x : Ctx) (bno : Nat) (lits : List Word) (view : Nat → PV) (src : Nat) : PV :=
  let r := x.r
  if src < 0x40 then (vget r.sr (r.sIndex src) PW.zero).toPV
  else if src < 0x60 then vget r.vr (r.vIndex (src - 0x40)) PV.zero
  else if src < 0xa0 then (r.addr ((src - 0x60) / 16) (src % 16)).toPV
  else if src < 0xa8 then PV.ofWord (if r.pred (src - 0xa0) then 1 else 0) false
  else if src < 0xac then (((vget r.binds (src - 0xa8) none).bind fun b => b.buf.head?).map (·.val)).getD PV.zero
  else if src < 0xc3 then vget r.res (src - 0xb0) PV.zero
  else if src < 0xef then s.identity c bno (src - 0xe0)
  else if src < 0x108 then PV.ofWord (lits.getD (src - 0x100) 0) false
  else if src < 0x200 then view src
  else PV.ofWord (BitVec.ofInt 32 ((src : Int) - 0x300)) false

/-- The width class of a source at issue: a stream port has that of its binding (R70). -/
def Ctx.sourceVec (x : Ctx) (src : Nat) : Bool :=
  match srcWidth 7 src with
  | some .v => true
  | some .port => ((vget x.r.binds (src - 0xa8) none).map (·.wide)).getD false
  | _ => false

def Ctx.destVec (x : Ctx) (dst : Nat) : Bool :=
  match dstWidth dst with
  | some .v => true
  | some .port => ((vget x.r.binds (dst - 0xa8 + 4) none).map (·.wide)).getD false
  | _ => false

/-- The conversions of Table 5.6 between the width classes of a source and a destination. -/
def convertWidth (srcVec dstVec : Bool) (v : PV) : PV :=
  if srcVec == dstVec then v else if dstVec then v.toPW.broadcast else v.toPW.toPV

/-- A plain destination write (Table 5.5): registers, predicates, operand ports. Pushes and triggers are not written here. -/
def Regs.writeDest (r : Regs) (dst : Nat) (v : PV) : Regs :=
  if dst < 0x40 then { r with sr := vset r.sr (r.sIndex dst) v.toPW }
  else if dst < 0x60 then { r with vr := vset r.vr (r.vIndex (dst - 0x40)) v }
  else if dst < 0xa0 then r.setAddr ((dst - 0x60) / 16) (dst % 16) v.toPW
  else if dst < 0xa8 then r.setPred (dst - 0xa0) (v.scalar.getLsbD 0)
  else if dst < 0xb0 then r
  else if dst < 0xcf then { r with opnd := vset r.opnd (dst - 0xb0) v }
  else r

/-! ### Results -/

/-- An exposed result of the trigger t with latency l (R77): read by bundles that issue in cycle t.cyc + l or later. -/
def State.expose (s : State) (t : Trig) (port l : Nat) (v : PV) : State :=
  s.modCtx t.ctx fun x => { x with flights := x.flights ++ [{ port := port, val := v, due := t.cyc + l }] }

/-- Writes the results that are due, in trigger order. -/
def landFlights (cyc : Nat) : List Flight → Regs → Regs
  | [], r => r
  | f :: fs, r => landFlights cyc fs (if f.due ≤ cyc then { r with res := vset r.res f.port f.val } else r)

def Ctx.land (x : Ctx) (cyc : Nat) : Ctx :=
  { x with r := landFlights cyc x.flights x.r, flights := x.flights.filter fun f => cyc < f.due }

/-- Marks a result port pending for the ticket of an interlocked trigger (R78). -/
def State.pendPort (s : State) (c port id : Nat) : State :=
  s.modRegs c fun r => { r with pend := vset r.pend port (some id) }

/-- An interlocked result reaches its port. DESIGN CHOICE (log entry 129): a result that arrives after a later trigger has marked the port is
not written; the port receives that trigger's result. -/
def Regs.deliver (r : Regs) (port id : Nat) (v : PV) : Regs :=
  if vget r.pend port none = some id then { r with res := vset r.res port v, pend := vset r.pend port none } else r

/-- The result of an interlocked trigger arrives: the mark of its own ticket clears (R78). A port that the last mark
recorded as pending for it receives it there too (R317). -/
def Ctx.deliver (x : Ctx) (port id : Nat) (v : PV) : Ctx :=
  { x with r := x.r.deliver port id v, shadow := x.shadow.map fun p => (p.1.deliver port id v, p.2) }

def State.deliver (s : State) (c port id : Nat) (v : PV) : State := s.modCtx c fun x => x.deliver port id v

/-- A scalar result, poisoned when an operand is (Table 27.1). -/
def scalarOut (w : Word) (ops : List PV) : PV := PV.ofWord w (ops.any PV.bad)
def vectorOut (v : Vec) (ops : List PV) : PV := PV.ofVec v (ops.any PV.bad)

/-! ### What an issue check finds (R85, R86) -/

/-- A failing check of a trigger: the fault class and code, its subcode and its operand. -/
structure Fail where
  cls : Nat
  code : Nat
  subcode : Nat
  value : Nat
  deriving DecidableEq, Repr

def illTrig (v : Nat) : Fail := { cls := 1, code := 0x13, subcode := 0, value := v }
def fmtFail (f : Word) : Fail := { cls := 1, code := 0x19, subcode := 0, value := f.toNat }
def failIf (b : Bool) (f : Fail) : Option Fail := if b then some f else none

def Fail.info (f : Fail) (slot bno : Nat) : FaultInfo :=
  { cls := f.cls, code := f.code, flags := flPrecise, slot := slot, subcode := f.subcode, bno := bno, value := f.value }

/-- Takes a precise fault of a trigger: the context resumes at the trigger's bundle (R326). -/
def State.preciseFault (s : State) (t : Trig) (f : Fail) : State := s.takeFault t.ctx t.bno (f.info t.slot t.bno)

/-- Runs a trigger's effect, or takes the fault its check finds. -/
def checked (s : State) (chk : State → Trig → Ctx → Option Fail) (f : Trig → Ctx → State) : Out :=
  onTrigger s fun t x => match chk s t x with
    | some e => s.preciseFault t e
    | none => f t x

/-- An imprecise fault's record: the bundle number and slot of the trigger (R326). -/
def laterFault (cls code value slot bno : Nat) : FaultInfo :=
  { cls := cls, code := code, flags := 0, slot := slot, subcode := 0, bno := bno, value := value }

end Sys2Proof.Machine
end

