-- ==== Sys2Proof/Machine/Homes.lean ====
section
/-! DEFINITION. Translation tables and frames (R319, R320, R342), L2 homes with dirty masks (R329, R330), compressed storage
(R337 to R340), access counters (R341): what a byte of tensor storage holds at its home, and how it changes there. -/
namespace Sys2Proof.Machine
open Sys2Proof

/-! ### Table entries (Table 21.3) -/

def pteV (e : DWord) : Bool := e.getLsbD 0
def pteLeaf (e : DWord) : Bool := e.getLsbD 1
def pteW (e : DWord) : Bool := e.getLsbD 2
def pteRo (e : DWord) : Bool := e.getLsbD 3
def pteVer (e : DWord) : Bool := e.getLsbD 4
def pteMsa (e : DWord) : Bool := e.getLsbD 5
def pteC (e : DWord) : Bool := e.getLsbD 6
def pteD (e : DWord) : Bool := e.getLsbD 7
def pteTgt (e : DWord) : Nat := (e.extractLsb' 59 5).toNat
def ptePa (e : DWord) : Nat := (e.extractLsb' 16 32).toNat * 2 ^ 16

def bitIf (b : Bool) (n : Nat) : Nat := if b then 2 ^ n else 0

/-- A present leaf of 64 KiB for a page at pa of a target, with a record's attributes (R320). -/
def leafOf (tgt pa : Nat) (r : Rec) (w c : Bool) : DWord :=
  BitVec.ofNat 64 (tgt * 2 ^ 59 + pa / 2 ^ 16 % 2 ^ 32 * 2 ^ 16 + bitIf c 6 + bitIf r.msa 5 + bitIf r.ver 4 + bitIf r.ro 3 +
    bitIf w 2 + 3)

/-- The key of the entry of level 1 to 3 that covers an offset of tensor t (Table 21.2). -/
def levelShift : Nat → Nat
  | 1 => 29
  | 2 => 21
  | _ => 16
def pteKey (t level off : Nat) : Nat := (t * 4 + level) * 2 ^ 29 + off / 2 ^ levelShift level

/-- The leaf that maps an offset, with the shift of its page size; none when V = 0 at some level. -/
def walkTables (m : Map DWord) (t off : Nat) : Option (DWord × Nat) :=
  let e1 := m.get (pteKey t 1 off) 0
  let e2 := m.get (pteKey t 2 off) 0
  let e3 := m.get (pteKey t 3 off) 0
  if !pteV e1 then none
  else if pteLeaf e1 then some (e1, 29)
  else if !pteV e2 then none
  else if pteLeaf e2 then some (e2, 21)
  else if pteV e3 then some (e3, 16) else none

/-- The leaf in 64 KiB terms: the address of the page that holds the offset, with a larger leaf's low bits ignored. -/
def leafAddr (leaf : DWord) (shift off : Nat) : Nat :=
  devBase + pteTgt leaf * 2 ^ 48 + ptePa leaf / 2 ^ shift * 2 ^ shift + off % 2 ^ shift

def State.table (s : State) (p : Nat) : Map DWord := vget s.ms.tables p []
/-- The leaf of an offset in the replica of stack p. -/
def State.leaf? (s : State) (p t off : Nat) : Option (DWord × Nat) := walkTables (s.table p) t off

/-- The stack whose L2 is home to a tensor (R330). -/
def State.homeStack (s : State) (t : Nat) : Nat := (s.stackOfDie (t / 2 ^ 20)).getD 0
/-- The leaf by which a home finds an offset: while an update stands between its first replica and its last, that of any replica which
holds one, since an agent of that die may have translated through it (R357). -/
def State.homeLeaf? (s : State) (t off : Nat) : Option (DWord × Nat) := (List.range 8).findSome? fun p => s.leaf? p t off
/-- Where a byte of tensor storage lies in device memory. -/
def State.place? (s : State) (t off : Nat) : Option Nat := (s.homeLeaf? t off).map fun l => leafAddr l.1 l.2 off

/-- What a walk of replica p finds: the segment table names the tensor's level-1 table and its entry count (R319), and an entry that its
protection gave up reads as not present there (R372). -/
def State.walked (s : State) (p t off : Nat) : Option (DWord × Nat) :=
  match (vget s.ms.segs p []).find t with
  | some (_, n) => if off / 2 ^ 29 < n then walkTables ((s.table p).filter fun e => !s.ms.broken.contains (p, e.1)) t off else none
  | none => none

/-- Writes an entry into the replica of stack p. -/
def State.setPteAt (s : State) (p key : Nat) (e : DWord) : State :=
  { s with ms := { s.ms with tables := vset s.ms.tables p ((s.table p).set key e 0),
                             broken := s.ms.broken.filter fun b => b != (p, key) } }
/-- Writes an entry into all eight replicas, in ascending stack order (R323). -/
def State.setPte (s : State) (key : Nat) (e : DWord) : State := (List.range 8).foldl (fun u p => u.setPteAt p key e) s

/-- A table entry of stack p that points to table n, in the stack's own HBM: present, no leaf (R319, R320, log entry 98). -/
def pteTable (p n : Nat) : DWord := BitVec.ofNat 64 (2 * p * 2 ^ 59 + n % 2 ^ 32 * 2 ^ 16 + 1)

/-- Writes the entry of a new lower table into the replica of stack p. -/
def State.setTableAt (s : State) (p key : Nat) : State :=
  let s1 := s.setPteAt p key (pteTable p s.ms.nextTable)
  { s1 with ms := { s1.ms with nextTable := s.ms.nextTable + 1 } }

/-- Enters a tensor of some size in the segment tables: the base of its level-1 table and the table's entry count (R319). -/
def State.setSegment (s : State) (t bytes : Nat) : State :=
  { s with ms := { s.ms with segs := s.ms.segs.map fun m => m.put t (s.ms.nextTable, ceilDiv bytes (2 ^ 29)),
                             nextTable := s.ms.nextTable + 1 } }
def State.dropSegment (s : State) (t : Nat) : State := { s with ms := { s.ms with segs := s.ms.segs.map fun m => m.erase t } }

/-- The n entries of a lower level that map an old leaf's range in the smaller page size, with its target, attributes and D
(R323). -/
def splinterEntries (leaf : DWord) (fromShift toShift n : Nat) : List DWord :=
  (List.range n).map fun i =>
    let pa := ptePa leaf / 2 ^ fromShift * 2 ^ fromShift + i * 2 ^ toShift
    BitVec.ofNat 64 (pteTgt leaf * 2 ^ 59 + pa / 2 ^ 16 % 2 ^ 32 * 2 ^ 16 + leaf.toNat % 2 ^ 8)

def State.setPtesAt (s : State) (p key : Nat) : List DWord → State
  | [] => s
  | e :: es => (s.setPteAt p key e).setPtesAt p (key + 1) es

/-- Splinters the leaf of a level that covers an offset in the replica of stack p, building the complete lower table first. -/
def State.splinterAt (s : State) (p t level off : Nat) : State :=
  let e := (s.table p).get (pteKey t level off) 0
  if pteV e && pteLeaf e then
    let n := 2 ^ (levelShift level - levelShift (level + 1))
    let base := off / 2 ^ levelShift level * 2 ^ levelShift level
    (s.setPtesAt p (pteKey t (level + 1) base) (splinterEntries e (levelShift level) (levelShift (level + 1)) n)).setTableAt
      p (pteKey t level off)
  else if pteV e then s else s.setTableAt p (pteKey t level off)

/-- Writes the entry of one 64 KiB page of a tensor in the replica of stack p, splintering a larger leaf that covers it. -/
def State.setLeafAt (s : State) (p t page : Nat) (e : DWord) : State :=
  let off := page * pageBytes
  ((s.splinterAt p t 1 off).splinterAt p t 2 off).setPteAt p (pteKey t 3 off) e

/-- Writes the entry of one page in all eight replicas, in ascending stack order (R323). -/
def State.setLeaf (s : State) (t page : Nat) (e : DWord) : State := (List.range 8).foldl (fun u p => u.setLeafAt p t page e) s

/-! ### Frames (R11, R342) -/

/-- The pages of a tensor's version store: 4 bytes for each 256-byte line (R332). -/
def Rec.versionPages (r : Rec) : Nat := if r.ver then ceilDiv r.pages 64 else 0

/-- A frame's number is 2^20 times its HBM stack plus its place; its channel is its place mod 16 (R334). -/
def frameAddr (f : Nat) : Nat := devBase + f / 2 ^ 20 * 2 ^ 48 + f % 2 ^ 20 * 2 ^ 16
def frameChannel (f : Nat) : Nat := f / 2 ^ 20 * 16 + f % 16

/-- The heat class of a channel of a die's two stacks (Table 23.2). -/
def heatOf (r : DieRegs) (ch : Nat) : Nat := (r.heat.toNat / 2 ^ (32 * (ch / 16 % 2) + 2 * (ch % 16))) % 4

def usedIn (used : List Nat) (ch : Nat) : Nat := (used.filter fun f => frameChannel f == ch).length

/-- The lowest frame of a channel, from place k of it, that is not used. -/
def lowestFrame (used : List Nat) (ch : Nat) : Nat → Nat → Nat
  | 0, k => ch / 16 * 2 ^ 20 + 16 * k + ch % 16
  | fuel + 1, k =>
    let f := ch / 16 * 2 ^ 20 + 16 * k + ch % 16
    if used.contains f then lowestFrame used ch fuel (k + 1) else f

/-- The better channel of two by R342: the lower class, then the fewer used frames; the first on a tie. -/
def betterChannel (r : DieRegs) (used : List Nat) (a b : Nat) : Nat :=
  if heatOf r b < heatOf r a ∨ (heatOf r b = heatOf r a ∧ usedIn used b < usedIn used a) then b else a

/-- Whether a channel has a fenced pseudo-channel, so that its frames are withdrawn (Table 27.3). A page of 64 KiB lies in all four
pseudo-channels of its channel (R334). -/
def State.channelOut (s : State) (ch : Nat) : Bool := s.pkg.fencedChannels.any fun i => i / 4 == ch

/-- Free H pages of a die: its free frames, less the version stores of the VER tensors that it is home to (R332). -/
def State.freeH (s : State) (v : Nat) : Nat :=
  match s.stackOfDie v with
  | none => 0
  | some p =>
    let chs := ((List.range 32).map fun i => 32 * p + i).filter fun ch => !s.channelOut ch
    sumNats (chs.map fun ch => Config.framesPerStack / 16 - usedIn s.ms.frames ch) -
      sumNats (s.sq.recs.map fun q => if q.1 / 2 ^ 20 = v ∧ q.2.stored then q.2.versionPages else 0)

/-- The frame that the allocator of a die takes next, among channels of a class at most maxClass. -/
def State.nextFrame (s : State) (v maxClass : Nat) : Option Nat :=
  match s.stackOfDie v with
  | none => none
  | some p =>
    if s.freeH v = 0 then none else
    let used := s.ms.frames
    let r := s.die v
    let open_ := ((List.range 32).map fun i => 32 * p + i).filter fun ch =>
      !s.channelOut ch && usedIn used ch < Config.framesPerStack / 16 && heatOf r ch ≤ maxClass
    match open_ with
    | [] => none
    | ch :: chs => some (let c := chs.foldl (betterChannel r used) ch; lowestFrame used c (usedIn used c + 1) 0)

/-- Zero-fills n bytes from an address. -/
def State.zeroFill (s : State) (a n : Nat) : State :=
  { s with mem := s.mem.filter fun c => !(a ≤ c.1 && c.1 < a + n),
           memPoi := s.memPoi.filter fun c => !(markOf a ≤ c.1 && c.1 < markOf (a + n)) }

/-- Takes one frame of a die, zero-filled. -/
def State.takeFrame (s : State) (v maxClass : Nat) : Option (Nat × State) :=
  (s.nextFrame v maxClass).map fun f =>
    (f, { s with ms := { s.ms with frames := f :: s.ms.frames } }.zeroFill (frameAddr f) pageBytes)

def State.dropFrame (s : State) (f : Nat) : State := { s with ms := { s.ms with frames := s.ms.frames.erase f } }

/-- The frame of a device address in HBM. -/
def frameOfAddr (a : Nat) : Nat := (a - devBase) / 2 ^ 48 * 2 ^ 20 + (a - devBase) % 2 ^ 48 / 2 ^ 16

/-- The lowest free page of tier L, from page k. -/
def lowestPage (used : List Nat) (out : Nat → Bool) : Nat → Nat → Option Nat
  | 0, _ => none
  | fuel + 1, k => if out k || used.contains k then lowestPage used out fuel (k + 1) else some k

/-- The first page of tier L and the pages of a present expander (R343). -/
def State.expanderPages (s : State) (port : Nat) : Nat := (vget s.pkg.expanders port 0) / 2 ^ 21 * 32
def State.expanderFirst (s : State) (port : Nat) : Nat := Config.lpddrPages + sumNats ((List.range port).map s.expanderPages)

/-- Pages of tier L: the module's LPDDR6, then each present expander in port order (R343). -/
def State.tlSize (s : State) : Nat := min (2 ^ 29) (s.expanderFirst 4)

/-- Whether a page of tier L lies in a fenced expander's range. -/
def State.tlOut (s : State) (k : Nat) : Bool :=
  s.pkg.fencedExpanders.any fun e => s.expanderFirst e ≤ k && k < s.expanderFirst e + s.expanderPages e
def State.freeL (s : State) : Nat :=
  s.tlSize - sumNats (s.pkg.fencedExpanders.map fun e => min (s.tlSize - s.expanderFirst e) (s.expanderPages e)) - s.ms.tlPages.length

def State.takeTl (s : State) : Option (Nat × State) :=
  (lowestPage s.ms.tlPages s.tlOut s.tlSize 0).bind fun k =>
    if s.tlSize ≤ k then none
    else some (k, { s with ms := { s.ms with tlPages := k :: s.ms.tlPages } }.zeroFill (devBase + 16 * 2 ^ 48 + k * pageBytes) pageBytes)

def State.dropTl (s : State) (k : Nat) : State := { s with ms := { s.ms with tlPages := s.ms.tlPages.erase k } }

/-- Releases whatever page a leaf maps. -/
def State.releaseLeaf (s : State) (leaf : DWord) : State :=
  if pteTgt leaf = 16 then s.dropTl (ptePa leaf / pageBytes) else s.dropFrame (pteTgt leaf * 2 ^ 20 + ptePa leaf / pageBytes)

/-! ### Paths (R344, R378) -/

/-- The mesh links on the route from stack p to stack q (R344): along p's row to q's column, then along that column. Link 3r + c joins
columns c and c + 1 of row r, and link 6 + c the rows of column c (log entry 42). -/
def meshRoute (p q : Nat) : List Nat :=
  let lo := min (p % 4) (q % 4)
  let hi := max (p % 4) (q % 4)
  (List.range (hi - lo)).map (fun i => p / 4 * 3 + lo + i) ++ (if p / 4 = q / 4 then [] else [6 + q % 4])

/-- Whether no failed link lies between two virtual dies. -/
def State.pathUp (s : State) (v w : Nat) : Bool :=
  match s.stackOfDie v, s.stackOfDie w with
  | some p, some q => (meshRoute p q ++ meshRoute q p).all fun l => !s.pkg.deadLinks.contains l
  | _, _ => true

/-- Whether no failed link lies between the stack of a virtual die and the I/O die: along the stack's row to column 0, and there onto
the path of the row, link 10 + r (R344, log entry 42). -/
def State.ioPathUp (s : State) (v : Nat) : Bool :=
  match s.stackOfDie v with
  | some p => ((10 + p / 4) :: meshRoute p (p / 4 * 4)).all fun l => !s.pkg.deadLinks.contains l
  | none => true

/-- Whether a tensor has a page in tier L. -/
def State.onTierL (s : State) (t : Nat) : Bool :=
  match s.rec? t with
  | some r => r.stored && (List.range r.pages).any fun k => ((s.homeLeaf? t (k * pageBytes)).map fun l => pteTgt l.1 == 16).getD false
  | none => false

/-- Whether requests of a die reach a tensor: to its home, and from there to tier L where it has pages there. -/
def State.reaches (s : State) (v t : Nat) : Bool :=
  s.pathUp v (t / 2 ^ 20) && (s.pkg.deadLinks.isEmpty || !s.onTierL t || s.ioPathUp (t / 2 ^ 20))

/-! ### Retried requests (R335) -/

/-- The retried requests that have not been performed, in the order in which they were retried. -/
def State.retrying (s : State) : List Retry :=
  s.ms.retries.filter fun r => (s.wk.gv.any fun o => o.id == r.id) || (s.wk.tiles.any fun k => k.id == r.id) ||
    (s.ms.held.any fun h => h.id == r.id) || s.ctxs.any fun e => e.2.gate.any fun g => g.opId == r.id

/-- Whether a 64-byte address of a request is one of a retried request. -/
def State.underRetry (s : State) (addrs : List Nat) : Bool :=
  s.retrying.any fun r => addrs.any fun a => a / 64 == r.sector

/-- Whether a request waits: it is retried and not yet reissued, or goes to a 64-byte address of which an earlier request is retried and not
yet performed (R335, R346). -/
def State.retryHolds (s : State) (id : Nat) (addrs : List Nat) : Bool :=
  (s.retrying.any fun r => r.id == id && !r.again) ||
  (s.retrying.takeWhile fun r => r.id != id).any fun r => addrs.any fun a => a / 64 == r.sector

/-- A reissued request of a tile command has been performed: the command may send others. -/
def State.retryOver (s : State) (id : Nat) : State :=
  { s with ms := { s.ms with retries := s.ms.retries.filter fun r => !(r.id == id && r.again) } }

/-! ### Access counters (R341) -/

/-- The key of the 2 MiB region of a device address. -/
def regionOf (a : Nat) : Nat := (a - devBase) / 2 ^ 21

/-- Counts a line request that reaches the base die or the tier-L controller; v is the home die whose queue is notified. -/
def State.countRequest (s : State) (v a : Nat) : State :=
  let x := regionOf a
  let c := s.ms.counters.get x { die := v, count := 0, st := .counting, since := 0 }
  match c.st with
  | .counting =>
    let n := c.count + 1
    if (s.die v).accThresh ≤ n then
      if (s.ms.notes.filter fun q => q.1 == v).length < 64 then
        { s with ms := { s.ms with counters := s.ms.counters.put x { c with die := v, count := (s.die v).accThresh, st := .queued },
                                   notes := s.ms.notes ++ [(v, x)] } }
      else
        let (id, s1) := s.ticket
        let c' : AccCounter := { die := v, count := (s.die v).accThresh, st := .pending, since := id }
        let s2 : State := { s1 with ms := { s1.ms with counters := s1.ms.counters.put x c' } }
        s2.modDie v fun d => { d with accOvf := d.accOvf + 1 }
    else { s with ms := { s.ms with counters := s.ms.counters.put x { c with die := v, count := n } } }
  | _ => s

/-! ### Compressed storage (R338, R339) -/

def blockKey (a : Nat) : Nat := a / 4096
def granuleKey (a : Nat) : Nat := a / 128

/-- The frame of a page of a die's overflow reserve. -/
def State.reserveFrame (s : State) (v page : Nat) : Option Nat :=
  (s.ms.reserve.find? fun r => r.1 == v && r.2.1 == page).map fun r => r.2.2

/-- The frame of a retained page of a compressed tensor. -/
def State.packFrame (s : State) (t k : Nat) : Option Nat := (s.ms.packs.get t []).getD k none

/-- Where byte loc of a compressed tensor's retained pages lies in device memory. -/
def State.retainedAddr (s : State) (t loc : Nat) : Nat :=
  ((s.packFrame t (loc / pageBytes)).map fun f => frameAddr f + loc % pageBytes).getD devBase

/-- Where byte i of the packed form of a block lies in device memory. -/
def State.packedAddr (s : State) (a i : Nat) : Nat :=
  let e := (s.ms.bmaps.get (blockKey a) 0).toNat
  let loc := e % 2 ^ 31 * 32 + i
  if 2 ^ 31 ≤ e then
    ((s.reserveFrame (storeTensor a / 2 ^ 20) (loc / pageBytes)).map fun f => frameAddr f + loc % pageBytes).getD devBase
  else s.retainedAddr (storeTensor a) loc

def State.tag (s : State) (g : Nat) : Nat := (Map.get s.ms.tags g 0).toNat

/-- The offset of a granule in its block's packed form: the sizes of the granules before it. -/
def State.packedBefore (s : State) (first n : Nat) : Nat :=
  ((List.range n).map fun i => tagSize (s.tag (first + i))).foldl (· + ·) 0

/-- The tag that the metadata of a granule holds: its own, or what an error made of it (R337, R372). -/
def State.heldTag (s : State) (g : Nat) : Nat := ((s.ms.badTags.find g).map BitVec.toNat).getD (s.tag g)

/-- Where the stored bytes of the granule that holds a storage address begin. -/
def State.granuleAddr (s : State) (a i : Nat) : Nat :=
  let first := blockKey a * 32
  s.packedAddr a (s.packedBefore first (granuleKey a - first) + i)

/-- The stored granule that holds a storage address, expanded. -/
def State.storedGranule (s : State) (a : Nat) : List Byte × Bool :=
  let g := granuleKey a
  granuleDecode (s.heldTag g) ((List.range (tagSize (s.tag g))).map fun i => s.byte (s.granuleAddr a i))

/-! ### What a byte of storage holds at its home -/

/-- The logical place of the poison mark of a storage address: marks travel with the data (R375). -/
def logicalMark (a : Nat) : Nat := 2 ^ 70 + a

/-- A byte in memory behind the L2, and its mark. -/
def State.memoryByte (s : State) (a : Nat) : Byte × Bool :=
  let t := storeTensor a
  match s.homeLeaf? t (storeOff a) with
  | none => (0, s.poisonAt (logicalMark a))
  | some l =>
    if pteC l.1 then
      let g := s.storedGranule a
      (g.1.getD (a % 128) 0, g.2 || s.poisonAt (logicalMark a))
    else
      let p := leafAddr l.1 l.2 (storeOff a)
      (s.byte p, s.poisonAt p || s.poisonAt (logicalMark a))

/-- A byte at its home: the dirty byte of its L2 line, else memory (R329, R330). -/
def State.homeByte (s : State) (a : Nat) : Byte × Bool :=
  match s.ms.l2.find (lineOf a) with
  | some l => if l.mask.getLsbD (a % 256) then (l.data.extractLsb' (8 * (a % 256)) 8, s.poisonAt (logicalMark a))
              else s.memoryByte a
  | none => s.memoryByte a

/-- Whether a storage address lies on an MSA page: its record's attribute (R228). -/
def State.isMsa (s : State) (a : Nat) : Bool := ((s.rec? (storeTensor a)).map (·.msa)).getD false
def State.isVer (s : State) (a : Nat) : Bool := ((s.rec? (storeTensor a)).map (·.ver)).getD false

/-- Counts the request for a line at the base die, in the region where the byte lies for which it goes there: on a compressed page, where
the stored bytes of its granule do. -/
def State.countLine (s : State) (a : Nat) : State :=
  let t := storeTensor a
  match s.homeLeaf? t (storeOff a) with
  | some l => s.countRequest (t / 2 ^ 20) (if pteC l.1 then s.granuleAddr a 0 else leafAddr l.1 l.2 (storeOff a))
  | none => s

/-- Counts a request for each line of some storage addresses. -/
def State.countLines (s : State) (as : List Nat) : State :=
  (as.foldl (fun (u : List Nat) a => if u.any fun b => lineOf b == lineOf a then u else u ++ [a]) []).foldl State.countLine s

/-! ### Write-back (R329, R339) -/

/-- The lowest slot of a die's overflow reserve that is free and below its size. -/
def State.freeSlot (s : State) (v : Nat) : Option Nat :=
  (List.range (16 * (s.die v).cmResv)).find? fun k =>
    (s.reserveFrame v (k / 16)).isSome && !s.ms.overflow.any fun o => o.1 == v && o.2.1 == k

/-- Re-packs a block from its granules: in place when it fits its allotment, else in an overflow slot; none when no slot is
free. -/
def State.repack (s : State) (a : Nat) (gs : List (List Byte)) : Option State :=
  let bk := blockKey a
  let tags := gs.map granuleTag
  let packed := gs.flatMap fun g => granuleBytes (granuleTag g) g
  let setTags (t : State) : State :=
    let u : State := { t with ms := { t.ms with badTags := t.ms.badTags.filter fun e => e.1 / 32 != bk } }
    (List.range 32).foldl (fun u i =>
      { u with ms := { u.ms with tags := u.ms.tags.set (bk * 32 + i) (BitVec.ofNat 4 (tags.getD i 0)) 0 } }) u
  if packed.length ≤ s.ms.allots.get bk 0 then
    some (setTags (s.setCells ((listFrom 0 packed).map fun c => (s.packedAddr a c.1, c.2))))
  else
    let v := storeTensor a / 2 ^ 20
    match s.freeSlot v with
    | none => none
    | some k =>
      match s.reserveFrame v (k / 16) with
      | none => none
      | some f =>
        let s1 := { s with ms := { s.ms with bmaps := s.ms.bmaps.put bk (BitVec.ofNat 32 (2 ^ 31 + k * 128)),
                                             allots := s.ms.allots.put bk 4096,
                                             overflow := (v, k, bk) :: s.ms.overflow } }
        some (setTags (s1.setBytes (frameAddr f + k % 16 * 4096) packed))

/-- The granules of the block that holds an address, with bytes of a line merged where its mask is set. -/
def State.mergedBlock (s : State) (line : Nat) (l : Line) : List (List Byte) :=
  let base := line * 256 / 4096 * 4096
  (List.range 32).map fun i =>
    let g := (s.storedGranule (base + 128 * i)).1
    (List.range 128).map fun j =>
      let a := base + 128 * i + j
      if lineOf a = line ∧ l.mask.getLsbD (a % 256) then l.data.extractLsb' (8 * (a % 256)) 8 else g.getD j 0

/-- Whether the home L2 holds every byte of a sector as a later write, so that memory behind it is stale. -/
def State.overwritten (s : State) (a : Nat) : Bool :=
  match s.ms.l2.find (lineOf a) with
  | some l => (List.range 64).all fun i => l.mask.getLsbD (a / 64 * 64 % 256 + i)
  | none => false

/-- The granules of a block whose metadata holds a reserved tag are poisoned data, and stay so when the block is re-packed: their sectors
are marked, but for those that the L2 holds written whole. -/
def State.keepBadTags (s : State) (a : Nat) : State :=
  let bad := (List.range 32).filter fun i => 6 ≤ s.heldTag (blockKey a * 32 + i)
  (bad.flatMap fun i => [blockKey a * 4096 + 128 * i, blockKey a * 4096 + 128 * i + 64]).foldl
    (fun u b => if s.overwritten b then u else u.setPoison (logicalMark b) true) s

/-- Writes back the dirty bytes of a line and drops the line from the L2; none when the write-back is held. -/
def State.writeBack (s : State) (line : Nat) : Option State :=
  match s.ms.l2.find line with
  | none => some s
  | some l =>
    let drop (t : State) : State := { t with ms := { t.ms with l2 := t.ms.l2.erase line } }
    if l.mask = 0 then some (drop s)
    else
      let t := storeTensor (line * 256)
      match s.homeLeaf? t (storeOff (line * 256)) with
      | none => some (drop s)
      | some e =>
        let s1 := s.countLine (line * 256 + (((List.range 256).find? fun i => l.mask.getLsbD i).getD 0))
        if pteC e.1 then ((s1.keepBadTags (line * 256)).repack (line * 256) (s.mergedBlock line l)).map drop
        else
          let p := leafAddr e.1 e.2 (storeOff (line * 256))
          some (drop ((List.range 256).foldl (fun u i =>
            if l.mask.getLsbD i then u.setByte (p + i) (l.data.extractLsb' (8 * i) 8) else u) s1))

/-! ### The L2 (R329, R282) -/

/-- Before the home uses a line, a guest that holds it modified gives it up (R282). -/
def State.snoop (s : State) (a : Nat) : State :=
  let g := s.hs.guest
  if g.modified.contains (lineOf a) then { s with hs := { s.hs with guest := { g with modified := g.modified.filter (· != lineOf a) } } }
  else s

/-- Before the home changes a line, host caches that hold it give it up, and acknowledge that in the same step (R282, log entry 99). -/
def State.snoopWrite (s : State) (a : Nat) : State :=
  let s1 := s.snoop a
  if s1.hs.hostLines.contains (lineOf a) then { s1 with hs := { s1.hs with hostLines := s1.hs.hostLines.filter (· != lineOf a) } } else s1

/-- The set of an L2 in which a line of tensor storage lies: 2^16 times the stack, and the line's place in its physical target modulo
65 536 (log entry 99). -/
def State.setIn (s : State) (p line : Nat) : Nat :=
  p * 2 ^ 16 + ((s.place? (storeTensor (line * 256)) (storeOff (line * 256))).getD 0) / 256 % 2 ^ 16

/-- The lines and the replicas in a set. -/
def State.linesIn (s : State) (set : Nat) : List Nat := (s.ms.l2.filter fun e => e.2.set == set).map Prod.fst
def State.replicasIn (s : State) (set : Nat) : List (Nat × Nat × Nat) :=
  s.ms.replicas.filter fun r => ((s.stackOfDie r.1).map fun p => s.setIn p r.2.1 == set).getD false

/-- A line may be evicted: it is not of the near pool (R289), and its write-back is not held (R340). -/
def State.evictable (s : State) (line : Nat) : Bool :=
  ((s.rec? (storeTensor (line * 256))).map fun r => r.st != .near).getD true && (s.writeBack line).isSome

/-- A set with a free way: as it stands, or after an eviction of any line or replica that may go; none when all its ways are held. The
replacement policy is not architected: the choice is free (log entry 8). -/
def State.freeWay (s : State) (set : Nat) : Option State :=
  let reps := s.replicasIn set
  if (s.linesIn set).length + reps.length < 16 then some s
  else
    let (w, s1) := s.freeWord
    match (s.linesIn set).filter s.evictable, reps with
    | [], [] => none
    | [], r :: rs => let gone := (r :: rs).getD (w.toNat % (rs.length + 1)) r
      some { s1 with ms := { s1.ms with replicas := s1.ms.replicas.filter (· != gone) } }
    | l :: ls, _ => s1.writeBack ((l :: ls).getD (w.toNat % (ls.length + 1)) l)

/-- Room for a line at its home. -/
def State.makeRoom (s : State) (line : Nat) : Option State :=
  if (s.ms.l2.find line).isSome then some s else s.freeWay (s.setIn (s.homeStack (storeTensor (line * 256))) line)

/-- Whether stores to some storage addresses have room at their homes: a write-back that is held holds them (R340). -/
def State.hasRoom (s : State) (as : List Nat) : Bool :=
  (as.map lineOf).eraseDups.all fun l => s.isMsa (l * 256) || (s.makeRoom l).isSome

/-- The home's line, an empty one where it holds none. -/
def State.lineAt (s : State) (line : Nat) : Line :=
  (s.ms.l2.find line).getD { mask := 0, data := 0, present := 0, set := s.setIn (s.homeStack (storeTensor (line * 256))) line }
def State.putLine (s : State) (line : Nat) (l : Line) : State := { s with ms := { s.ms with l2 := s.ms.l2.put line l } }

/-- The sectors of a line that reading some of its bytes must fetch: those not filled, of bytes that are not dirty (R329). -/
def Line.missing (l : Line) (as : List Nat) : BitVec 4 :=
  as.foldl (fun m a => if l.mask.getLsbD (a % 256) || l.present.getLsbD (a % 256 / 64) then m else m ||| (1#4 <<< (a % 256 / 64))) 0

/-- A read reaches a line: the sectors that the home's L2 lacks are fetched, by one request that is counted (R329, R341). Lines of MSA
pages are never cached, and neither is a line for which no way is free. -/
def State.touchLine (s : State) (line : Nat) (as : List Nat) : State :=
  let l := s.lineAt line
  let need := l.missing as
  if need = 0 && (s.ms.l2.find line).isSome then s.snoop (line * 256)
  else
    let first := (as.find? fun a => (l.missing [a]) != 0).getD (as.headD (line * 256))
    let s1 := (s.snoop (line * 256)).countLine first
    if s.isMsa (line * 256) then s1
    else match s1.makeRoom line with
      | some s2 => s2.putLine line { l with present := l.present ||| need }
      | none => s1

/-- A read reaches some bytes of storage, line by line. -/
def State.touch (s : State) (as : List Nat) : State :=
  (as.map lineOf).eraseDups.foldl (fun t l => t.touchLine l (as.filter fun a => lineOf a == l)) s

/-- Writes one byte at its home: into the L2 line with its dirty bit; at the base die for MSA, and in memory where no way is free. -/
def State.homeSet (s : State) (a : Nat) (b : Byte) : State :=
  let direct : State := match s.place? (storeTensor a) (storeOff a) with
    | some p => s.setByte p b
    | none => s
  if s.isMsa a then direct
  else match s.makeRoom (lineOf a) with
    | none => direct
    | some s1 =>
      let l := s1.lineAt (lineOf a)
      let i := a % 256
      s1.putLine (lineOf a)
        { l with mask := l.mask ||| (1#256 <<< i), data := (l.data &&& ~~~((255#2048) <<< (8 * i))) ||| (b.setWidth 2048 <<< (8 * i)) }

/-- Whether a running operation of the transfer engines reads a tensor. -/
def Op.reads (o : Op) (t : Nat) : Bool :=
  o.started && !o.done && (match o.kind with
    | .opr .. | .gop _ => false
    | _ => true) && o.params.any fun p => !p.2 && !isDiscard p.1 && handleKey p.1 == t

/-- Before bytes of tensors change, the running operations that read those tensors keep them as they stood (R127). -/
def State.keepOld (s : State) (cs : List (Nat × Byte)) : State :=
  let keep (o : Op) (m : Map Byte) (c : Nat × Byte) : Map Byte :=
    if o.reads (storeTensor c.1) && (m.find c.1).isNone then m.put c.1 (s.homeByte c.1).1 else m
  if s.sq.ops.any fun o => cs.any fun c => o.reads (storeTensor c.1) then
    { s with sq := { s.sq with ops := s.sq.ops.map fun o => { o with old := cs.foldl (keep o) o.old } } }
  else s

/-- Stores cells at their homes; bad lists the poisoned ones (R375). -/
def State.homeStore (s : State) (cs : List (Nat × Byte)) (bad : List Nat) : State :=
  let as := cs.map fun c => logicalMark c.1
  let s1 := cs.foldl (fun t c => (t.snoopWrite c.1).homeSet c.1 c.2) (s.keepOld cs)
  as.foldl (fun t a => t.markStore a as (bad.map logicalMark)) s1

/-- L2_WRITEBACK: a line is evicted; lines of the near pool stay (R289). -/
def execL2Writeback (line : Nat) (s : State) : Out :=
  match s.rec? (storeTensor (line * 256)) with
  | some r => if r.st = .near then .next s else .next ((s.writeBack line).getD s)
  | none => .next ((s.writeBack line).getD s)

end Sys2Proof.Machine
end

