-- ==== Sys2Proof/Machine/Scalar.lean ====
section
/-! DEFINITION. The integer units sa and sb (R148, R149), the unit sm (R150 to R153) and the address units (R154, R155). -/
namespace Sys2Proof.Machine
open Sys2Proof

/-! ### Integer functions -/

def bit32 (b : Bool) : Word := if b then 1 else 0

/-- A 32-bit word's leading zero bits (32 for 0). -/
def clz32 (y : Word) : Word := BitVec.ofNat 32 (if y = 0 then 32 else 31 - y.toNat.log2)
/-- Trailing zero bits below bit k, from bit i upward. -/
def ctzFrom (y : Word) : Nat → Nat → Nat
  | 0, i => i
  | k + 1, i => if y.getLsbD i then i else ctzFrom y k (i + 1)
def ctz32 (y : Word) : Word := BitVec.ofNat 32 (ctzFrom y 32 0)
def popc32 (y : Word) : Word := BitVec.ofNat 32 ((List.range 32).filter fun i => y.getLsbD i).length
/-- Bytes reversed. -/
def bswap32 (y : Word) : Word :=
  y.extractLsb' 0 8 ++ y.extractLsb' 8 8 ++ y.extractLsb' 16 8 ++ y.extractLsb' 24 8

/-- pos and len of R149. -/
def fieldPos (y : Word) : Nat := y.toNat % 32
def fieldLen (y : Word) : Nat := y.toNat / 32 % 32 + 1
def extZ (x y : Word) : Word := BitVec.ofNat 32 (x.toNat / 2 ^ fieldPos y % 2 ^ fieldLen y)
def extS (x y : Word) : Word :=
  let f := x.toNat / 2 ^ fieldPos y % 2 ^ fieldLen y
  BitVec.ofInt 32 (if f < 2 ^ (fieldLen y - 1) then (f : Int) else (f : Int) - 2 ^ fieldLen y)
def insField (x y w : Word) : Word :=
  let mask := BitVec.ofNat 32 ((2 ^ fieldLen y - 1) * 2 ^ fieldPos y)
  (x &&& ~~~mask) ||| (BitVec.ofNat 32 (w.toNat * 2 ^ fieldPos y) &&& mask)
def absd32 (x y : Word) : Word := BitVec.ofNat 32 (x.toInt - y.toInt).natAbs
def shCount (y : Word) : Nat := y.toNat % 32

/-! ### sa and sb -/

/-- An operation of sa (u = false) or sb: x from the port o, y the trigger operand, w from the port o2; the result is
exposed with latency 1. -/
def saOp (u : Bool) (f : Word → Word → Word → Word) (s : State) : Out :=
  onTrigger s fun t x =>
    let o := x.port (if u then 2 else 0)
    let o2 := x.port (if u then 3 else 1)
    s.expose t (if u then 1 else 0) 1 (scalarOut (f o.scalar t.y.scalar o2.scalar) [o, t.y, o2])

def execSaAdd (u : Bool) (s : State) : Out := saOp u (fun x y _ => x + y) s
def execSaSub (u : Bool) (s : State) : Out := saOp u (fun x y _ => x - y) s
def execSaRsub (u : Bool) (s : State) : Out := saOp u (fun x y _ => y - x) s
def execSaAnd (u : Bool) (s : State) : Out := saOp u (fun x y _ => x &&& y) s
def execSaOr (u : Bool) (s : State) : Out := saOp u (fun x y _ => x ||| y) s
def execSaXor (u : Bool) (s : State) : Out := saOp u (fun x y _ => x ^^^ y) s
def execSaAndn (u : Bool) (s : State) : Out := saOp u (fun x y _ => x &&& ~~~y) s
def execSaNot (u : Bool) (s : State) : Out := saOp u (fun _ y _ => ~~~y) s
def execSaShl (u : Bool) (s : State) : Out := saOp u (fun x y _ => x <<< shCount y) s
def execSaShr (u : Bool) (s : State) : Out := saOp u (fun x y _ => x >>> shCount y) s
def execSaSar (u : Bool) (s : State) : Out := saOp u (fun x y _ => x.sshiftRight (shCount y)) s
def execSaRotl (u : Bool) (s : State) : Out := saOp u (fun x y _ => x.rotateLeft (shCount y)) s
def execSaMinS (u : Bool) (s : State) : Out := saOp u (fun x y _ => if y.slt x then y else x) s
def execSaMaxS (u : Bool) (s : State) : Out := saOp u (fun x y _ => if x.slt y then y else x) s
def execSaMinZ (u : Bool) (s : State) : Out := saOp u (fun x y _ => if y.ult x then y else x) s
def execSaMaxZ (u : Bool) (s : State) : Out := saOp u (fun x y _ => if x.ult y then y else x) s
def execSaEq (u : Bool) (s : State) : Out := saOp u (fun x y _ => bit32 (x == y)) s
def execSaNe (u : Bool) (s : State) : Out := saOp u (fun x y _ => bit32 (x != y)) s
def execSaLtS (u : Bool) (s : State) : Out := saOp u (fun x y _ => bit32 (x.slt y)) s
def execSaLeS (u : Bool) (s : State) : Out := saOp u (fun x y _ => bit32 (x.sle y)) s
def execSaLtZ (u : Bool) (s : State) : Out := saOp u (fun x y _ => bit32 (x.ult y)) s
def execSaLeZ (u : Bool) (s : State) : Out := saOp u (fun x y _ => bit32 (x.ule y)) s
def execSaClz (u : Bool) (s : State) : Out := saOp u (fun _ y _ => clz32 y) s
def execSaCtz (u : Bool) (s : State) : Out := saOp u (fun _ y _ => ctz32 y) s
def execSaPopc (u : Bool) (s : State) : Out := saOp u (fun _ y _ => popc32 y) s
def execSaExtS (u : Bool) (s : State) : Out := saOp u (fun x y _ => extS x y) s
def execSaExtZ (u : Bool) (s : State) : Out := saOp u (fun x y _ => extZ x y) s
def execSaIns (u : Bool) (s : State) : Out := saOp u (fun x y w => insField x y w) s
def execSaMov (u : Bool) (s : State) : Out := saOp u (fun _ y _ => y) s
def execSaSel (u : Bool) (s : State) : Out := saOp u (fun x y w => if y ≠ 0 then x else w) s
def execSaBswap (u : Bool) (s : State) : Out := saOp u (fun _ y _ => bswap32 y) s
def execSaAbsd (u : Bool) (s : State) : Out := saOp u (fun x y _ => absd32 x y) s

/-! ### sm -/

/-- An exposed operation of sm with latency l: x from sm.o, y the trigger operand, w from sm.o2. -/
def smOp (l : Nat) (f : Word → Word → Word → Word) (s : State) : Out :=
  onTrigger s fun t x =>
    let o := x.port oSmO
    let o2 := x.port oSmO2
    s.expose t qSm l (scalarOut (f o.scalar t.y.scalar o2.scalar) [o, t.y, o2])

/-- trunc(x / y) and its remainder, with the corners of R151. -/
def divS (x y : Word) : Word × Word :=
  if y = 0 then (0xffffffff#32, x)
  else if x = 0x80000000#32 ∧ y = 0xffffffff#32 then (0x80000000#32, 0)
  else (BitVec.ofInt 32 (x.toInt.tdiv y.toInt), BitVec.ofInt 32 (x.toInt.tmod y.toInt))
def divZ (x y : Word) : Word × Word :=
  if y = 0 then (0xffffffff#32, x) else (BitVec.ofNat 32 (x.toNat / y.toNat), BitVec.ofNat 32 (x.toNat % y.toNat))

/-- A division: sm.q and sm.qh are pending until both results land, 18 cycles after the trigger (R151). q and qh say which
of quotient and remainder each receives. -/
def smDiv (f : Word → Word → Word × Word) (swap : Bool) (s : State) : Out :=
  onTrigger s fun t x =>
    let o := x.port oSmO
    let r := f o.scalar t.y.scalar
    let q := scalarOut (if swap then r.2 else r.1) [o, t.y]
    let qh := scalarOut (if swap then r.1 else r.2) [o, t.y]
    let (id, s1) := s.ticket
    let s2 := (s1.pendPort t.ctx qSm id).pendPort t.ctx qSmH id
    s2.modCore (coreOf t.ctx) fun k => { k with div := some (t.ctx, q, qh, t.cyc + 18, id) }

/-- A conversion that rounds by fmt[26:24]: a reserved code faults (R153, R31). -/
def checkRnd (_ : State) (_ : Trig) (x : Ctx) : Option Fail := failIf (rndReserved x.r.fmt) (fmtFail x.r.fmt)
def smConvert (f : Rnd → Word → Word) (s : State) : Out :=
  checked s checkRnd fun t x => s.expose t qSm 4 (scalarOut (f (fmtRound x.r.fmt) t.y.scalar) [t.y])

def execSmMul (s : State) : Out := smOp 3 (fun x y _ => x * y) s
def execSmMulhS (s : State) : Out := smOp 3 (fun x y _ => BitVec.ofInt 32 (x.toInt * y.toInt / 2 ^ 32)) s
def execSmMulhZ (s : State) : Out := smOp 3 (fun x y _ => BitVec.ofNat 32 (x.toNat * y.toNat / 2 ^ 32)) s
def execSmMad (s : State) : Out := smOp 3 (fun x y w => x * y + w) s
def execSmDivS (s : State) : Out := smDiv divS false s
def execSmDivZ (s : State) : Out := smDiv divZ false s
def execSmRemS (s : State) : Out := smDiv divS true s
def execSmRemZ (s : State) : Out := smDiv divZ true s
def execSmFadd (s : State) : Out := smOp 4 (fun x y _ => addF32 x y) s
def execSmFsub (s : State) : Out := smOp 4 (fun x y _ => subF32 x y) s
def execSmFmul (s : State) : Out := smOp 4 (fun x y _ => mulF32 x y) s
def execSmFfma (s : State) : Out := smOp 4 (fun x y w => fmaF32 x y w) s
def execSmFmin (s : State) : Out := smOp 4 (fun x y _ => minF32 x y) s
def execSmFmax (s : State) : Out := smOp 4 (fun x y _ => maxF32 x y) s
def execSmFabs (s : State) : Out := smOp 4 (fun _ y _ => absF32 y) s
def execSmFneg (s : State) : Out := smOp 4 (fun _ y _ => negF32 y) s
def execSmFlt (s : State) : Out := smOp 4 (fun x y _ => bit32 (ltF32 x y)) s
def execSmFle (s : State) : Out := smOp 4 (fun x y _ => bit32 (leF32 x y)) s
def execSmFeq (s : State) : Out := smOp 4 (fun x y _ => bit32 (eqF32 x y)) s
def execSmFcvtS32 (s : State) : Out := smConvert (fun m y => toS32 m (ofF32 y)) s
def execSmFcvtZ32 (s : State) : Out := smConvert (fun m y => toZ32 m (ofF32 y)) s
def execSmIcvtS32 (s : State) : Out := smConvert (fun m y => intToF32 m y.toInt) s
def execSmIcvtZ32 (s : State) : Out := smConvert (fun m y => intToF32 m y.toNat) s
def execSmFrcp (s : State) : Out := smOp 4 (fun _ y _ => rcpF32 y) s
def execSmFrsq (s : State) : Out := smOp 4 (fun _ y _ => rsqF32 y) s
def execSmFexp2 (s : State) : Out := smOp 4 (fun _ y _ => exp2F32 y) s
def execSmFlog2 (s : State) : Out := smOp 4 (fun _ y _ => log2F32 y) s

/-! ### ag0 and ag1 -/

/-- The window function win of R154 over b and k. -/
def window (b k : Word) (x : Int) : Word :=
  if k = 0 then BitVec.ofInt 32 x else BitVec.ofInt 32 (b.toNat + (x - b.toNat) % k.toNat)

/-- Writes a register a of a set for the next bundle; ag1 runs after ag0, so its value remains (R155). -/
def State.writeA (s : State) (c j : Nat) (x : PW) : State := s.modRegs c fun r => r.setAddr 0 j x

/-- An address-unit operation: f gives the value of u.q and the new a, from the set as it stood before the bundle and z
from u.o. -/
def agOp (u : Bool) (f : AgSet → Word → Word × Option Word) (s : State) : Out :=
  onTrigger s fun t x =>
    let z := x.port (if u then 7 else 6)
    let r := f t.ag z.scalar
    let bad := t.ag.a.poi || t.ag.n.poi || t.ag.b.poi || t.ag.k.poi || z.bad
    let s1 := s.expose t (if u then 5 else 4) 1 (PV.ofWord r.1 bad)
    match r.2 with
    | some a => s1.writeA t.ctx (t.y.scalar.toNat % 16) { val := a, poi := bad }
    | none => s1

def AgSet.win (g : AgSet) (x : Int) : Word := window g.b.val g.k.val x
def AgSet.au (g : AgSet) : Int := g.a.val.toNat
def AgSet.nu (g : AgSet) : Int := g.n.val.toNat

def execAgGet (u : Bool) (s : State) : Out := agOp u (fun g _ => (g.a.val, none)) s
def execAgPinc (u : Bool) (s : State) : Out := agOp u (fun g _ => (g.a.val, some (g.win (g.au + g.nu)))) s
def execAgPdec (u : Bool) (s : State) : Out := agOp u (fun g _ => (g.a.val, some (g.win (g.au - g.nu)))) s
def execAgPreinc (u : Bool) (s : State) : Out :=
  agOp u (fun g _ => (g.win (g.au + g.nu), some (g.win (g.au + g.nu)))) s
def execAgAdd (u : Bool) (s : State) : Out :=
  agOp u (fun g z => (g.win (g.au + z.toInt), some (g.win (g.au + z.toInt)))) s
def execAgLea (u : Bool) (s : State) : Out := agOp u (fun g z => (g.win (g.au + z.toInt), none)) s
def execAgIdx (u : Bool) (s : State) : Out := agOp u (fun g z => (g.win (g.au + z.toInt * g.n.val.toInt), none)) s

end Sys2Proof.Machine
end

