-- ==== Sys2Proof/Machine/Branch.lean ====
section
/-! DEFINITION. The branch unit (R156 to R164): redirects with a delay bundle, counted and staged loops, halt, yield, trap. A
branch executes after the bundle's own advance, so the context's PC already names the bundle that would issue next. -/
namespace Sys2Proof.Machine
open Sys2Proof

/-- The number of bundles of a context's image (R157). -/
def State.bundleCount (s : State) (c : Nat) : Nat := ((s.kernelOf c).map (·.bundles.length)).getD 0

/-! ### Closing a frame (R160, R161) -/

/-- p[k] := p[k−1] for k from S down to 2, then p[1] := b. -/
def shiftPreds (b : Bool) : Nat → Regs → Regs
  | 0, r => r
  | 1, r => r.setPred 1 b
  | k + 2, r => shiftPreds b (k + 1) (r.setPred (k + 2) (r.pred (k + 1)))

/-- What each closing of a staged frame does before the next bundle issues (R161). -/
def rotate (f : Frame) (stages : Nat) (r : Regs) : Regs :=
  { shiftPreds (decide (f.trips < f.n)) stages r with rbs := r.rbs + 31, rbv := r.rbv + 15 }

/-- close of R160 on the frames of a loop stack, innermost first: the next bundle and the registers. -/
def closeFrames (bno : Nat) : List Frame → Regs → Nat × Regs
  | [], r => (bno + 1, { r with loops := [] })
  | f :: fs, r =>
    if f.stop = bno then
      let r1 := match f.stages with
        | some k => rotate f k r
        | none => r
      if 1 < f.count then (f.start, { r1 with loops := { f with count := f.count - 1, trips := f.trips + 1 } :: fs })
      else closeFrames bno fs r1
    else (bno + 1, { r with loops := f :: fs })

/-- The advance past a bundle whose last repeat has issued: to the pending redirect's target (R158), else by closing the
frames that end there, else to the next bundle. -/
def Regs.advance (r : Regs) (bno : Nat) (keepRedirect : Bool) : Regs :=
  match r.redirect, keepRedirect with
  | some t, true => { r with pc := t, redirect := none, rep := none }
  | _, _ =>
    let p := closeFrames bno r.loops r
    { p.2 with pc := p.1, redirect := none, rep := none }

/-! ### Checks (R156, R157, R160, R161) -/

def brFail (t : Trig) : Fail := illTrig t.y.scalar.toNat

/-- A redirect in the end bundle of the innermost frame is illegal (R160). -/
def endsInnermost (x : Ctx) (bno : Nat) : Bool :=
  match x.r.loops with
  | f :: _ => f.stop == bno
  | [] => false

/-- The target must lie in 0 … B − 1. -/
def checkTarget (target : Trig → Int) (s : State) (t : Trig) (x : Ctx) : Option Fail :=
  failIf (endsInnermost x t.bno || target t < 0 || (s.bundleCount t.ctx : Int) ≤ target t) (brFail t)

def jmpTarget (t : Trig) : Int := t.bno + t.y.scalar.toInt
def jmaTarget (t : Trig) : Int := t.y.scalar.toNat
def checkJmp (s : State) (t : Trig) (x : Ctx) : Option Fail := checkTarget jmpTarget s t x
def checkJma (s : State) (t : Trig) (x : Ctx) : Option Fail := checkTarget jmaTarget s t x

def checkBrk (_ : State) (t : Trig) (x : Ctx) : Option Fail := failIf (x.r.loops.isEmpty || endsInnermost x t.bno) (brFail t)

def checkLoop (s : State) (t : Trig) (x : Ctx) : Option Fail :=
  let e := (x.portW oBrO).toNat
  failIf (e ≤ t.bno || s.bundleCount t.ctx ≤ e || 4 ≤ x.r.loops.length || t.delay || x.r.loops.any fun f => f.stop == t.bno)
    (brFail t)

def checkLoops (s : State) (t : Trig) (x : Ctx) : Option Fail :=
  let st := (x.portW oBrO2).toNat
  (checkLoop s t x).orElse fun _ => failIf (st < 1 || 7 < st || x.r.loops.any fun f => f.stages.isSome) (brFail t)

/-! ### Meanings -/

/-- A redirect takes effect after the delay bundle (R158). -/
def redirectTo (target : Nat) (r : Regs) : Regs := { r with redirect := some target }

def execBrJmp (s : State) : Out :=
  checked s checkJmp fun t _ => s.modRegs t.ctx (redirectTo (jmpTarget t).toNat)

def execBrJma (s : State) : Out :=
  checked s checkJma fun t _ => s.modRegs t.ctx (redirectTo t.y.scalar.toNat)

def execBrCall (s : State) : Out :=
  checked s checkJma fun t _ =>
    (s.expose t qBr 1 (PV.ofWord (BitVec.ofNat 32 (t.bno + 2)) false)).modRegs t.ctx fun r =>
      { redirectTo t.y.scalar.toNat r with calld := r.calld + 1 }

def execBrRet (s : State) : Out :=
  checked s checkJma fun t _ => s.modRegs t.ctx fun r => { redirectTo t.y.scalar.toNat r with calld := r.calld - 1 }

/-- Pushes a frame, or goes on after the body when N is 0. -/
def pushFrame (t : Trig) (e n : Nat) (stages : Option Nat) (r : Regs) : Regs :=
  if n = 0 then { r with pc := e + 1 }
  else
    { r with loops := { start := t.bno + 1, stop := e, count := n + (stages.getD 1 - 1), stages := stages, n := n, trips := 1 }
                      :: r.loops }

def execBrLoop (s : State) : Out :=
  checked s checkLoop fun t x => s.modRegs t.ctx (pushFrame t (x.portW oBrO).toNat t.y.scalar.toNat none)

/-- p1 := 1 and p2 … pS := 0 for the next bundle; moves of the bundle to them are discarded (R161). -/
def startPreds : Nat → Regs → Regs
  | 0, r => r
  | 1, r => r.setPred 1 true
  | k + 2, r => startPreds (k + 1) (r.setPred (k + 2) false)

def execBrLoops (s : State) : Out :=
  checked s checkLoops fun t x =>
    let st := (x.portW oBrO2).toNat
    let n := t.y.scalar.toNat
    s.modRegs t.ctx fun r => pushFrame t (x.portW oBrO).toNat n (some st) (if n = 0 then r else startPreds st r)

/-- Pops the innermost frame and redirects to the bundle after its end. The frame is popped at issue, so that the bundle closes the frame
that is then innermost if it ends there: the delay bundle is then the start of that body (R158, R160). In a delay bundle the pending redirect
decides the next bundle, and no frame closes. -/
def execBrBrk (s : State) : Out :=
  checked s checkBrk fun t _ => s.modRegs t.ctx fun r =>
    match r.loops with
    | f :: fs =>
      let r1 : Regs := { redirectTo (f.stop + 1) r with loops := fs }
      if t.delay then r1
      else
        let p := closeFrames t.bno fs r1
        { p.2 with pc := p.1 }
    | [] => r

/-- Ends the task; a stop that the same bundle's sy.trap raised stands no longer. -/
def execBrHalt (s : State) : Out := onTrigger s fun t x => s.putCtx t.ctx x.ended

/-- Switches the context out as a block would (R163): the next cycle is a bubble and the choice of R304 follows. -/
def execBrYield (s : State) : Out :=
  onTrigger s fun t _ => s.modCore (coreOf t.ctx) fun k => { k with bubble := true, switched := true, sinceSwitch := 0 }

/-- CORE_TRAP between bundles, resuming at the bundle that would issue next (R164). -/
def trapInfo (t : Trig) : FaultInfo := laterFault 7 0x70 t.y.scalar.toNat t.slot t.bno

def execBrTrap (s : State) : Out := onTrigger s fun t _ => s.imprecise t.ctx (trapInfo t)

end Sys2Proof.Machine
end

