-- ==== Sys2Proof/Machine/Address.lean ====
section
/-! DEFINITION. Scratchpad addresses (R194, R104): legality, translation through the bank map, full/empty bits of granules, and
what a context sees through its own store gate (R315). -/
namespace Sys2Proof.Machine
open Sys2Proof

/-- The core and the offset of a scratchpad address. -/
def addrCore (a : Nat) : Nat := a / 2 ^ 22
def addrOff (a : Nat) : Nat := a % 2 ^ 22

/-- Whether an access of n bytes with an alignment obeys R194. -/
def addrLegal (a n align : Nat) : Bool := addrCore a ≤ 47 && addrOff a + n ≤ 2 ^ 22 && a % align == 0

/-- The alignment of an access of n bytes: its width, and 32 for a vector. -/
def alignOf (n : Nat) : Nat := if n = 256 then 32 else n

/-- The first byte of a physical bank of a core. -/
def bankBase (core bank : Nat) : Nat := (core * 16 + bank) * 2 ^ 18

/-- The physical scratchpad address of an address, in a cluster of which base is the key of core 0, through a bank map. -/
def physAt (map : BitVec 64) (base a : Nat) : Nat :=
  bankBase (base + addrCore a) (map.toNat / 2 ^ (4 * (addrOff a / 2 ^ 18)) % 16) + a % 2 ^ 18

/-- The key of core 0 of the cluster of a context. -/
def clusterBase (c : Nat) : Nat := coreOf c / 48 * 48

def State.bankMapOf (s : State) (c : Nat) : BitVec 64 := ((s.kernelOf c).map (·.bankMap)).getD 0
/-- Translates one byte address for a context. -/
def State.phys (s : State) (c a : Nat) : Nat := physAt (s.bankMapOf c) (clusterBase c) a
def State.physList (s : State) (c a n : Nat) : List Nat := (List.range n).map fun i => s.phys c (a + i)

/-- The key of the core that holds a physical scratchpad address. -/
def coreOfPhys (p : Nat) : Nat := p / 2 ^ 22

/-- Whether an address is local to a context (R194). -/
def isLocal (c a : Nat) : Bool := coreIdx (coreOf c) == addrCore a

/-! ### Full/empty bits -/

/-- The F bit of the granule of a physical address; an unlisted granule is empty (log entry 3). -/
def State.fbit (s : State) (p : Nat) : Bool := Map.get s.fbits (p / 32) false
def State.setF (s : State) (p : Nat) (b : Bool) : State := { s with fbits := Map.set s.fbits (p / 32) b false }
def State.setFs (s : State) (ps : List Nat) (b : Bool) : State := ps.foldl (fun t p => t.setF p b) s

/-- The granules of n bytes at a: an address in each. -/
def granules (a n : Nat) : List Nat := (List.range ((a % 32 + n + 31) / 32)).map fun i => a / 32 * 32 + 32 * i

/-! ### The context's own view through its gate (R315) -/

/-- The latest gated scratchpad byte at a physical address, among stores issued before ticket id. -/
def gatedByte (g : List GStore) (glob : Bool) (p id : Nat) : Option (Byte × Bool) :=
  match (g.reverse.find? fun x => x.isGlobal == glob && x.opId < id && x.cells.any fun y => y.1 == p) with
  | some x => (x.cells.find? fun y => y.1 == p).map fun y => (y.2, x.poi.contains p)
  | none => none

/-- The byte and mark that context c sees at a physical scratchpad address, with its gated stores before ticket id. A
fenced core's scratchpad reads as poisoned (R195). -/
def State.seenByte (s : State) (c id p : Nat) : Byte × Bool :=
  match (s.ctx? c).bind fun x => gatedByte x.gate false p id with
  | some r => r
  | none => (s.byte p, s.poisonAt p || (s.core (coreOfPhys p)).fenced)

/-- The bytes that context c sees at some addresses, each with its mark. -/
def State.seenBytes (s : State) (c id : Nat) (ps : List Nat) : List Byte × List Bool :=
  let r := ps.map (s.seenByte c id)
  (r.map Prod.fst, r.map Prod.snd)

/-- Performs a scratchpad store: bytes at physical addresses, of which bad lists the poisoned ones; a store to a fenced core is discarded
(R195). -/
def State.scratchStore (s : State) (cs : List (Nat × Byte)) (bad : List Nat) : State :=
  match cs with
  | [] => s
  | (a, _) :: _ => if (s.core (coreOfPhys a)).fenced then s else s.storeCells cs bad

end Sys2Proof.Machine
end

