-- ==== Sys2Proof/Machine/Vector.lean ====
section
/-! DEFINITION. The vector units vf and vx (R166 to R177): lane-wise arithmetic, reductions, lane movement, conversions, MX
blocks, approximate functions, compaction and histogram. -/
namespace Sys2Proof.Machine
open Sys2Proof

/-- Element e of width b (R32). -/
def elemAt (b : Nat) (v : Vec) (e : Nat) : Nat := v.toNat / 2 ^ (b * e) % 2 ^ b
/-- The vector of n elements of width b. -/
def ofElems (b n : Nat) (f : Nat → Nat) : Vec :=
  BitVec.ofNat 2048 ((List.range n).foldr (fun e acc => acc * 2 ^ b + f e) 0)

/-! ### vf -/

/-- An operation of vf on whole operands x, y and w: exposed with latency 4. -/
def vfOp (f : Word → Vec → Vec → Vec → Vec) (s : State) : Out :=
  onTrigger s fun t x =>
    let o := x.port oVfO
    let o2 := x.port oVfO2
    s.expose t qVf 4 (vectorOut (f x.r.fmt o.val t.y.val o2.val) [o, t.y, o2])

/-- Each lane independently (R169). -/
def lanewise (f : Word → Word → Word → Word) (_ : Word) (x y w : Vec) : Vec :=
  Vec.ofLanes fun j => f (x.lane j) (y.lane j) (w.lane j)

/-- A lane-wise FP32 operation, with FLUSH on inputs and result (R35). -/
def lanewiseF (f : Word → Word → Word → Word) (fmt : Word) (x y w : Vec) : Vec :=
  let on := fmtFlush fmt
  Vec.ofLanes fun j => flush on (f (flush on (x.lane j)) (flush on (y.lane j)) (flush on (w.lane j)))

/-- A lane-wise FP32 compare: FLUSH on the inputs, an integer result. -/
def lanewiseC (f : Word → Word → Bool) (fmt : Word) (x y _ : Vec) : Vec :=
  let on := fmtFlush fmt
  Vec.ofLanes fun j => bit32 (f (flush on (x.lane j)) (flush on (y.lane j)))

/-- Each of the 128 BF16 elements (R170). -/
def elementwiseBf16 (f : FV → FV → FV → FV) (_ : Word) (x y w : Vec) : Vec :=
  ofElems 16 128 fun e => toBf16 (f (ofBf16 (elemAt 16 x e)) (ofBf16 (elemAt 16 y e)) (ofBf16 (elemAt 16 w e)))

def lanesOf (v : Vec) : List Word := (List.range 64).map v.lane
/-- A scalar in lane 0 and zero in the others (R171). -/
def lane0 (w : Word) : Vec := w.setWidth 2048

/-- A reduction through the tree of Table 3.7 with FLUSH on the inputs and, for sums, on every node (R51). -/
def reduceF (node : Word → Word → Word) (fmt : Word) (_ y _ : Vec) : Vec :=
  let on := fmtFlush fmt
  lane0 (treeReduce (fun a b => flush on (node a b)) 6 ((lanesOf y).map (flush on)))

/-- Inclusive prefix sums of a list, above a sum so far. -/
def scanFrom (acc : Word) : List Word → List Word
  | [] => []
  | a :: r => (acc + a) :: scanFrom (acc + a) r

def ofList (ws : List Word) : Vec := BitVec.ofNat 2048 (ws.foldr (fun w acc => acc * 2 ^ 32 + w.toNat) 0)

def dot4 (x y w : Word) : Word :=
  w + ((List.range 4).map fun b =>
    ((x.extractLsb' (8 * b) 8).signExtend 32) * ((y.extractLsb' (8 * b) 8).signExtend 32)).foldr (· + ·) 0

def execVfAddF32 (s : State) : Out := vfOp (lanewiseF (fun x y _ => addF32 x y)) s
def execVfSubF32 (s : State) : Out := vfOp (lanewiseF (fun x y _ => subF32 x y)) s
def execVfMulF32 (s : State) : Out := vfOp (lanewiseF (fun x y _ => mulF32 x y)) s
def execVfFmaF32 (s : State) : Out := vfOp (lanewiseF (fun x y w => fmaF32 x y w)) s
def execVfFnmaF32 (s : State) : Out := vfOp (lanewiseF (fun x y w => fnmaF32 x y w)) s
def execVfMinF32 (s : State) : Out := vfOp (lanewiseF (fun x y _ => minF32 x y)) s
def execVfMaxF32 (s : State) : Out := vfOp (lanewiseF (fun x y _ => maxF32 x y)) s
def execVfAbsF32 (s : State) : Out := vfOp (lanewiseF (fun _ y _ => absF32 y)) s
def execVfLtF32 (s : State) : Out := vfOp (lanewiseC ltF32) s
def execVfLeF32 (s : State) : Out := vfOp (lanewiseC leF32) s
def execVfEqF32 (s : State) : Out := vfOp (lanewiseC eqF32) s
def execVfAddBf16 (s : State) : Out := vfOp (elementwiseBf16 (fun x y _ => x.add y)) s
def execVfMulBf16 (s : State) : Out := vfOp (elementwiseBf16 (fun x y _ => x.mul y)) s
def execVfFmaBf16 (s : State) : Out := vfOp (elementwiseBf16 (fun x y w => (x.mul y).add w)) s
def execVfAddS32 (s : State) : Out := vfOp (lanewise (fun x y _ => x + y)) s
def execVfSubS32 (s : State) : Out := vfOp (lanewise (fun x y _ => x - y)) s
def execVfMulS32 (s : State) : Out := vfOp (lanewise (fun x y _ => x * y)) s
def execVfMinS32 (s : State) : Out := vfOp (lanewise (fun x y _ => if y.slt x then y else x)) s
def execVfMaxS32 (s : State) : Out := vfOp (lanewise (fun x y _ => if x.slt y then y else x)) s
def execVfAnd (s : State) : Out := vfOp (lanewise (fun x y _ => x &&& y)) s
def execVfOr (s : State) : Out := vfOp (lanewise (fun x y _ => x ||| y)) s
def execVfXor (s : State) : Out := vfOp (lanewise (fun x y _ => x ^^^ y)) s
def execVfShl (s : State) : Out := vfOp (lanewise (fun x y _ => x <<< shCount y)) s
def execVfShr (s : State) : Out := vfOp (lanewise (fun x y _ => x >>> shCount y)) s
def execVfSar (s : State) : Out := vfOp (lanewise (fun x y _ => x.sshiftRight (shCount y))) s
def execVfSel (s : State) : Out := vfOp (lanewise (fun x y w => if y ≠ 0 then x else w)) s
def execVfDot4S8 (s : State) : Out := vfOp (lanewise (fun x y w => dot4 x y w)) s
def execVfRsumF32 (s : State) : Out := vfOp (reduceF addF32) s
def execVfRmaxF32 (s : State) : Out := vfOp (reduceF maxF32) s
def execVfRsumS32 (s : State) : Out := vfOp (fun _ _ y _ => lane0 ((lanesOf y).foldr (· + ·) 0)) s
def execVfScanS32 (s : State) : Out := vfOp (fun _ _ y _ => ofList (scanFrom 0 (lanesOf y))) s
def execVfCnt (s : State) : Out :=
  vfOp (fun _ _ y _ => lane0 (BitVec.ofNat 32 ((lanesOf y).filter fun w => w != 0).length)) s

/-! ### vx -/

/-- Writes vx.q and vx.qs with latency 3 (R166). -/
def exposeX (s : State) (t : Trig) (q : Vec) (qs : Word) (ops : List PV) : State :=
  (s.expose t qVx 3 (vectorOut q ops)).expose t qVxS 3 (scalarOut qs ops)

/-- An operation of vx that gives vx.q and, in vx.qs, some word. -/
def vxOpS (f : Word → Vec → Vec → Vec → Vec × Word) (s : State) : Out :=
  onTrigger s fun t x =>
    let o := x.port oVxO
    let o2 := x.port oVxO2
    let r := f x.r.fmt o.val t.y.val o2.val
    exposeX s t r.1 r.2 [o, t.y, o2]

/-- An operation of vx that leaves lane 0 of vx.q in vx.qs. -/
def vxOp (f : Word → Vec → Vec → Vec → Vec) (s : State) : Out :=
  vxOpS (fun fmt x y w => let q := f fmt x y w; (q, q.lane 0)) s

def laneIdx (v : Vec) (j m : Nat) : Nat := (v.lane j).toNat % m

/-- Lane i of the 128-lane sequence of x then y (R172). -/
def lane128 (x y : Vec) (i : Nat) : Word := if i < 64 then x.lane i else y.lane (i - 64)

def execVxPerm (s : State) : Out := vxOp (fun _ x y w => Vec.ofLanes fun j => lane128 x w (laneIdx y j 128)) s
def execVxBcast (s : State) : Out := vxOp (fun _ x y _ => Vec.ofLanes fun _ => x.lane (laneIdx y 0 64)) s
def execVxRotl (s : State) : Out :=
  vxOp (fun _ x y _ => Vec.ofLanes fun j => x.lane ((j + 64 - laneIdx y 0 64) % 64)) s
def zip (off : Nat) (x y : Vec) : Vec :=
  Vec.ofLanes fun j => if j % 2 = 0 then x.lane (j / 2 + off) else y.lane (j / 2 + off)
def execVxZipLo (s : State) : Out := vxOp (fun _ x y _ => zip 0 x y) s
def execVxZipHi (s : State) : Out := vxOp (fun _ x y _ => zip 32 x y) s
def execVxUnzipLo (s : State) : Out := vxOp (fun _ x y _ => Vec.ofLanes fun j => lane128 x y (2 * j)) s
def execVxUnzipHi (s : State) : Out := vxOp (fun _ x y _ => Vec.ofLanes fun j => lane128 x y (2 * j + 1)) s
def execVxExt (s : State) : Out :=
  vxOpS (fun _ x y _ => (Vec.ofLanes fun _ => x.lane (laneIdx y 0 64), x.lane (laneIdx y 0 64))) s
def execVxIns (s : State) : Out :=
  vxOp (fun _ x y w => Vec.ofLanes fun j => if j = laneIdx w 0 64 then y.lane 0 else x.lane j) s

/-! ### Conversions (R173, R174) -/

/-- Widens part p of y, of elements of b bits, through the value of each. -/
def widenPart (b : Nat) (val : Nat → FV) (y w : Vec) : Vec :=
  let p := laneIdx w 0 (2048 / b / 64)
  Vec.ofLanes fun j => f32 (val (elemAt b y (64 * p + j)))

/-- x with part p, of elements of b bits, replaced by the converted lanes of y. -/
def narrowPart (b : Nat) (enc : FV → Nat) (x y w : Vec) : Vec :=
  let p := laneIdx w 0 (2048 / b / 64)
  ofElems b (2048 / b) fun e => if e / 64 = p then enc (ofF32 (y.lane (e % 64))) else elemAt b x e

/-- A narrowing conversion rounds by RND, and a reserved code faults. -/
def narrow (f : Rnd → Word → Vec → Vec → Vec → Vec) (s : State) : Out :=
  checked s checkRnd fun t x =>
    let o := x.port oVxO
    let o2 := x.port oVxO2
    let q := f (fmtRound x.r.fmt) x.r.fmt o.val t.y.val o2.val
    exposeX s t q (q.lane 0) [o, t.y, o2]

def execVxCvtF32Bf16Lo (s : State) : Out := vxOp (fun _ _ y _ => Vec.ofLanes fun j => f32 (ofBf16 (elemAt 16 y j))) s
def execVxCvtF32Bf16Hi (s : State) : Out := vxOp (fun _ _ y _ => Vec.ofLanes fun j => f32 (ofBf16 (elemAt 16 y (64 + j)))) s
def execVxCvtBf16F32 (s : State) : Out :=
  narrow (fun m _ x y _ => ofElems 16 128 fun e =>
    bf16.encode m true (ofF32 (if e < 64 then y.lane e else x.lane (e - 64)))) s
def execVxCvtF32E4m3 (s : State) : Out := vxOp (fun _ _ y w => widenPart 8 e4m3.decode y w) s
def execVxCvtE4m3F32 (s : State) : Out := narrow (fun m _ x y w => narrowPart 8 (e4m3.encode m true) x y w) s
def execVxCvtF32E5m2 (s : State) : Out := vxOp (fun _ _ y w => widenPart 8 e5m2.decode y w) s
def execVxCvtE5m2F32 (s : State) : Out := narrow (fun m _ x y w => narrowPart 8 (e5m2.encode m true) x y w) s
def execVxCvtF32L6 (s : State) : Out := vxOp (fun _ _ y w => widenPart 8 lnsDecode y w) s
def execVxCvtL6F32 (s : State) : Out := narrow (fun m _ x y w => narrowPart 8 (lnsEncode m) x y w) s

/-- Plain two's complement of 8 bits (R173). -/
def plainS8 : IntFmt := { w := 8, signed := true, subst := 0 }
def execVxCvtF32S8 (s : State) : Out := vxOp (fun _ _ y w => widenPart 8 (fun e => FV.ofInt (plainS8.decode e)) y w) s
def execVxCvtS8F32 (s : State) : Out := narrow (fun m _ x y w => narrowPart 8 (plainS8.encode m) x y w) s

/-- cvt.f32.int: FMT_RESERVED for a reserved width, INT_RESERVED for a reserved code in the part (R174). -/
def checkCvtInt (_ : State) (t : Trig) (x : Ctx) : Option Fail :=
  if intReserved 6 x.r.fmt then some (fmtFail x.r.fmt)
  else
    let f := fmtInt x.r.fmt
    let p := laneIdx (x.port oVxO2).val 0 (2048 / f.w / 64)
    ((List.range 64).find? fun j => f.traps (elemAt f.w t.y.val (64 * p + j))).map fun j =>
      { cls := 6, code := 0x60, subcode := 0, value := 64 * p + j }

def execVxCvtF32Int (s : State) : Out :=
  checked s checkCvtInt fun t x =>
    let o2 := x.port oVxO2
    let f := fmtInt x.r.fmt
    let q := widenPart f.w (fun e => FV.ofInt (f.decode e)) t.y.val o2.val
    exposeX s t q (q.lane 0) [t.y, o2]

def checkIntCvt (s : State) (t : Trig) (x : Ctx) : Option Fail :=
  if intReserved 6 x.r.fmt then some (fmtFail x.r.fmt) else checkRnd s t x

def execVxCvtIntF32 (s : State) : Out :=
  checked s checkIntCvt fun t x =>
    let o := x.port oVxO
    let o2 := x.port oVxO2
    let f := fmtInt x.r.fmt
    let q := narrowPart f.w (f.encode (fmtRound x.r.fmt)) o.val t.y.val o2.val
    exposeX s t q (q.lane 0) [o, t.y, o2]

/-! ### MX blocks (R175) -/

/-- The element format that w names: 3 E4M3, 4 E5M2, 5 LNS6. -/
def mxSel (w : Vec) : Nat := laneIdx w 0 4 + 3
def checkMx (_ : State) (_ : Trig) (x : Ctx) : Option Fail :=
  let w0 := (x.port oVxO2).val.lane 0
  failIf (w0.toNat % 4 == 3) (illTrig w0.toNat)

def blockLanes (y : Vec) (b : Nat) : List FV := (List.range 32).map fun j => ofF32 (y.lane (32 * b + j))

/-- The packed MX layout of y. -/
def packMx (code : Nat) (y : Vec) : Vec :=
  let b0 := mxQuantise code (blockLanes y 0)
  let b1 := mxQuantise code (blockLanes y 1)
  let es := (b0.2 ++ b1.2).foldr (fun e acc => acc * 256 + e) 0
  BitVec.ofNat 2048 (es + 2 ^ 512 * (b0.1 + 256 * b1.1))

def unpackMx (code : Nat) (y : Vec) : Vec :=
  Vec.ofLanes fun j => f32 (mxDecode code (elemAt 8 y (64 + j / 32)) (elemAt 8 y j))

def execVxMxq (s : State) : Out :=
  checked s checkMx fun t x =>
    let o2 := x.port oVxO2
    let q := packMx (mxSel o2.val) t.y.val
    exposeX s t q (q.lane 16) [t.y, o2]

def execVxMxdq (s : State) : Out :=
  checked s checkMx fun t x =>
    let o2 := x.port oVxO2
    let q := unpackMx (mxSel o2.val) t.y.val
    exposeX s t q (q.lane 0) [t.y, o2]

/-! ### Functions, compaction, histogram (R176, R177) -/

def approx (f : Word → Word) (fmt : Word) (_ y _ : Vec) : Vec :=
  let on := fmtFlush fmt
  Vec.ofLanes fun j => flush on (f (flush on (y.lane j)))

def execVxExp2 (s : State) : Out := vxOp (approx exp2F32) s
def execVxLog2 (s : State) : Out := vxOp (approx log2F32) s
def execVxRcp (s : State) : Out := vxOp (approx rcpF32) s
def execVxRsq (s : State) : Out := vxOp (approx rsqF32) s
def execVxTanh (s : State) : Out := vxOp (approx tanhF32) s

def execVxCmpk (s : State) : Out :=
  vxOpS (fun _ x y _ =>
    let sel := (List.range 64).filter fun j => y.lane j != 0
    (ofList (sel.map x.lane), BitVec.ofNat 32 sel.length)) s

def execVxHist (s : State) : Out :=
  vxOpS (fun _ x y _ =>
    (Vec.ofLanes fun b => x.lane b + BitVec.ofNat 32 ((lanesOf y).filter fun w => w.toNat == b).length,
     BitVec.ofNat 32 ((lanesOf y).filter fun w => w.toNat < 64).length)) s

end Sys2Proof.Machine
end

