-- ==== Sys2Proof/Machine/Sluice.lean ====
section
/-! DEFINITION. Codebook banks and the sluice (R178 to R191): views, vx.cbx, entry writes, loads, selection, ownership. -/
namespace Sys2Proof.Machine
open Sys2Proof

/-! ### Geometry (Table 11.5) -/

def cbOutBits : Nat → Nat
  | 0 => 16
  | 3 => 64
  | _ => 32
/-- Indices per slice. -/
def cbPerSlice (mode : Nat) : Nat := 2048 / cbOutBits mode
/-- Slices of a vector of indices of width w. -/
def cbSlices (mode w : Nat) : Nat := 2048 / w / cbPerSlice mode

/-! ### Banks -/

def CoreState.bank (k : CoreState) (b : Nat) : Bank := vget k.banks b Bank.reset
def State.bank (s : State) (core b : Nat) : Bank := (s.core core).bank b
def State.modBank (s : State) (core b : Nat) (f : Bank → Bank) : State :=
  s.modCore core fun k => { k with banks := vset k.banks b (f (k.bank b)) }

/-- An entry write takes effect (R184). A write of one half keeps the mark of the other. -/
def Bank.apply (b : Bank) (w : CbWrite) : Bank :=
  { b with entries := b.entries.set w.index w.entry 0,
           valid := if w.valid then b.valid ||| (1#256 <<< w.index) else b.valid &&& ~~~(1#256 <<< w.index) }

/-- The bank with every write of its shadow done. -/
def Bank.settled (b : Bank) : Bank := { b.writes.foldl Bank.apply b with writes := [] }

/-- The writes due by a cycle take effect, in issue order. -/
def Bank.landed (b : Bank) (cyc : Nat) : Bank :=
  { (b.writes.filter fun w => w.due ≤ cyc).foldl Bank.apply b with writes := b.writes.filter fun w => cyc < w.due }

def Bank.entry (b : Bank) (i : Nat) : DWord := b.entries.get i 0
def Bank.book (b : Bank) : Book := { entries := b.entries, valid := b.valid, poi := b.poi }

/-! ### Expansion (R180) -/

/-- Index t of slice j of a vector. -/
def cbIndex (fmt : Word) (v : Vec) (j t : Nat) : Nat :=
  elemAt (fmtCbw fmt) v (j * cbPerSlice (fmtCbmode fmt) + t)

/-- The lowest index of a slice whose entry is invalid, when that faults (R180, R181). -/
def cbInvalid (fmt : Word) (b : Bank) (v : Vec) (j : Nat) : Option Nat :=
  if fmtIzero fmt then none
  else ((List.range (cbPerSlice (fmtCbmode fmt))).map (cbIndex fmt v j)).find? fun i => !b.valid.getLsbD i

/-- The expanded slice: an invalid entry gives zero; the mark of an entry marks the whole value. -/
def cbExpand (fmt : Word) (b : Bank) (v : Vec) (j : Nat) : PV :=
  let mode := fmtCbmode fmt
  let out := ofElems (cbOutBits mode) (cbPerSlice mode) fun t =>
    let i := cbIndex fmt v j t
    if b.valid.getLsbD i then (b.entry i).toNat % 2 ^ cbOutBits mode else 0
  PV.ofVec out ((List.range (cbPerSlice mode)).any fun t => b.poi.getLsbD (cbIndex fmt v j t))

def cbInvalidFail (bank i : Nat) : Fail := { cls := 4, code := 0x40, subcode := 0, value := i + 256 * bank }
/-- CB_BANK for a bank that the image does not claim (R181). -/
def checkClaim (s : State) (c bank : Nat) : Option Fail :=
  failIf ((((s.kernelOf c).map (·.cbmask)).getD 0) / 2 ^ bank % 2 == 0) { cls := 4, code := 0x41, subcode := 0, value := bank }

def owns (x : Ctx) (b : Bank) : Bool := b.owner == some x.barge

/-- The contents of a save area: its initial image until the bank was first saved (R189). -/
def Barge.saveArea (b : Barge) (core bank : Nat) : Book :=
  b.books.get (core * 4 + bank) { entries := [], valid := 0, poi := 0 }
def State.saveArea (s : State) (barge core bank : Nat) : Book :=
  ((s.barge? barge).map fun g => g.saveArea core bank).getD { entries := [], valid := 0, poi := 0 }

/-- The bank as a read by context c finds it: before its take, with the contents that the take will restore (R189). The checks of a bundle
whose bank is still to be taken are made on them, since a bundle that fails a check starts no take (DEDUCED, log entry 130). -/
def State.activeBank (s : State) (c : Nat) (x : Ctx) : Bank :=
  let b := s.bank (coreOf c) (fmtCbank x.r.fmt)
  if owns x b then b
  else
    let a := s.saveArea x.barge (coreOf c) (fmtCbank x.r.fmt)
    { b with entries := a.entries, valid := a.valid, poi := a.poi, writes := [] }

/-- CB_INVALID for an invalid index of a slice. -/
def checkValid (s : State) (t : Nat) (x : Ctx) (v : Vec) (j : Nat) : Option Fail :=
  (cbInvalid x.r.fmt (s.activeBank t x) v j).map (cbInvalidFail (fmtCbank x.r.fmt))

/-! ### Views (R179) -/

/-- The vector register and the slice of a view code. -/
def viewReg (src : Nat) : Nat := (src - 0x180) / 4
def viewSlice (src : Nat) : Nat := (src - 0x180) % 4
def viewVec (x : Ctx) (src : Nat) : PV := vget x.r.vr (x.r.vIndex (viewReg src)) PV.zero

/-- The illegal-bundle check of a view: a slice that does not exist. -/
def checkViewSlice (x : Ctx) (src : Nat) : Option Fail :=
  failIf (cbSlices (fmtCbmode x.r.fmt) (fmtCbw x.r.fmt) ≤ viewSlice src) { cls := 1, code := 0x11, subcode := 0, value := src }

/-- The sluice checks of a view. -/
def checkView (s : State) (c : Nat) (x : Ctx) (src : Nat) : Option Fail :=
  (checkClaim s c (fmtCbank x.r.fmt)).orElse fun _ => checkValid s c x (viewVec x src).val (viewSlice src)

/-- The value of a view, read at issue; a mark on the index vector marks it too. -/
def State.viewValue (s : State) (c : Nat) (x : Ctx) (src : Nat) : PV :=
  let v := viewVec x src
  let e := cbExpand x.r.fmt (s.activeBank c x) v.val (viewSlice src)
  if v.bad then PV.ofVec e.val true else e

/-! ### vx.cbx (R183) -/

def cbxSlice (x : Ctx) : Nat := laneIdx (x.port oVxO2).val 0 16

def checkCbx (s : State) (t : Trig) (x : Ctx) : Option Fail :=
  let j := cbxSlice x
  (failIf (cbSlices (fmtCbmode x.r.fmt) (fmtCbw x.r.fmt) ≤ j) (illTrig j)).orElse fun _ =>
  (checkClaim s t.ctx (fmtCbank x.r.fmt)).orElse fun _ => checkValid s t.ctx x t.y.val j

def execVxCbx (s : State) : Out :=
  checked s checkCbx fun t x =>
    let q := cbExpand x.r.fmt (s.activeBank t.ctx x) t.y.val (cbxSlice x)
    exposeX s t q.val (q.val.lane 0) [t.y, x.port oVxO2, q]

/-! ### sy.cbwr, sy.cbld, sy.cbsel (R185 to R187) -/

def cbwrBank (y : Word) : Nat := field y 8 2

def checkCbwr (s : State) (t : Trig) (_ : Ctx) : Option Fail :=
  let y := t.y.scalar
  (failIf (field y 12 20 != 0) (illTrig y.toNat)).orElse fun _ => checkClaim s t.ctx (cbwrBank y)

/-- The write is computed on the entry as it stands after the writes before it, and holds from the fourth cycle on. -/
def cbWriteOf (b : Bank) (y d : Word) (cyc : Nat) : CbWrite :=
  let i := field y 0 8
  let e := b.settled.entry i
  { due := cyc + 4, index := i, valid := y.getLsbD 11,
    entry := if y.getLsbD 10 then d ++ e.extractLsb' 0 32 else e.extractLsb' 32 32 ++ d }

def execSyCbwr (s : State) : Out :=
  checked s checkCbwr fun t x =>
    let y := t.y.scalar
    s.modBank (coreOf t.ctx) (cbwrBank y) fun b =>
      { b with writes := b.writes ++ [cbWriteOf b y (x.portW oSyO) t.cyc], gen := b.gen + 1, owner := some x.barge }

def cbldCount (y : Word) : Nat := field y 5 9
def cbldFlag (y : Word) : Nat := field y 2 3
def cbldBank (y : Word) : Nat := field y 0 2

def checkCbld (s : State) (t : Trig) (x : Ctx) : Option Fail :=
  let y := t.y.scalar
  let a := (x.portW oSyO).toNat
  let n := cbldCount y
  (failIf (field y 14 18 != 0 || n == 0 || 256 < n) (illTrig y.toNat)).orElse fun _ =>
  (failIf (!addrLegal a (8 * n) 32) (illTrig a)).orElse fun _ => checkClaim s t.ctx (cbldBank y)

/-- The n entries at a scratchpad address, with their marks. -/
def State.cbSource (s : State) (c a n : Nat) : List (DWord × Bool) :=
  (List.range n).map fun i =>
    let r := s.seenBytes c 0 (s.physList c (a + 8 * i) 8)
    (BitVec.ofNat 64 (leNat r.1), r.2.any id)

def execSyCbld (s : State) : Out :=
  checked s checkCbld fun t x =>
    let y := t.y.scalar
    let (id, s1) := s.ticket
    let ld : CbLoad := { id := id, ctx := t.ctx, core := coreOf t.ctx, bank := cbldBank y, addr := x.portW oSyO,
                         count := cbldCount y, flag := cbldFlag y,
                         source := none }
    let s2 := (s1.modBank (coreOf t.ctx) (cbldBank y) fun b => { b with busy := some id, owner := some x.barge }).modRegs t.ctx
      fun r => r.clearFlag (cbldFlag y)
    { s2 with wk := { s2.wk with cbLoads := s2.wk.cbLoads ++ [ld] } }

def checkCbsel (_ : State) (t : Trig) (_ : Ctx) : Option Fail :=
  failIf (field t.y.scalar 2 30 != 0) (illTrig t.y.scalar.toNat)

def execSyCbsel (s : State) : Out :=
  checked s checkCbsel fun t _ =>
    s.modRegs t.ctx fun r => r.writeFmt t.cyc 0x00300000#32 (BitVec.ofNat 32 (t.y.scalar.toNat % 4 * 2 ^ 20))

/-! ### The events -/

/-- CBWR_VISIBLE: the entry writes whose shadow has ended become visible on the core. -/
def execCbwrVisible (core : Nat) (s : State) : Out :=
  .next (s.modCore core fun k => { k with banks := k.banks.map fun b => b.landed k.cyc })

/-- Entries chosen between the source as it stood at issue and at completion: a store made while the load runs may or may
not be seen, entry by entry (R186). -/
def chooseEntries (n : Nat) : List (DWord × Bool) → List (DWord × Bool) → List (DWord × Bool)
  | a :: as, b :: bs => (if Config.freeBit n then b else a) :: chooseEntries (n + 1) as bs
  | _, _ => []

/-- The map of entries 0, 1, … of a list, above index i. -/
def entryMap (i : Nat) : List DWord → Map DWord
  | [] => []
  | e :: es => if e = 0 then entryMap (i + 1) es else (i, e) :: entryMap (i + 1) es

def lowBits (n : Nat) : BitVec 256 := BitVec.ofNat 256 (2 ^ n - 1)

/-- Ends a codebook load with its entries: they become valid and those above them invalid, which keep their bits; the generation advances,
the bank stops being busy and the flag is set. -/
def State.endCbld (s : State) (l : CbLoad) (es : List (DWord × Bool)) : State :=
  let marks := (List.range l.count).foldl (fun (m : BitVec 256) i => if (es.getD i (0, false)).2 then m ||| (1#256 <<< i) else m) 0
  let s1 := s.modBank l.core l.bank fun q =>
    let b := q.settled
    { b with entries := entryMap 0 (es.map Prod.fst) ++ b.entries.filter (fun e => l.count ≤ e.1), valid := lowBits l.count,
             poi := marks ||| (b.poi &&& ~~~lowBits l.count), busy := none, gen := b.gen + 1 }
  { s1 with freeNo := s1.freeNo + l.count,
            wk := { s1.wk with cbLoads := s1.wk.cbLoads.filter fun y => y.id != l.id } }.setFlag l.ctx l.flag

/-- take of R189 as it completes: the old owner's contents are saved if changed, the requester's area is loaded unless the
request is a cbld, and the owner changes. -/
def State.takeBank (s : State) (core bank barge : Nat) (isLoad : Bool) : State :=
  let b := (s.bank core bank).settled
  let s1 := match b.owner with
    | some o => if b.gen ≠ b.saved then s.modBarge o fun g => { g with books := g.books.put (core * 4 + bank) b.book } else s
    | none => s
  let area := s1.saveArea barge core bank
  s1.modBank core bank fun _ =>
    if isLoad then { b with owner := some barge, saved := b.gen }
    else { b with entries := area.entries, valid := area.valid, poi := area.poi, owner := some barge, saved := b.gen }

/-- CODEBOOK_TAKE: the take in progress on a core ends, and its requester is blocked no longer. -/
def execCodebookTake (core : Nat) (s : State) : Out :=
  match (s.core core).take with
  | none => .next s
  | some (c, bank, isLoad) =>
    .next ((s.takeBank core bank (((s.ctx? c).map (·.barge)).getD 0) isLoad).modCore core fun k => { k with take := none })

end Sys2Proof.Machine
end

