-- ==== Sys2Proof/Machine/Scratch.lean ====
section
/-! DEFINITION. The ls unit (R196 to R212): plain loads and stores, full/empty operations, atomics, the fence, barrier objects and
stream ports. Plain stores enter the store gate (R315). Every other operation is an entry of State.wk.ls, performed when
the orders of R196, R200, R202, R269 and R277 allow it and then delivered. -/
namespace Sys2Proof.Machine
open Sys2Proof

/-! ### Kinds, by position from trigger code 0x2c0 (Table 5.8) -/

/-- Bytes that the operation moves at its address: 0 for none. -/
def lsWidth (code : Nat) : Nat :=
  match code with
  | 0 | 1 | 6 => 1
  | 2 | 3 | 7 => 2
  | 5 | 9 | 14 | 15 | 16 => 256
  | 17 | 18 | 19 | 20 | 29 | 30 => 0
  | 25 | 26 | 27 | 28 => 16
  | _ => 4

def lsIsAcquire (code : Nat) : Bool := [10, 11, 14, 15, 27].contains code
def lsIsRelease (code : Nat) : Bool := [12, 13, 16, 17, 26].contains code
/-- F/E operations that wait for a state of their granules: full (true) or empty (Table 13.3). -/
def lsWaits (code : Nat) : Option Bool :=
  if [10, 11, 14, 15].contains code then some true else if [12, 16].contains code then some false else none
/-- Operations that bind a value. -/
def lsBinds (code : Nat) : Bool := code ≤ 5 || [10, 11, 14, 15, 19].contains code || (21 ≤ code && code ≤ 28)
/-- Operations that change scratchpad bytes or F bits. -/
def lsWrites (code : Nat) : Bool := [11, 12, 13, 15, 16, 17, 18].contains code || (21 ≤ code && code ≤ 26)
def lsIsBar (code : Nat) : Bool := 25 ≤ code && code ≤ 28
/-- Operations that write ls.q. -/
def lsHasResult (code : Nat) : Bool := lsBinds code || code == 20 || code == 30

/-- The granules that an operation touches: an address in each. n is the count of setf and sete. -/
def lsGranules (code a n : Nat) : List Nat :=
  if code = 17 ∨ code = 18 then granules a (32 * n) else if code = 20 ∨ 29 ≤ code then []
  else granules a (max 1 (lsWidth code))

/-! ### Checks at issue (R194, R199, R203 to R206) -/

def lsAddr (t : Trig) : Nat := t.y.scalar.toNat
def lsCount (x : Ctx) : Nat := (x.portW oLsO).toNat

/-- R194 for an access of the operation's width. -/
def checkLs (code : Nat) (_ : State) (t : Trig) (_ : Ctx) : Option Fail :=
  let n := lsWidth code
  failIf (!addrLegal (lsAddr t) (max 1 n) (max 1 (alignOf n))) (illTrig (lsAddr t))

/-- setf and sete: an address aligned to 32 and 1 to 8192 granules inside the core. -/
def checkSetf (_ : State) (t : Trig) (x : Ctx) : Option Fail :=
  (failIf (lsCount x < 1 || 8192 < lsCount x) (illTrig (lsCount x))).orElse fun _ =>
    failIf (!addrLegal (lsAddr t) (32 * lsCount x) 32) (illTrig (lsAddr t))

/-- bar.init and bar.arrive: a count of 0 is illegal. -/
def checkBarCount (s : State) (t : Trig) (x : Ctx) : Option Fail :=
  (checkLs 25 s t x).orElse fun _ => failIf (lsCount x == 0) (illTrig 0)

/-- bar.wait: bits [31:4] of the phase must be zero. -/
def checkBarWait (s : State) (t : Trig) (x : Ctx) : Option Fail :=
  let p := (x.port oLsO2).scalar
  (checkLs 27 s t x).orElse fun _ => failIf (field p 4 28 != 0) (illTrig p.toNat)

/-! ### Order -/

/-- The context's operations issued before ticket id and not yet performed. -/
def State.lsBefore (s : State) (c id : Nat) : List LsOp :=
  s.wk.ls.filter fun o => o.ctx == c && o.id < id && o.done.isNone

def Ctx.gatedBefore (x : Ctx) (id : Nat) : List GStore := x.gate.filter fun g => !g.isGlobal && g.opId < id

/-- Pushed elements not yet written. -/
def Ctx.pushedBefore (x : Ctx) (id : Nat) : Bool :=
  (List.range 4).any fun j => match vget x.r.binds (4 + j) none with
    | some b => b.buf.any fun e => e.id < id
    | none => false

/-- Global operations, by position from 0x320, that bind a value. -/
def gvBinds (code : Nat) : Bool := [0, 1, 4, 8, 9, 10, 11, 12, 13, 14].contains code

/-- Loads of the context before ticket id that have not bound their value (R277). -/
def State.unbound (s : State) (c id : Nat) : Bool :=
  ((s.lsBefore c id).any fun o => lsBinds o.code) || s.wk.gv.any fun o => o.ctx == c && o.id < id && gvBinds o.code

/-- Every earlier scratchpad store of the context has been performed (R200). -/
def State.storesDone (s : State) (c : Nat) (x : Ctx) (id : Nat) : Bool :=
  (x.gatedBefore id).isEmpty && !x.pushedBefore id && !((s.lsBefore c id).any fun o => lsWrites o.code)

def widthOf (wide : Bool) : Nat := if wide then 256 else 4
def elementSize (b : Binding) : Nat := widthOf b.wide

/-- The address of element e of a binding (R210). -/
def elementAddr (b : Binding) (e : Nat) : Nat :=
  (window b.b b.k ((b.a.toNat : Int) + ((e % b.c1 : Nat) : Int) * b.n.toInt + ((e / b.c1 : Nat) : Int) * b.m.toInt)).toNat

/-- The physical addresses of element e. -/
def State.elementPhys (s : State) (c : Nat) (b : Binding) (e : Nat) : List Nat :=
  s.physList c (elementAddr b e) (elementSize b)

/-- The physical addresses of a buffered element. -/
def State.elemPhys (s : State) (c : Nat) (e : Elem) : List Nat := s.physList c e.addr (widthOf e.wide)

/-- The physical addresses of pushed elements, with tickets before id, that are not yet written. -/
def State.pushedPhys (s : State) (c : Nat) (x : Ctx) (id : Nat) : List Nat :=
  (List.range 4).flatMap fun j => match vget x.r.binds (4 + j) none with
    | some b => (b.buf.filter fun e => e.id < id).flatMap (s.elemPhys c)
    | none => []

/-- Whether the context has waited, since before ticket id, for a round of a network barrier: an acquire not yet complete
(R234). -/
def State.awaiting (s : State) (x : Ctx) (id : Nat) : Bool :=
  s.wk.rounds.any fun r => r.waiting.any fun w => w.1 == x.pid && w.2 / 4 < id

def sharesGranule (xs ys : List Nat) : Bool := xs.any fun a => ys.any fun b => a / 32 == b / 32

/-- Whether an operation names a scratchpad address: all but the fence and the two that bind ports, whose operand is no address. -/
def lsAddressed (code : Nat) : Bool := code != 20 && code < 29

/-- Whether an earlier remote F/E operation of the context still waits at a core of the cluster: what the context then sends to that
core is held behind it (R200). -/
def State.heldAt (s : State) (c id core : Nat) : Bool :=
  (s.lsBefore c id).any fun e => (lsWaits e.code).isSome && addrCore e.addr.toNat == core && !isLocal c e.addr.toNat

/-- Whether an earlier operation of the context to one of these granules has not been performed (R196). -/
def State.granuleBusy (s : State) (c id : Nat) (ps : List Nat) : Bool :=
  (s.lsBefore c id).any fun o => sharesGranule ((lsGranules o.code o.addr.toNat o.o.scalar.toNat).map (s.phys c)) ps

/-- Whether an earlier acquire of the context, or its ls.fence, still holds what follows it (R200, R202, R234). -/
def State.acquiring (s : State) (x : Ctx) (c id : Nat) : Bool :=
  ((s.lsBefore c id).any fun e => lsIsAcquire e.code || e.code == 20) || s.awaiting x id

/-- The writes buffered under the bindings of an o port, before ticket id. -/
def Ctx.portPushed (x : Ctx) (p id : Nat) : Bool :=
  4 ≤ p && match vget x.r.binds p none with
    | some b => b.buf.any fun e => e.id < id
    | none => false

/-- The forms that write nothing and close no region: they observe the context's own gated stores, and do not wait for their drain (R315,
R316). -/
def lsSeesGate (code : Nat) : Bool := code ≤ 5 || code == 10 || code == 14 || code == 19

/-- Whether the orders of the context's program let operation o be performed now. sunbind makes no access: it waits for the writes
of its own port (R212) and for an earlier fence (R202). -/
def State.lsMay (s : State) (x : Ctx) (o : LsOp) : Bool :=
  let before := s.lsBefore o.ctx o.id
  let mine := lsGranules o.code o.addr.toNat o.o.scalar.toNat
  if o.code = 30 then !(before.any fun e => e.code == 20) && !x.portPushed (field o.addr 0 3) o.id
  else
  !s.acquiring x o.ctx o.id && !(lsAddressed o.code && s.heldAt o.ctx o.id (addrCore o.addr.toNat)) &&
  !(before.any fun e => sharesGranule (lsGranules e.code e.addr.toNat e.o.scalar.toNat) mine) &&
  (!lsIsRelease o.code || s.storesDone o.ctx x o.id) &&
  (!lsWrites o.code || !s.unbound o.ctx o.id) &&
  (lsSeesGate o.code || !(x.gatedBefore o.id).any fun g =>
      g.cells.any fun p => mine.any fun a => s.phys o.ctx a / 32 == p.1 / 32) &&
  !sharesGranule (s.pushedPhys o.ctx x o.id) (mine.map (s.phys o.ctx)) &&
  (o.code != 20 || (before.isEmpty && s.storesDone o.ctx x o.id))

/-- The F condition of a waiting form: all its granules in the state it waits for, on a core that is not fenced. -/
def State.lsReady (s : State) (o : LsOp) : Bool :=
  match lsWaits o.code with
  | none => true
  | some f =>
    let gs := (lsGranules o.code o.addr.toNat 1).map (s.phys o.ctx)
    gs.all fun p => s.fbit p == f && !(s.core (coreOfPhys p)).fenced

/-! ### What each operation does when it is performed -/

/-- A loaded value: the low bytes in lane 0, sign-extended for the .s forms, or the whole vector; each word with its mark (R375, R376). -/
def loadedValue (code : Nat) (bs : List Byte) (bad : List Bool) : PV :=
  let n := leNat bs
  let p := bad.any id
  match code with
  | 0 => PV.ofWord ((BitVec.ofNat 8 n).signExtend 32) p
  | 2 => PV.ofWord ((BitVec.ofNat 16 n).signExtend 32) p
  | 5 | 14 | 15 => { val := BitVec.ofNat 2048 n, poi := marksOf bad }
  | _ => PV.ofWord (BitVec.ofNat 32 n) p

def State.lsLoad (s : State) (o : LsOp) : PV :=
  let r := s.seenBytes o.ctx o.id (s.physList o.ctx o.addr.toNat (lsWidth o.code))
  loadedValue o.code r.1 r.2

/-- The bytes that a store form carries. -/
def storeData (code : Nat) (o o2 : PV) : List Byte :=
  match code with
  | 6 => leBytes 1 o.scalar.toNat
  | 7 => leBytes 2 o.scalar.toNat
  | 9 | 16 => vecBytes o2.val
  | _ => wordBytes o.scalar

/-- The marks of the words that a store form carries. -/
def storePoi (code : Nat) (o o2 : PV) : BitVec 64 := if code = 9 ∨ code = 16 then o2.poi else if o.poi.getLsbD 0 then 1 else 0

def zipCells : List Nat → List Byte → List (Nat × Byte)
  | a :: as, b :: bs => (a, b) :: zipCells as bs
  | _, _ => []

def State.lsCells (s : State) (o : LsOp) : List (Nat × Byte) :=
  zipCells (s.physList o.ctx o.addr.toNat (lsWidth o.code)) (storeData o.code o.o o.o2)

/-- The F bits of an operation's granules change, but for those of a fenced core. -/
def State.lsFOn (s : State) (gs : List Nat) (b : Bool) : State := s.setFs (gs.filter fun p => !(s.core (coreOfPhys p)).fenced) b
def State.lsF (s : State) (o : LsOp) (b : Bool) : State :=
  s.lsFOn ((lsGranules o.code o.addr.toNat o.o.scalar.toNat).map (s.phys o.ctx)) b

/-- The new word of a scratchpad atomic (Table 13.4). -/
def amoWord (code : Nat) (old o o2 : Word) : Word :=
  match code with
  | 21 => old + o
  | 22 => if old = o then o2 else old
  | 23 => o
  | _ => if old.slt o then o else old

/-! ### Barrier objects (Table 13.5) -/

structure BarObj where
  pending : Nat
  expected : Nat
  phase : Nat
  overrun : Bool
  waiters : Nat
  completions : Nat
  deriving DecidableEq, Repr

def BarObj.ofNat (n : Nat) : BarObj where
  pending := n % 2 ^ 32
  expected := n / 2 ^ 32 % 2 ^ 32
  phase := n / 2 ^ 64 % 16
  overrun := n / 2 ^ 68 % 2 == 1
  waiters := n / 2 ^ 72 % 2 ^ 24
  completions := n / 2 ^ 96 % 2 ^ 32

def BarObj.toNat (b : BarObj) : Nat :=
  b.pending % 2 ^ 32 + 2 ^ 32 * (b.expected % 2 ^ 32) + 2 ^ 64 * (b.phase % 16) + (if b.overrun then 2 ^ 68 else 0) +
  2 ^ 72 * (b.waiters % 2 ^ 24) + 2 ^ 96 * (b.completions % 2 ^ 32)

def State.barPhys (s : State) (o : LsOp) : List Nat := s.physList o.ctx o.addr.toNat 16
def State.bar (s : State) (o : LsOp) : BarObj := BarObj.ofNat (leNat ((s.barPhys o).map s.byte))
def State.setBar (s : State) (o : LsOp) (b : BarObj) : State :=
  s.scratchStore (zipCells (s.barPhys o) (leBytes 16 b.toNat)) []

def State.modLs (s : State) (id : Nat) (f : LsOp → LsOp) : State :=
  { s with wk := { s.wk with ls := s.wk.ls.map fun o => if o.id = id then f o else o } }

def LsOp.finish (o : LsOp) (v : PV) : LsOp := { o with done := some v }
def num (n : Nat) : PV := PV.ofWord (BitVec.ofNat 32 n) false

/-- bar.init (R204): the object, the result and the fault. -/
def barInit (b : BarObj) (e addr : Nat) : BarObj × Nat × Option (Nat × Nat) :=
  if b.waiters ≠ 0 then (b, 0, some (0x51, addr + 2 ^ 32 * b.waiters))
  else ({ pending := e, expected := e, phase := 0, overrun := false, waiters := 0, completions := 0 }, 0, none)

/-- bar.arrive (R205). -/
def barArrive (b : BarObj) (c : Nat) : BarObj × Nat × Option (Nat × Nat) :=
  if b.pending < c then ({ b with overrun := true }, b.phase + 0x100, some (0x50, c))
  else if b.pending = c then
    ({ b with phase := (b.phase + 1) % 16, completions := b.completions + 1, pending := b.expected }, b.phase + 16, none)
  else ({ b with pending := b.pending - c }, b.phase, none)

/-- The cycle of the core that holds an address. -/
def State.holderCyc (s : State) (o : LsOp) : Nat := (s.core (clusterBase o.ctx + addrCore o.addr.toNat)).cyc

/-- Whether the timeout of a bar.wait that has reached its object has passed (R206): the cycle of the holder in which it expires is
over, with no completion of the phase in it. On a fenced core no wait ends (R195). -/
def State.waitExpired (s : State) (o : LsOp) : Bool :=
  match o.arrived with
  | some a => o.code == 27 && o.done.isNone && a + o.o.scalar.toNat < s.holderCyc o &&
      !(s.core (clusterBase o.ctx + addrCore o.addr.toNat)).fenced
  | none => false

/-- The waits on the object of o for a phase that is over return 0, or 1 where they had expired in an earlier cycle, and Waiters falls
for each (R206). -/
def State.releaseWaits (s : State) (o : LsOp) : State :=
  let b := s.bar o
  let ended := s.wk.ls.filter fun w => w.code == 27 && w.arrived.isSome && w.done.isNone &&
    s.barPhys w == s.barPhys o && w.o2.scalar.toNat != b.phase
  let s1 := ended.foldl (fun t w => t.modLs w.id (·.finish (num (if s.waitExpired w then 1 else 0)))) s
  if ended.isEmpty then s1 else s1.setBar o { b with waiters := b.waiters - ended.length }

/-- Performs an arrival or an initialisation. -/
def State.barChange (s : State) (o : LsOp) (r : BarObj × Nat × Option (Nat × Nat)) : State :=
  ((s.setBar o r.1).modLs o.id fun w =>
    { w.finish (num r.2.1) with late := r.2.2.map fun f => laterFault 5 f.1 f.2 o.slot o.bno }).releaseWaits o

/-- One update of a setf or a sete: the updates of its n granules are not one atomic step (R199), and are made one a step, upwards (DESIGN
CHOICE, log entry 21). -/
def State.lsSetStep (s : State) (o : LsOp) (b : Bool) : State :=
  let gs := (lsGranules o.code o.addr.toNat o.o.scalar.toNat).map (s.phys o.ctx)
  (s.lsFOn ((gs.drop o.pos).take 1) b).modLs o.id fun w =>
    if gs.length ≤ o.pos + 1 then w.finish PV.zero else { w with pos := o.pos + 1 }

/-- Performs an operation whose turn has come: its effect, and the value it will deliver. -/
def State.lsPerform (s : State) (o : LsOp) : State :=
  let fin (t : State) (v : PV) : State := t.modLs o.id (·.finish v)
  let fencedCore := (s.core (clusterBase o.ctx + addrCore o.addr.toNat)).fenced
  if o.code ≤ 5 ∨ o.code = 10 ∨ o.code = 14 then fin s (s.lsLoad o)
  else if o.code = 11 ∨ o.code = 15 then fin (s.lsF o false) (s.lsLoad o)
  else if o.code = 12 ∨ o.code = 13 ∨ o.code = 16 then
    fin ((s.scratchStore (s.lsCells o) (badCells (s.lsCells o) (storePoi o.code o.o o.o2))).lsF o true) PV.zero
  else if o.code = 17 then s.lsSetStep o true
  else if o.code = 18 then s.lsSetStep o false
  else if o.code = 19 then fin s (num (if s.fbit (s.phys o.ctx o.addr.toNat) then 1 else 0))
  else if o.code = 20 then fin s PV.zero
  else if o.code = 30 then fin s o.o
  else if o.code ≤ 24 then
    let old := s.lsLoad o
    let new := amoWord o.code old.scalar o.o.scalar o.o2.scalar
    let p := old.bad || o.o.bad || (o.code == 22 && o.o2.poi.getLsbD 0)
    let cells := zipCells (s.physList o.ctx o.addr.toNat 4) (wordBytes new)
    fin (s.scratchStore cells (allBad cells p)) old
  else if fencedCore then (if o.code = 27 then s else fin s (PV.ofWord 0 true))
  else if o.code = 25 then s.barChange o (barInit (s.bar o) o.o.scalar.toNat o.addr.toNat)
  else if o.code = 26 then s.barChange o (barArrive (s.bar o) o.o.scalar.toNat)
  else if o.code = 28 then fin s (PV.ofVec (BitVec.ofNat 2048 (s.bar o).toNat) false)
  else if o.code = 27 then
    let b := s.bar o
    if b.phase ≠ o.o2.scalar.toNat then fin s (num 0)
    else if o.o.scalar.toNat = 0 then fin s (num 1)
    else (s.setBar o { b with waiters := b.waiters + 1 }).modLs o.id fun w => { w with arrived := some (s.holderCyc o) }
  else fin s o.o

/-- Delivers a performed operation: ls.q, the fault that its response carries, and the end of the operation. -/
def State.lsDeliver (s : State) (o : LsOp) (v : PV) : State :=
  let s1 := { s with wk := { s.wk with ls := s.wk.ls.filter fun w => w.id != o.id } }
  let s2 := if lsHasResult o.code then s1.deliver o.ctx qLs o.id v else s1
  match o.late with
  | some f => s2.imprecise o.ctx f
  | none => s2

/-- The cycle from which a local operation's result may be read: the third after its issue (R196). -/
def lsDue (o : LsOp) : Nat := o.cyc + 3
/-- Whether an operation accesses the context's own core. -/
def LsOp.local (o : LsOp) : Bool := o.code < 29 && isLocal o.ctx o.addr.toNat

/-- LS_ACCESS_COMPLETE: the operation is performed if its turn has come, and delivered; a local one not before its third
cycle. -/
def execLsAccessComplete (id : Nat) (s : State) : Out :=
  match s.wk.ls.find? fun o => o.id == id with
  | none => .next s
  | some o =>
    match s.ctx? o.ctx with
    | none => .next s
    | some x =>
      let s1 := if o.done.isNone && o.arrived.isNone && s.lsMay x o && s.lsReady o then s.lsPerform o else s
      match s1.wk.ls.find? fun w => w.id == id with
      | none => .next s1
      | some w =>
        match w.done with
        | some v =>
          if o.local && (s.core (coreOf o.ctx)).cyc < lsDue o then .next s1 else .next (s1.lsDeliver w v)
        | none => .next s1

/-- REMOTE_FE_PERFORMED: a remote F/E operation waiting at its core finds its condition met and is performed. -/
def execRemoteFePerformed (id : Nat) (s : State) : Out :=
  match s.wk.ls.find? fun o => o.id == id with
  | none => .next s
  | some o =>
    match s.ctx? o.ctx with
    | none => .next s
    | some x =>
      if (lsWaits o.code).isSome && !isLocal o.ctx o.addr.toNat && o.done.isNone && s.lsMay x o && s.lsReady o then
        .next (s.lsPerform o)
      else .next s

/-- BAR_WAIT_TIMEOUT: the wait returns 1 and Waiters falls; one whose phase is over by the end of the cycle of expiry has returned 0. -/
def execBarWaitTimeout (id : Nat) (s : State) : Out :=
  match s.wk.ls.find? fun o => o.id == id with
  | none => .next s
  | some o =>
    if s.waitExpired o then
      let b := s.bar o
      .next ((s.setBar o { b with waiters := b.waiters - 1 }).modLs id
        (·.finish (num (if b.phase = o.o2.scalar.toNat then 1 else 0))))
    else .next s

/-! ### Triggers -/

/-- Queues an operation; its result port is pending until the result arrives (R193). -/
def State.lsQueue (s : State) (t : Trig) (x : Ctx) (code : Nat) (o : PV) : State :=
  let (id, s1) := s.ticket
  let op : LsOp := { id := id, ctx := t.ctx, code := code, addr := t.y.scalar, o := o, o2 := x.port oLsO2, bno := t.bno,
                     slot := t.slot, cyc := t.cyc, arrived := none, pos := 0, done := none, late := none }
  let s2 := { s1 with wk := { s1.wk with ls := s1.wk.ls ++ [op] } }
  if lsHasResult code then s2.pendPort t.ctx qLs id else s2

/-- A local F/E form that need not wait is performed at its issue, where its condition was tested (R200). -/
def State.lsNow (s : State) (t : Trig) : State :=
  match s.wk.ls.getLast?, s.ctx? t.ctx with
  | some o, some x =>
    if (lsWaits o.code).isSome && isLocal o.ctx o.addr.toNat && s.lsMay x o && s.lsReady o then s.lsPerform o else s
  | _, _ => s

/-- An operation of ls that is queued. -/
def lsOp (code : Nat) (chk : State → Trig → Ctx → Option Fail) (s : State) : Out :=
  checked s chk fun t x => (s.lsQueue t x code (x.port oLsO)).lsNow t

/-- A plain store enters the store gate (R315). -/
def lsStore (code : Nat) (s : State) : Out :=
  checked s (checkLs code) fun t x =>
    let (id, s1) := s.ticket
    let o := x.port oLsO
    let o2 := x.port oLsO2
    let cells := zipCells (s.physList t.ctx (lsAddr t) (lsWidth code)) (storeData code o o2)
    let st : GStore := { isGlobal := false, dst := clusterBase t.ctx + addrCore (lsAddr t), cells := cells,
                         poi := badCells cells (storePoi code o o2), opId := id, bno := t.bno, slot := t.slot, handle := 0, walked := false,
                         released := false, sent := none }
    s1.modCtx t.ctx fun y => { y with gate := y.gate ++ [st] }

def execLsLd8S (s : State) : Out := lsOp 0 (checkLs 0) s
def execLsLd8Z (s : State) : Out := lsOp 1 (checkLs 1) s
def execLsLd16S (s : State) : Out := lsOp 2 (checkLs 2) s
def execLsLd16Z (s : State) : Out := lsOp 3 (checkLs 3) s
def execLsLd32 (s : State) : Out := lsOp 4 (checkLs 4) s
def execLsLdv (s : State) : Out := lsOp 5 (checkLs 5) s
def execLsSt8 (s : State) : Out := lsStore 6 s
def execLsSt16 (s : State) : Out := lsStore 7 s
def execLsSt32 (s : State) : Out := lsStore 8 s
def execLsStv (s : State) : Out := lsStore 9 s
def execLsLdwf (s : State) : Out := lsOp 10 (checkLs 10) s
def execLsLdwfe (s : State) : Out := lsOp 11 (checkLs 11) s
def execLsStwe (s : State) : Out := lsOp 12 (checkLs 12) s
def execLsStfull (s : State) : Out := lsOp 13 (checkLs 13) s
def execLsLdvwf (s : State) : Out := lsOp 14 (checkLs 14) s
def execLsLdvwfe (s : State) : Out := lsOp 15 (checkLs 15) s
def execLsStvwe (s : State) : Out := lsOp 16 (checkLs 16) s
def execLsSetf (s : State) : Out := lsOp 17 checkSetf s
def execLsSete (s : State) : Out := lsOp 18 checkSetf s
def execLsGetf (s : State) : Out := lsOp 19 (checkLs 19) s
def execLsFence (s : State) : Out := lsOp 20 (fun _ _ _ => none) s
def execLsAmoAdd (s : State) : Out := lsOp 21 (checkLs 21) s
def execLsAmoCas (s : State) : Out := lsOp 22 (checkLs 22) s
def execLsAmoSwap (s : State) : Out := lsOp 23 (checkLs 23) s
def execLsAmoMax (s : State) : Out := lsOp 24 (checkLs 24) s
def execLsBarInit (s : State) : Out := lsOp 25 checkBarCount s
def execLsBarArrive (s : State) : Out := lsOp 26 checkBarCount s
def execLsBarWait (s : State) : Out := lsOp 27 checkBarWait s
def execLsBarQuery (s : State) : Out := lsOp 28 (checkLs 28) s

/-! ### What engine commands wait for, and what a save withdraws (Table 17.3, Table 21.1) -/

/-- Whether the barge of a context is being saved. -/
def State.savingCtx (s : State) (c : Nat) : Bool := ((s.bargeOf c).map fun b => b.st == .saving).getD false

/-- A wait that a save withdraws: a remote F/E operation or a bar.wait. -/
def LsOp.waits (o : LsOp) : Bool := o.done.isNone && ((lsWaits o.code).isSome || o.code == 27)

/-- Whether an earlier operation of the context waits so. -/
def State.behind (s : State) (c id : Nat) : Bool := s.wk.ls.any fun o => o.ctx == c && o.id < id && o.waits

/-- Whether a scratchpad operation may be withdrawn: it waits, or is held behind one that does. -/
def State.lsWithdrawn (s : State) (x : Ctx) (o : LsOp) : Bool := o.waits || (o.done.isNone && s.behind o.ctx o.id && !s.lsMay x o)

/-- The context's scratchpad operations before ticket id that are still to be performed: while its barge is being saved, not those that the
save withdraws (log entry 65). -/
def State.lsDueBefore (s : State) (c : Nat) (x : Ctx) (id : Nat) : List LsOp :=
  (s.lsBefore c id).filter fun o => !(s.savingCtx c && s.lsWithdrawn x o)

/-- The gated scratchpad stores before ticket id that are still to be performed, in the same sense. -/
def State.gateDueBefore (s : State) (c : Nat) (x : Ctx) (id : Nat) : List GStore :=
  (x.gatedBefore id).filter fun g => !(s.savingCtx c && s.behind c g.opId)

/-- All granules of an element hold F = f, on a core in service. -/
def State.elementF (s : State) (ps : List Nat) (f : Bool) : Bool :=
  ps.all fun p => s.fbit p == f && !(s.core (coreOfPhys p)).fenced

/-- Whether the oldest element of an o port may be written now: a plain store, or a stwe, which is a release (R200, R211, R277). -/
def State.mayWrite (s : State) (c : Nat) (x : Ctx) (e : Elem) : Bool :=
  let ps := s.elemPhys c e
  !s.unbound c e.id && !s.acquiring x c e.id && !s.heldAt c e.id (addrCore e.addr) && !s.granuleBusy c e.id ps &&
  !((x.gatedBefore e.id).any fun g => sharesGranule (g.cells.map Prod.fst) ps) && !sharesGranule (s.pushedPhys c x e.id) ps &&
  (!e.fe || (s.storesDone c x e.id && s.elementF ps false))

/-- The physical addresses of pushed elements still to be written: a save keeps the buffers in which the oldest element may not be written. -/
def State.pushedDue (s : State) (c : Nat) (x : Ctx) (id : Nat) : List Nat :=
  if s.savingCtx c then
    (List.range 4).flatMap fun j => match (vget x.r.binds (4 + j) none).bind fun b => b.buf.head? with
      | some e => if e.id < id && s.mayWrite c x e then s.elemPhys c e else []
      | none => []
  else s.pushedPhys c x id

/-- Whether an acquire or a fence of the context before ticket id still holds what follows. -/
def State.acquireDue (s : State) (c : Nat) (x : Ctx) (id : Nat) : Bool :=
  ((s.lsDueBefore c x id).any fun o => lsIsAcquire o.code || o.code == 20) || (!s.savingCtx c && s.awaiting x id)

/-- Every earlier scratchpad store of the context has been performed, and no earlier acquire holds: what an engine command that reads
scratchpad waits for (Table 17.3, R270). -/
def State.storesOver (s : State) (c : Nat) (x : Ctx) (id : Nat) : Bool :=
  !s.acquireDue c x id && (s.gateDueBefore c x id).isEmpty && (s.pushedDue c x id).isEmpty &&
  !((s.lsDueBefore c x id).any fun o => lsWrites o.code)

/-- The same for the stores to some granules. -/
def State.storesOverTo (s : State) (c : Nat) (x : Ctx) (id : Nat) (ps : List Nat) : Bool :=
  !s.acquireDue c x id && !((s.gateDueBefore c x id).any fun g => sharesGranule (g.cells.map Prod.fst) ps) &&
  !sharesGranule (s.pushedDue c x id) ps &&
  !((s.lsDueBefore c x id).any fun o =>
    lsWrites o.code && sharesGranule ((lsGranules o.code o.addr.toNat o.o.scalar.toNat).map (s.phys c)) ps)

/-- Every earlier load of the context has bound its value, so that an engine may store on its behalf (R277). -/
def State.loadsOver (s : State) (c : Nat) (x : Ctx) (id : Nat) : Bool :=
  !((s.lsDueBefore c x id).any fun o => lsBinds o.code) &&
  !(s.wk.gv.any fun o => o.ctx == c && o.id < id && gvBinds o.code && !(s.savingCtx c && s.behind c o.id))

/-- CBLD_COMPLETE: the load reads its source once the context's earlier stores to it have been performed; later it ends. -/
def execCbldComplete (id : Nat) (s : State) : Out :=
  match s.wk.cbLoads.find? fun l => l.id == id with
  | none => .next s
  | some l =>
    match s.ctx? l.ctx with
    | none => .next s
    | some x =>
      let now := s.cbSource l.ctx l.addr.toNat l.count
      match l.source with
      | some old => .next (s.endCbld l (chooseEntries s.freeNo old now))
      | none =>
        if s.storesOverTo l.ctx x id (s.physList l.ctx l.addr.toNat (8 * l.count)) then
          .next { s with wk := { s.wk with cbLoads := s.wk.cbLoads.map fun y => if y.id = id then { y with source := some now } else y } }
        else .next s

/-! ### Streams (R209 to R212) -/

def bindPort (y : Word) : Nat := field y 0 3
def bindWide (y : Word) : Bool := y.getLsbD 12

/-- ls.sbind's checks: bits [31:14] (bit 3 is reserved with no stated effect, and ignored, R5), counts, and captured values that are multiples of the element's alignment. -/
def checkSbind (_ : State) (t : Trig) (x : Ctx) : Option Fail :=
  let y := t.y.scalar
  let c := x.portW oLsO
  let m := if bindWide y then 32 else 4
  (failIf (field y 14 18 != 0) (illTrig y.toNat)).orElse fun _ =>
  (failIf (field c 0 16 == 0 || field c 16 16 == 0) (illTrig c.toNat)).orElse fun _ =>
  failIf ([t.ag.a, t.ag.n, t.ag.b, t.ag.k, t.ag2.n].any fun r => r.val.toNat % m != 0) (illTrig y.toNat)

/-- ls.sbind: the binding captures its set at issue. Elements that an o port still buffers, pushed by the moves of this very bundle, stay
ahead of those of the new binding, at their old addresses (log entry 10). -/
def execLsSbind (s : State) : Out :=
  checked s checkSbind fun t x =>
    let y := t.y.scalar
    let c := x.portW oLsO
    let kept := match vget x.r.binds (bindPort y) none with
      | some b => if bindPort y < 4 then [] else b.buf
      | none => []
    let b : Binding :=
      { fe := y.getLsbD 13, wide := bindWide y, a := t.ag.a.val, n := t.ag.n.val, m := t.ag2.n.val, b := t.ag.b.val,
        k := t.ag.k.val, c1 := field c 0 16, c2 := field c 16 16, taken := 0, moved := 0, buf := kept, closed := false, born := s.nextId }
    s.modRegs t.ctx fun r => { r with binds := vset r.binds (bindPort y) (some b) }

def checkSunbind (_ : State) (t : Trig) (_ : Ctx) : Option Fail :=
  failIf (field t.y.scalar 3 29 != 0) (illTrig t.y.scalar.toNat)

/-- ls.sunbind: the port is unbound at once; an o port's buffered writes are performed before ls.q is written. The count
popped or pushed rides in the operation. -/
def execLsSunbind (s : State) : Out :=
  checked s checkSunbind fun t x =>
    let p := bindPort t.y.scalar
    let old := vget x.r.binds p none
    let n := match old with
      | some b => if b.closed then 0 else b.taken
      | none => 0
    let kept := match old with
      | some b => if b.buf.isEmpty || p < 4 then none else some { b with closed := true }
      | none => none
    (s.modRegs t.ctx fun r => { r with binds := vset r.binds p kept }).lsQueue t x 30 (num n)

def elementLegal (b : Binding) (e : Nat) : Bool := addrLegal (elementAddr b e) (elementSize b) (alignOf (elementSize b))
def Binding.total (b : Binding) : Nat := b.c1 * b.c2

/-- Takes the element at the head of an i port; the last one unbinds the port. -/
def Regs.pop (r : Regs) (p : Nat) : Regs :=
  match vget r.binds p none with
  | some b =>
    if b.taken + 1 = b.total then { r with binds := vset r.binds p none }
    else { r with binds := vset r.binds p (some { b with taken := b.taken + 1, buf := b.buf.tail }) }
  | none => r

/-- Appends an element to an o port; the last one closes it. -/
def Regs.push (r : Regs) (p id : Nat) (v : PV) : Regs :=
  match vget r.binds p none with
  | some b =>
    let e : Elem := { id := id, val := v, addr := elementAddr b b.taken, wide := b.wide, fe := b.fe }
    { r with binds := vset r.binds p (some { b with taken := b.taken + 1, buf := b.buf ++ [e], closed := b.taken + 1 == b.total }) }
  | none => r

/-- The transfer path fetches the next element of an i port (R211). -/
def State.fetchElement (s : State) (c p : Nat) (b : Binding) : State :=
  let ps := s.elementPhys c b b.moved
  let r := s.seenBytes c s.nextId ps
  let v : PV := if b.wide then { val := bytesVec r.1, poi := marksOf r.2 } else PV.ofWord (BitVec.ofNat 32 (leNat r.1)) (r.2.any id)
  let s1 := if b.fe then s.setFs ps false else s
  let e : Elem := { id := s.nextId, val := v, addr := elementAddr b b.moved, wide := b.wide, fe := b.fe }
  s1.modRegs c fun q => { q with binds := vset q.binds p (some { b with moved := b.moved + 1, buf := b.buf ++ [e] }) }

/-- The transfer path writes the oldest element of an o port. -/
def State.drainElement (s : State) (c p : Nat) (b : Binding) (e : Elem) : State :=
  let ps := s.elemPhys c e
  let cells := zipCells ps (if e.wide then vecBytes e.val.val else wordBytes e.val.scalar)
  let s1 := s.scratchStore cells (badCells cells (if e.wide then e.val.poi else e.val.poi &&& 1))
  let s2 := if e.fe then s1.setFs ps true else s1
  let rest := b.buf.tail
  s2.modRegs c fun q => { q with binds := vset q.binds p (if b.closed && rest.isEmpty then none else some { b with buf := rest }) }

/-- Whether the next element of an i port may be fetched now: after the accesses that stand before its sbind where they touch its granules,
and held as an access of the context is (R196, R200, R202, R211). -/
def State.mayFetch (s : State) (c : Nat) (x : Ctx) (b : Binding) : Bool :=
  let ps := s.elementPhys c b b.moved
  b.moved < b.total && b.buf.length < 8 && elementLegal b b.moved &&
  !((s.lsBefore c s.nextId).any fun o => o.code == 20) && !s.acquiring x c b.born && !s.heldAt c b.born (addrCore (elementAddr b b.moved)) &&
  !s.granuleBusy c b.born ps && !sharesGranule (s.pushedPhys c x b.born) ps && (!b.fe || s.elementF ps true)

/-- STREAM_ELEMENT_TRANSFER: the transfer path moves one element of a bound port, when the order of the context, the F bits
of an FE binding and the buffer's room allow it. -/
def execStreamElementTransfer (c p : Nat) (s : State) : Out :=
  match s.ctx? c with
  | none => .next s
  | some x =>
    match vget x.r.binds p none with
    | none => .next s
    | some b =>
      if p < 4 then (if s.mayFetch c x b then .next (s.fetchElement c p b) else .next s)
      else match b.buf with
        | [] => .next s
        | e :: _ => if s.mayWrite c x e then .next (s.drainElement c p b e) else .next s

end Sys2Proof.Machine
end

