-- ==== Sys2Proof/Machine/Region.lean ====
section
/-! DEFINITION. Restart marks, the store gate and rollback (R314 to R317), and the landing of exposed results across a stop
(R310). -/
namespace Sys2Proof.Machine
open Sys2Proof

/-! ### Results in flight across a stop -/

/-- The results in flight with their remaining counts r, from the boundary after the last bundle (R310). -/
def Ctx.inFlight (x : Ctx) : List Flight :=
  (x.flights.map fun f => { f with due := f.due - (x.last + 1) }).filter (fun f => f.due ≠ 0) ++ x.snap

/-- The first bundle after a stop issues in cycle u: each held result is due at u + r. -/
def Ctx.rebase (x : Ctx) (u : Nat) : Ctx :=
  { x with flights := x.flights ++ x.snap.map fun f => { f with due := u + f.due }, snap := [] }

/-! ### Marks -/

/-- Whether the translation of every page of a command has completed. -/
def TileCmd.walked (k : TileCmd) : Bool := k.listed && k.todo.isEmpty

/-- The context's gv accesses and tile commands that have not completed translation (R314). -/
def State.untranslated (s : State) (c : Nat) : Bool :=
  (s.wk.gv.any fun o => o.ctx == c && !(o.listed && o.todo.isEmpty)) || s.wk.tiles.any fun k => k.ctx == c && !k.walked

/-- Takes a mark at the boundary where the context stands: the gate's stores are released to the drain, and the shadowed
state is copied, with the result ports as they stand there: what bundles that issue in the next cycle read has landed (R314). -/
def State.takeMark (s : State) (c : Nat) : State :=
  s.modCtx c fun z =>
    let x := z.land (z.last + 1)
    { x with gate := x.gate.map fun g => { g with released := true }, shadow := some (x.r, x.inFlight),
             region := s.nextId, issued := 0, marked := true, needMark := false }

/-! ### What the drain performs -/

/-- The virtual die whose collector takes a context's global stores, and the barge. -/
def State.heldOf (s : State) (c : Nat) (x : Ctx) (g : GStore) (ver : Bool) : Held :=
  { id := g.opId, die := s.dieOf c, ctx := c, barge := x.barge, bytes := g.cells, poi := g.poi, ver := ver, visible := false,
    deadline := none, sent := none }

/-- Inserts by ticket, so that a die's collector holds its stores in program and issue order. -/
def insertHeld (h : Held) : List Held → List Held
  | [] => [h]
  | k :: ks => if k.id ≤ h.id then k :: insertHeld h ks else h :: k :: ks

def State.addHeld (s : State) (h : Held) : State := { s with ms := { s.ms with held := insertHeld h s.ms.held } }

/-- Raises the version of each line by one (R229). -/
def State.bumpLines (s : State) (ls : List Nat) : State :=
  ls.foldl (fun t l => { t with ms := { t.ms with versions := t.ms.versions.set l (t.ms.versions.get l 0 + 1) 0 } }) s

/-- Notes the 128-byte granules of tensor storage that an operation writes (R285). -/
def State.noteWriteOp (s : State) (op : Nat) (as : List Nat) : State :=
  let ks := (as.map fun a => (op, granuleKey a)).eraseDups.filter fun k => !s.sq.wrote.contains k
  { s with sq := { s.sq with wrote := s.sq.wrote ++ ks } }
def State.noteWrite (s : State) (c : Nat) (as : List Nat) : State :=
  match s.opOf c with
  | none => s
  | some o => s.noteWriteOp o.id as

/-- A global store leaves the gate: to the base die for MSA pages, where each is a version event on a VER page; else into
the collector, held back on a VER line (R228, R229, R271, R279). -/
def State.performGlobal (s : State) (c : Nat) (x : Ctx) (g : GStore) : State :=
  match g.cells with
  | [] => s
  | (a, _) :: _ =>
    if s.isMsa a then
      let s1 := ((s.noteWrite c (g.cells.map Prod.fst)).homeStore g.cells g.poi).countLines (g.cells.map Prod.fst)
      if s.isVer a then s1.bumpLines ((g.cells.map fun p => lineOf p.1).eraseDups) else s1
    else (s.noteWrite c (g.cells.map Prod.fst)).addHeld (s.heldOf c x g (s.isVer a))

/-! ### Rollback (R317) -/

/-- Whether a command starts: its translation has completed, and every earlier command of its context has started or starts with it
(R312, R218). -/
def State.begun (s : State) (k : TileCmd) : Bool :=
  k.started || s.wk.tiles.all fun q => q.started || q.ctx != k.ctx || k.id < q.id || q.walked

/-- The tick at which a request that leaves its die is sent: to another home, or to tier L; none within the die (R345). -/
def State.sentTick (s : State) (c : Nat) (h : Word) : Option Nat :=
  if handleHome h = s.dieOf c && !s.onTierL (handleKey h) then none else some (s.dieTick (s.dieOf c))

/-- The tick at which a command sends requests out of its die. -/
def State.tileSent (s : State) (k : TileCmd) : Option Nat :=
  match s.sentTick k.ctx k.h with
  | some t => some t
  | none => if k.code = 3 then s.sentTick k.ctx k.h2 else none

/-- A command starts: its requests leave. -/
def State.startTile (s : State) (k : TileCmd) : TileCmd :=
  if k.started || !s.begun k then k else { k with started := true, sent := s.tileSent k }

/-- The commands of a context whose translation has completed have started, in issue order. -/
def State.startTiles (s : State) (c : Nat) : State :=
  { s with wk := { s.wk with tiles := s.wk.tiles.map fun k => if k.ctx = c then s.startTile k else k } }

/-- Rolls a context back to its last mark: results in flight, pending loads and unreleased stores of the region are
discarded, tile commands that have not started are cancelled, and the shadowed state is restored. The context stands at the mark's
boundary again, and takes a mark there before it issues (log entry 101). The commands that may start have started before (State.startTiles). -/
def State.rollback (s : State) (c : Nat) : State :=
  match s.ctx? c with
  | none => s
  | some x =>
    match x.shadow with
    | none => s
    | some (r, fl) =>
      let s0 := s.dropGate c fun g => !g.released
      let s1 : State := { s0 with wk := { s0.wk with
        gv := s0.wk.gv.filter fun o => !(o.ctx == c && x.region ≤ o.id),
        ls := s0.wk.ls.filter fun o => !(o.ctx == c && x.region ≤ o.id),
        tiles := s0.wk.tiles.filter fun k => !(k.ctx == c && x.region ≤ k.id && !k.started),
        fprWaits := s0.wk.fprWaits.filter fun f => !(f.ctx == c && x.region ≤ f.id) } }
      s1.modCtx c fun y => { y with r := r, flights := [], snap := fl, issued := 0, marked := false, needMark := true }

/-- A page fault of context c: roll back, then take the fault with the mark as resume point (R317, R326). -/
def State.pageFault (s : State) (c : Nat) (code sub : Nat) (handle : Word) (page slot bno : Nat) : State :=
  let f : FaultInfo := { cls := 3, code := code, flags := flRolled, slot := slot, subcode := sub, bno := bno,
                         value := handle.toNat + 2 ^ 32 * page }
  let s1 := if ((s.ctx? c).map (·.halted)).getD true then s else s.rollback c
  s1.imprecise c f

end Sys2Proof.Machine
end

