-- ==== Sys2Proof/Machine/Layout.lean ====
section
/-! DEFINITION. Scratchpad tiles (R214) and rings (R105, R220, R248): where the elements of a tile lie in its bytes, and how a tile is
made. -/
namespace Sys2Proof.Machine
open Sys2Proof

/-! ### Tiles (R214) -/

/-- A scratchpad tile: rows and columns of elements of a format code and width. -/
structure Tile where
  rows : Nat
  cols : Nat
  code : Nat
  width : Nat
  deriving DecidableEq, Repr

/-- Each row starts at a 32-byte boundary. -/
def Tile.pitch (t : Tile) : Nat := ceilDiv (t.cols * t.width) 256 * 32
/-- The rows, then for an MX format the scale area. -/
def Tile.bytes (t : Tile) : Nat := t.rows * t.pitch + (if isMx t.code then roundUp (t.rows * ceilDiv t.cols 32) 32 else 0)

/-- The bits of an element in a tile whose bytes are the little-endian number n. -/
def Tile.elem (t : Tile) (n r c : Nat) : Nat := n / 2 ^ (8 * (r * t.pitch) + c * t.width) % 2 ^ t.width
/-- The scale byte of an element. -/
def Tile.scale (t : Tile) (n r c : Nat) : Nat := n / 2 ^ (8 * (t.rows * t.pitch + r * ceilDiv t.cols 32 + c / 32)) % 256

/-- One row: its elements, then zero. -/
def Tile.rowBytes (t : Tile) (f : Nat → Nat) : List Byte :=
  leBytes t.pitch ((List.range t.cols).foldr (fun c acc => acc * 2 ^ t.width + f c % 2 ^ t.width) 0)

/-- The bytes of a tile with the given elements and scales. -/
def Tile.build (t : Tile) (elem scale : Nat → Nat → Nat) : List Byte :=
  ((List.range t.rows).flatMap fun r => t.rowBytes (elem r)) ++
  (if isMx t.code then
     let n := ceilDiv t.cols 32
     let sc := (List.range (t.rows * n)).map fun k => BitVec.ofNat 8 (scale (k / n) (k % n))
     sc ++ List.replicate (t.bytes - t.rows * t.pitch - sc.length) 0
   else [])

/-- The width of an element of a scratchpad format: IWID for format 6, CBW for format 7. -/
def padWidth (code : Nat) (fmt : Word) : Nat := elemWidth code (fmtInt fmt).w (fmtCbw fmt)

/-- The elements of one destination row in order, quantised or not: their bits and the scale codes of each run of 32. -/
def mxRow (code : Nat) (quant : Bool) (xs : List FV) : List Nat × List Nat :=
  let k := ceilDiv xs.length 32
  let runs := (List.range k).map fun i =>
    let run := (xs.drop (32 * i)).take 32
    if quant then mxQuantise (mxPlain code) run else (127, run.map (smallEncode (mxPlain code) .rne))
  (runs.flatMap Prod.snd, runs.map Prod.fst)

/-- The tile of the given values in a format: converted by a mode, or in runs of 32 for an MX format (R42, R43). -/
def Tile.ofValues (t : Tile) (i : IntFmt) (mode : Rnd) (quant : Bool) (f : Nat → Nat → FV) : List Byte :=
  if isMx t.code then
    let rows := (List.range t.rows).map fun r => mxRow t.code quant ((List.range t.cols).map (f r))
    t.build (fun r c => (rows.getD r ([], [])).1.getD c 0) (fun r k => (rows.getD r ([], [])).2.getD k 0)
  else t.build (fun r c => elemBits t.code i mode (f r c)) fun _ _ => 0

/-- Cells of 32 bytes. -/
def cut32 : Nat → List (Nat × Byte) → List (List (Nat × Byte))
  | 0, _ => []
  | n + 1, cs => cs.take 32 :: cut32 n (cs.drop 32)

/-! ### Rings -/

def Kernel.buf? (k : Kernel) (id : Nat) : Option BufEntry := k.plan.find? fun b => b.id == id
def Kernel.ring? (k : Kernel) (r : Nat) : Option RingEntry := k.rings.find? fun x => x.ring == r

/-- The scratchpad address of slot i of a ring of a core. -/
def Kernel.slotAddr (k : Kernel) (core : Nat) (r : RingEntry) (i : Nat) : Nat :=
  let b := (k.buf? r.buf).getD { id := 0, bank := 0, off := 0, size := 0, first := 0, last := 0 }
  coreIdx core * 2 ^ 22 + b.bank * 2 ^ 18 + b.off + i * r.slotSize

/-- The ring that context c names, when its image's plan declares it. -/
def State.ringOf (s : State) (c r : Nat) : Option RingEntry := (s.kernelOf c).bind fun k => k.ring? r

def ringKey (core r : Nat) : Nat := core * 16 + r
/-- Head and tail of a ring of the context's barge on its core. -/
def State.ringPos (s : State) (c r : Nat) : Nat × Nat :=
  ((s.bargeOf c).map fun b => b.ringPos.get (ringKey (coreOf c) r) (0, 0)).getD (0, 0)
def State.setRingPos (s : State) (c r : Nat) (p : Nat × Nat) : State :=
  match s.bargeOf c with
  | some b => s.modBarge b.id fun g => { g with ringPos := g.ringPos.set (ringKey (coreOf c) r) p (0, 0) }
  | none => s

/-- The address of the head slot. -/
def State.headAddr (s : State) (c r : Nat) : Nat :=
  match s.kernelOf c, s.ringOf c r with
  | some k, some x => k.slotAddr (coreOf c) x (s.ringPos c r).1
  | _, _ => 0

/-- Pops the head slot of a ring: every granule of it becomes empty and the head advances (R248). -/
def State.popRing (s : State) (c r : Nat) : State :=
  match s.ringOf c r with
  | none => s
  | some x =>
    let a := s.headAddr c r
    let p := s.ringPos c r
    (s.setFs ((granules a x.slotSize).map (s.phys c)) false).setRingPos c r ((p.1 + 1) % x.slots, p.2)

/-- Whether every granule of n bytes at an address is full. -/
def State.allFull (s : State) (c a n : Nat) : Bool := (granules a n).all fun g => s.fbit (s.phys c g)

/-! ### What a tile command touches (R213, R221) -/

def tileNr (sh : Word) : Nat := field sh 0 9
def tileNc (sh : Word) : Nat := field sh 9 9
def tileFlag (fl : Word) : Nat := field fl 0 3
def tileFP (fl : Word) : Bool := fl.getLsbD 3
def tileTR (fl : Word) : Bool := fl.getLsbD 4
def tileSF (fl : Word) : Nat := field fl 5 4
def tileRPL (fl : Word) : Bool := fl.getLsbD 9
def tileFW (fl : Word) : Bool := fl.getLsbD 10
def tileCE (fl : Word) : Bool := fl.getLsbD 11

def TileCmd.nr (k : TileCmd) : Nat := tileNr k.sh
def TileCmd.nc (k : TileCmd) : Nat := tileNc k.sh
def TileCmd.tr (k : TileCmd) : Bool := tileTR k.fl

/-- The storage bytes of a rectangle of a tensor. -/
def Rec.rectBytes (r : Rec) (row col nr nc : Nat) : List Nat :=
  (List.range nr).flatMap fun i => (List.range nc).flatMap fun j =>
    if r.inside (row + i) (col + j) then
      let e := r.elemBit (row + i) (col + j)
      ((List.range (ceilDiv r.width 8)).map fun b => e / 8 + b) ++ (if isMx r.fmt then [r.scaleByte (row + i) (col + j)] else [])
    else []

/-- The destination rectangle of a copy (R221). -/
def TileCmd.cpNr (k : TileCmd) : Nat := if k.tr then k.nc else k.nr
def TileCmd.cpNc (k : TileCmd) : Nat := if k.tr then k.nr else k.nc

/-- The accesses of a command: tensor, its storage bytes, and whether it writes them. -/
def TileCmd.accesses (k : TileCmd) (r r2 : Option Rec) : List (Nat × List Nat × Bool) :=
  let first := match r with
    | some r => [(handleKey k.h, r.rectBytes k.c.toNat k.c2.toNat k.nr k.nc, k.code == 2)]
    | none => []
  match k.code, r2 with
  | 3, some r2 => first ++ [(handleKey k.h2, r2.rectBytes k.y k.c2.toNat k.cpNr k.cpNc, true)]
  | _, _ => first

/-- The storage addresses that a tile command touches. -/
def State.tileAddrs (s : State) (k : TileCmd) : List Nat :=
  (k.accesses (s.opLive? k.ctx k.h) (s.opLive? k.ctx k.h2)).flatMap fun a => a.2.1.map (storeAddr a.1)

/-- The cells of storage that elements of a tensor are written as, over the bytes that stand there, and those of them that a poisoned
element shares (R375). Elements outside the tensor are discarded. -/
def elemCells (t : Nat) (r : Rec) (old : Nat → Byte) (es : List TElem) : List (Nat × Byte) × List Nat :=
  let put (m : Map Byte) (e : TElem) : Map Byte :=
    let m1 := putBits old m (r.elemBit e.row e.col) r.width e.bits
    if isMx r.fmt then m1.put (r.scaleByte e.row e.col) (BitVec.ofNat 8 e.scale) else m1
  let ins := es.filter fun e => r.inside e.row e.col
  ((ins.foldl put []).map fun c => (storeAddr t c.1, c.2),
   ((ins.filter (·.bad)).flatMap fun e => r.rectBytes e.row e.col 1 1).map (storeAddr t))

/-- The elements that are stored with one that is picked: itself, or in an MX tensor the run that shares its scale. -/
def sameRun (mx : Bool) (u e : TElem) : Bool := e.row == u.row && (if mx then e.col / 32 == u.col / 32 else e.col == u.col)

end Sys2Proof.Machine
end

