-- ==== Sys2Proof/Machine/Global.lean ====
section
/-! DEFINITION. Global words and their order: the word image (R226), the collector (R271), translation (R319, R321), the gv unit
(R226 to R231), publication, acquire and fence (R235, R273 to R279). -/
namespace Sys2Proof.Machine
open Sys2Proof

/-! ### The word image (R226) -/

/-- The elements of word i of a tensor's image: the flat index of each, lowest bits first. -/
def imageElems (r : Rec) (i : Nat) : List Nat := (List.range (32 / r.width)).map fun k => i * (32 / r.width) + k

/-- The storage byte, and the bit in it, at which element e starts. -/
def elemPlace (r : Rec) (e : Nat) : Nat × Nat :=
  let b := r.elemBit (e / r.d0) (e % r.d0)
  (b / 8, b % 8)

/-- The storage bytes that element e touches. -/
def elemBytes (r : Rec) (e : Nat) : List Nat :=
  (List.range (ceilDiv r.width 8)).map fun k => (elemPlace r e).1 + k

/-- The storage offsets that word i touches. -/
def imageBytes (r : Rec) (i n : Nat) : List Nat :=
  ((List.range n).flatMap fun j => (imageElems r (i + j)).flatMap fun e => if e < r.elems then elemBytes r e else [])

/-- The bits of an element of width w that start at bit sh of the little-endian bytes. -/
def bitsOf (bs : List Byte) (sh w : Nat) : Nat := leNat bs / 2 ^ sh % 2 ^ w

/-- Word i from a reading of storage offsets: elements beyond the last read as the pad value. -/
def imageWord (r : Rec) (read : Nat → Byte) (i : Nat) : Word :=
  BitVec.ofNat 32 ((imageElems r i).foldr (fun e acc =>
    acc * 2 ^ r.width +
      (if e < r.elems then bitsOf ((elemBytes r e).map read) (elemPlace r e).2 r.width else r.pad.toNat % 2 ^ r.width)) 0)

/-- The bytes that a store of word i writes, over those that a store already writes: elements beyond the last are discarded; a 4-bit
element leaves the other half of its byte, as read, in place. -/
def putWord (r : Rec) (read : Nat → Byte) (m : Map Byte) (i : Nat) (w : Word) : Map Byte :=
  let n := 32 / r.width
  (List.range n).foldl (fun q k =>
    let e := i * n + k
    if e < r.elems then putBits read q (r.elemBit (e / r.d0) (e % r.d0)) r.width (w.toNat / 2 ^ (r.width * k)) else q) m

/-! ### What a context sees (R271, R273) -/

def Held.covers (h : Held) (a : Nat) : Bool := h.bytes.any fun c => c.1 == a
/-- Whether a held store is the context's own, or was made visible on its die. -/
def Held.seenBy (h : Held) (c barge : Nat) : Bool := (h.ctx == c && h.barge == barge) || (h.visible && !h.ver)

/-- A byte of tensor storage as context c sees it before ticket id: its gate, its die's collector, the home. -/
def State.viewByte (s : State) (c id a : Nat) : Byte × Bool :=
  match (s.ctx? c).bind fun x => gatedByte x.gate true a id with
  | some r => r
  | none =>
    let b := ((s.ctx? c).map (·.barge)).getD 0
    match s.ms.held.reverse.find? fun h => h.die == s.dieOf c && h.seenBy c b && h.covers a with
    | some h => (((h.bytes.find? fun p => p.1 == a).map Prod.snd).getD 0, h.poi.contains a)
    | none => s.homeByte a

/-- Another context's unpublished collector store may be seen early, and then stays visible (R276); VER stores never are. -/
def State.earlyHits (s : State) (c : Nat) (addrs : List Nat) : State :=
  let d := s.dieOf c
  let hs := s.ms.held.map fun h =>
    if h.die == d && !h.ver && !h.visible && addrs.any h.covers && Config.earlyHit (s.freeNo + h.id) then
      { h with visible := true } else h
  { s with ms := { s.ms with held := hs }, freeNo := s.freeNo + s.nextId + 1 }

/-! ### The collector's drain -/

def overlaps (h k : Held) : Bool := h.bytes.any fun c => k.covers c.1

/-- The participant that made a held store, by its barge and its place in it. -/
def State.heldMember (s : State) (h : Held) : Nat :=
  h.barge * 2 ^ 10 + ((s.barge? h.barge).map fun b => b.ctxs.idxOf h.ctx).getD 0

/-- A drain that times out (R345): the store is lost, and its context takes TIMEOUT; the stream of an ended one receives an error record. -/
def State.lostDrain (s : State) (h : Held) : State :=
  let a := (h.bytes.map Prod.fst).headD 0
  let t := storeTensor a
  let handle := ((s.rec? t).map fun r => makeHandle t r.gen).getD 0
  s.impreciseMember (s.heldMember h) (laterFault 8 0x80 (handle.toNat + 2 ^ 32 * (storeOff a / pageBytes)) 0xff 0xffffffff)

/-- The tensor of a held store. -/
def Held.tensor (h : Held) : Nat := storeTensor ((h.bytes.map Prod.fst).headD 0)

/-- Whether a held store may be performed at its home: no failed path lies between, no retried request to one of its addresses stands before
it (R335), and its home has room (R340). -/
def State.canDrain (s : State) (h : Held) : Bool :=
  s.reaches h.die h.tensor && !s.retryHolds h.id (h.bytes.map Prod.fst) && s.hasRoom (h.bytes.map Prod.fst)

def State.dropHeld (s : State) (id : Nat) : State := { s with ms := { s.ms with held := s.ms.held.filter fun k => k.id != id } }

/-- A drain that leaves its die and is not yet performed has been sent (R345). -/
def State.sendHeld (s : State) (h : Held) : State :=
  if h.die = h.tensor / 2 ^ 20 && !s.onTierL h.tensor then s
  else { s with ms := { s.ms with held := s.ms.held.map fun k =>
    if k.id = h.id && k.sent.isNone then { k with sent := some (s.dieTick h.die) } else k } }

/-- Whether no earlier store of the die to one of its bytes is still held. -/
def State.mayLeave (s : State) (h : Held) : Bool :=
  !h.ver && !s.ms.held.any fun k => k.die == h.die && k.id < h.id && overlaps h k

/-- The event of R229 for held VER stores: those that a test picks, restricted to lines that a test admits, become visible
together, and the version of each of their lines rises once. A line of which one of these stores cannot reach its home yet stays held
whole (R279, R340, R345). -/
def State.publishVer (s : State) (picked : Held → Bool) (line : Nat → Bool) : State :=
  let pick (h : Held) : Bool := h.ver && picked h
  let stuck := (s.ms.held.filter fun h => pick h && !s.canDrain h).flatMap fun h => h.bytes.map fun c => lineOf c.1
  let goes (a : Nat) : Bool := line (lineOf a) && !stuck.contains (lineOf a)
  let stores := (s.ms.held.filter pick).map fun h => (h.bytes.filter fun c => goes c.1, h.poi)
  let rest := s.ms.held.filterMap fun h =>
    if pick h then
      let left := h.bytes.filter fun c => !goes c.1
      if left.isEmpty then none else some { h with bytes := left }
    else some h
  let late := s.ms.held.filter fun h => pick h && !s.canDrain h
  let s1 : State := { s with ms := { s.ms with held := rest } }
  let s2 := stores.foldl (fun t c => t.homeStore c.1 c.2) (late.foldl State.sendHeld s1)
  s2.bumpLines ((stores.flatMap fun c => c.1.map fun q => lineOf q.1).eraseDups)

/-- Whether a held store touches a line of some addresses. -/
def sharesLine (h : Held) (as : List Nat) : Bool := h.bytes.any fun c => as.any fun a => lineOf a == lineOf c.1

def ownStore (c barge : Nat) (h : Held) : Bool := h.ctx == c && h.barge == barge

/-! ### Translation (R319, R321) -/

/-- A failing check of Table 21.4: code and subcode. -/
def checkPage (leaf : Option DWord) (write needVer : Bool) : Option (Nat × Nat) :=
  match leaf with
  | none => some (0x30, 0)
  | some e =>
    if 17 ≤ pteTgt e then some (0x30, 0)
    else if write && pteRo e then some (0x32, 0)
    else if write && !pteW e then some (0x31, 1)
    else if needVer && !pteVer e then some (0x31, 2)
    else none

/-- The leaf that a core uses for a page: its TLB entry, else the walk of its die's replica. -/
def State.coreLeaf (s : State) (core t page : Nat) : Option DWord :=
  match (s.core core).tlb.find? fun e => e.tensor == t && e.page == page with
  | some e => some e.leaf
  | none => (s.walked (stackOf core) t (page * pageBytes)).map fun l =>
      BitVec.ofNat 64 (pteTgt l.1 * 2 ^ 59 + (leafAddr l.1 l.2 (page * pageBytes) - devBase) % 2 ^ 48 / 2 ^ 16 * 2 ^ 16 + l.1.toNat % 2 ^ 8)

/-- Fills the TLB, and sets the dirty bit of its entry for a write (R324). -/
def State.fillTlb (s : State) (core t page : Nat) (leaf : DWord) (write : Bool) : State :=
  s.modCore core fun k =>
    match k.tlb.find? fun e => e.tensor == t && e.page == page with
    | some _ => { k with tlb := k.tlb.map fun e => if e.tensor == t && e.page == page then { e with dirty := e.dirty || write } else e }
    | none => { k with tlb := { tensor := t, page := page, leaf := leaf, dirty := write } :: k.tlb }

/-- The requests whose walks queue at a stack, in arrival order (R319). -/
def State.walkers (s : State) (p : Nat) : List Nat :=
  (vget s.ms.walkQ p []).filter fun id =>
    (s.wk.gv.any fun o => o.id == id && !o.todo.isEmpty) || s.wk.tiles.any fun k => k.id == id && !k.todo.isEmpty
def State.setWalkers (s : State) (p : Nat) (ids : List Nat) : State := { s with ms := { s.ms with walkQ := vset s.ms.walkQ p ids } }

/-- Whether the translation of a page goes on now: it hits the core's TLB, or its walk is served by one of the die's 16 walkers. -/
def State.mayWalk (s : State) (core id t page : Nat) : Bool :=
  ((s.core core).tlb.any fun e => e.tensor == t && e.page == page) || ((s.walkers (stackOf core)).take 16).contains id

/-- A miss queues for a walker, behind those that wait. -/
def State.queueWalk (s : State) (core id : Nat) : State :=
  let p := stackOf core
  if (s.walkers p).contains id then s else s.setWalkers p (s.walkers p ++ [id])
def State.endWalk (s : State) (core id : Nat) : State := s.setWalkers (stackOf core) ((s.walkers (stackOf core)).filter (· != id))

/-- Whether a migration holds the segment of a page (R322): accesses that have not begun translation wait. -/
def State.segHeld (s : State) (t page : Nat) : Bool := s.ms.heldSegs.contains (t, page / 32)

/-- The pages of some offsets, ascending. -/
def pagesOf (offs : List Nat) : List Nat := sortNats (offs.map (· / pageBytes)).eraseDups

/-! ### The gv unit: codes are positions from 0x320 -/

def gvIs64 (code : Nat) : Bool := code == 1 || code == 3
def gvIsStore (code : Nat) : Bool := code == 2 || code == 3
def gvIsAtomic (code : Nat) : Bool := 9 ≤ code
def gvNeedsVer (code : Nat) : Bool := code == 4 || code == 5 || code == 8
def gvWrites (code : Nat) : Bool := gvIsStore code || code == 8 || gvIsAtomic code
def gvNoHandle (code : Nat) : Bool := code == 6 || code == 7
def gvResult (code : Nat) : Bool := [0, 1, 4, 5, 6, 8].contains code || (9 ≤ code && code ≤ 14)
def gvWords (code : Nat) : Nat := if gvIs64 code then 2 else 1

def checkGv (code : Nat) (_ : State) (t : Trig) (_ : Ctx) : Option Fail :=
  failIf (gvIs64 code && t.y.scalar.getLsbD 0) (illTrig t.y.scalar.toNat)

/-- The storage cells of a gv store by a context, as its trigger carries them. -/
def State.gvCells (s : State) (c id : Nat) (h : Word) (i : Nat) (ws : List Word) : List (Nat × Byte) :=
  match s.opLive? c h with
  | none => []
  | some r =>
    let t := handleKey h
    let read (off : Nat) : Byte := (s.viewByte c id (storeAddr t off)).1
    ((List.range ws.length).foldl (fun m k => putWord r read m (i + k) (ws.getD k 0)) []).map fun p => (storeAddr t p.1, p.2)

/-- The stored bytes of a gv store that carry a poison mark: those of each word whose operand has one (R375). -/
def State.gvBad (s : State) (c : Nat) (h : Word) (i : Nat) (bads : List Bool) : List Nat :=
  match s.opLive? c h with
  | none => []
  | some r => (List.range bads.length).flatMap fun k =>
      if bads.getD k false then (imageBytes r (i + k) 1).map (storeAddr (handleKey h)) else []

/-- A trigger of gv: a store enters the store gate; every operation with a handle waits for translation. -/
def gvOp (code : Nat) (s : State) : Out :=
  checked s (checkGv code) fun t x =>
    let (id, s1) := s.ticket
    let h := x.portW oGvO
    let i := t.y.scalar.toNat
    let op : GvOp := { id := id, ctx := t.ctx, code := code, handle := h, idx := i, o2 := x.port oGvO2, o3 := x.port oGvO3,
                       bno := t.bno, slot := t.slot, todo := [], listed := gvNoHandle code, sent := none }
    let s2 : State := { s1 with wk := { s1.wk with gv := s1.wk.gv ++ [op] } }
    let s3 := if gvResult code then s2.pendPort t.ctx qGv id else s2
    let s4 := if code = 4 ∨ code = 8 then s3.pendPort t.ctx qGvV id else s3
    if gvIsStore code then
      let ps := if code = 3 then [op.o2, op.o3] else [op.o2]
      let st : GStore := { isGlobal := true, dst := 0, cells := s.gvCells t.ctx id h i (ps.map PV.scalar),
                           poi := s.gvBad t.ctx h i (ps.map PV.bad), opId := id, bno := t.bno, slot := t.slot, handle := h,
                           walked := false, released := false, sent := none }
      s4.modCtx t.ctx fun y => { y with gate := y.gate ++ [st] }
    else s4

def execGvLd32 (s : State) : Out := gvOp 0 s
def execGvLd64 (s : State) : Out := gvOp 1 s
def execGvSt32 (s : State) : Out := gvOp 2 s
def execGvSt64 (s : State) : Out := gvOp 3 s
def execGvLdv (s : State) : Out := gvOp 4 s
def execGvVadd (s : State) : Out := gvOp 5 s
def execGvVchk (s : State) : Out := gvOp 6 s
def execGvVclr (s : State) : Out := gvOp 7 s
def execGvCasv (s : State) : Out := gvOp 8 s
def execGvAmoAdd (s : State) : Out := gvOp 9 s
def execGvAmoFadd (s : State) : Out := gvOp 10 s
def execGvAmoMin (s : State) : Out := gvOp 11 s
def execGvAmoMax (s : State) : Out := gvOp 12 s
def execGvAmoSwap (s : State) : Out := gvOp 13 s
def execGvAmoCas (s : State) : Out := gvOp 14 s
def execGvRedAdd (s : State) : Out := gvOp 15 s
def execGvRedFadd (s : State) : Out := gvOp 16 s

/-! ### Translation of a gv operation -/

def State.modGv (s : State) (id : Nat) (f : GvOp → GvOp) : State :=
  { s with wk := { s.wk with gv := s.wk.gv.map fun o => if o.id = id then f o else o } }
def State.dropGv (s : State) (id : Nat) : State := { s with wk := { s.wk with gv := s.wk.gv.filter fun o => o.id != id } }
/-- A store that will not be performed leaves the gate. -/
def State.dropGated (s : State) (c id : Nat) : State :=
  s.modCtx c fun x => { x with gate := x.gate.filter fun g => g.opId != id }

/-- A stale handle is found when the access is translated (R226, R225): imprecise, and nothing moves. -/
def staleFault (h : Word) (slot bno : Nat) : FaultInfo := laterFault 9 0x92 h.toNat slot bno

/-- A gv store whose pages are all translated waits in the gate. -/
def State.gateWalked (s : State) (c id : Nat) : State :=
  s.modCtx c fun x => { x with gate := x.gate.map fun g => if g.opId = id then { g with walked := true } else g }

/-- One translation step of a gv operation. A word that lies wholly beyond the last element touches no page; ldv, vadd and casv still take the permission fault on a tensor
without VER, with page 0 (log entry 102). -/
def State.walkGv (s : State) (o : GvOp) : State :=
  let finish (t : State) : State :=
    if gvIsStore o.code then (t.dropGv o.id).gateWalked o.ctx o.id else t.modGv o.id fun p => { p with sent := s.sentTick o.ctx o.handle }
  match o.listed, o.todo with
  | false, _ =>
    if isDiscard o.handle && (gvIsStore o.code || 15 ≤ o.code) then (s.dropGv o.id).gateWalked o.ctx o.id
    else match s.opLive? o.ctx o.handle with
    | none => ((s.dropGv o.id).dropGated o.ctx o.id).imprecise o.ctx (staleFault o.handle o.slot o.bno)
    | some r =>
      let ps := pagesOf (imageBytes r o.idx (gvWords o.code))
      if gvNeedsVer o.code && !r.ver && ps.isEmpty then ((s.startTiles o.ctx).dropGv o.id).pageFault o.ctx 0x31 2 o.handle 0 o.slot o.bno
      else if ps.any (s.segHeld (handleKey o.handle)) then s
      else
        let s1 := s.modGv o.id fun p => { p with listed := true, todo := ps }
        if ps.isEmpty then finish s1 else s1
  | true, [] => s
  | true, p :: ps =>
    let t := handleKey o.handle
    let core := coreOf o.ctx
    let leaf := s.coreLeaf core t p
    if !s.mayWalk core o.id t p then s.queueWalk core o.id
    else match checkPage leaf (gvWrites o.code) (gvNeedsVer o.code) with
    | some (code, sub) =>
      ((((s.startTiles o.ctx).endWalk core o.id).dropGv o.id).dropGated o.ctx o.id).pageFault o.ctx code sub o.handle p o.slot o.bno
    | none =>
      let s1 := ((s.endWalk core o.id).fillTlb core t p (leaf.getD 0) (gvWrites o.code)).modGv o.id fun q => { q with todo := ps }
      if ps.isEmpty then finish s1 else s1

/-! ### Completion of a gv operation -/

/-- The new word of a global atomic (Table 13.7). -/
def gvAmoWord (code : Nat) (old a b : Word) : Word :=
  match code with
  | 9 | 15 => old + a
  | 10 | 16 => addF32 old a
  | 11 => if a.slt old then a else old
  | 12 => if old.slt a then a else old
  | 13 => a
  | _ => if old = b then a else old

/-- The storage addresses that a gv operation touches. -/
def State.gvAddrs (s : State) (o : GvOp) : List Nat :=
  if gvNoHandle o.code then []
  else match s.opLive? o.ctx o.handle with
    | some r => (imageBytes r o.idx (gvWords o.code)).map (storeAddr (handleKey o.handle))
    | none => []

/-- Whether an earlier access of the context to a word of an MSA page that the operation touches is still to arrive at its unit (R336). -/
def State.msaBehind (s : State) (o : GvOp) : Bool :=
  let as := s.gvAddrs o
  let meets (bs : List Nat) : Bool := as.any fun a => bs.any fun b => a / 4 == b / 4
  as.any s.isMsa &&
  ((s.wk.gv.any fun p => p.ctx == o.ctx && p.id < o.id && !gvIsStore p.code && meets (s.gvAddrs p)) ||
   s.wk.tiles.any fun k => k.ctx == o.ctx && k.id < o.id && meets (s.tileAddrs k))

/-- Whether a gv operation that has its translation may bind or be performed: by the orders of its context (R230, R235, R277, R336), with a
path to its home (R344) that no retried request blocks (R335), and room there for what it writes (R340). Accesses of a context to one byte
bind in program order (R271), and casv waits until its context's held stores to the line can be published with it (R231). -/
def State.gvReady (s : State) (x : Ctx) (o : GvOp) : Bool :=
  let before := s.wk.gv.filter fun p => p.ctx == o.ctx && p.id < o.id
  let pubs := s.wk.pubs.filter fun p => p.ctx == o.ctx && p.id < o.id
  let gatedG := x.gate.any fun g => g.isGlobal && g.opId < o.id
  let as := s.gvAddrs o
  (o.listed && o.todo.isEmpty) &&
  !(pubs.any fun p => p.code != 3) && !(gvWrites o.code && !pubs.isEmpty) &&
  !(before.any fun p => (s.gvAddrs p).any as.contains) &&
  (!gvWrites o.code || (!gatedG && !s.unbound o.ctx o.id)) &&
  (o.code != 6 || before.isEmpty) &&
  (!(5 ≤ o.code && o.code ≤ 7) || !before.any fun p => 5 ≤ p.code && p.code ≤ 7) &&
  (gvNoHandle o.code || s.reaches (s.dieOf o.ctx) (handleKey o.handle)) && !s.msaBehind o && !s.retryHolds o.id as &&
  (!gvWrites o.code || s.hasRoom as) &&
  (o.code != 8 || s.ms.held.all fun h => !h.ver || !ownStore o.ctx x.barge h || !sharesLine h as || s.canDrain h)

/-- Whether a store goes to an MSA page. -/
def State.msaStore (s : State) (g : GStore) : Bool := g.isGlobal && (g.cells.head?.map fun q => s.isMsa q.1).getD false

/-- A store to an MSA page waits on its way for a retried request to one of its addresses, or over a failed path (R335, R344). -/
def State.msaHeld (s : State) (c : Nat) (g : GStore) : Bool :=
  s.msaStore g && (s.retryHolds g.opId (g.cells.map Prod.fst) || !s.reaches (s.dieOf c) (handleKey g.handle))

/-- A store to an MSA page waits for the earlier accesses of its context to one of its words: they arrive in issue order (R336). -/
def State.msaAfter (s : State) (c : Nat) (g : GStore) : Bool :=
  let meets (bs : List Nat) : Bool := g.cells.any fun q => bs.any fun b => q.1 / 4 == b / 4
  s.msaStore g &&
  ((s.wk.gv.any fun p => p.ctx == c && p.id < g.opId && !gvIsStore p.code && meets (s.gvAddrs p)) ||
   s.wk.tiles.any fun k => k.ctx == c && k.id < g.opId && meets (s.tileAddrs k))

/-- Whether the drain's order has come to a gated store: not behind a waiting remote F/E operation to its core, an acquire, or a
load that has not bound (R200, R277, R315); pushes to its granules go first, and what goes before it to a word of an MSA page (R336). -/
def State.drainTurn (s : State) (c : Nat) (x : Ctx) (g : GStore) : Bool :=
  let ps := g.cells.map Prod.fst
  g.released && !s.unbound c g.opId && !s.acquiring x c g.opId &&
  ((g.isGlobal && !s.msaAfter c g) ||
    (!g.isGlobal && !s.heldAt c g.opId (coreIdx g.dst) && !s.granuleBusy c g.opId ps && !sharesGranule (s.pushedPhys c x g.opId) ps))

/-- Whether the drain may perform a gated store. -/
def State.mayDrain (s : State) (c : Nat) (x : Ctx) (g : GStore) : Bool := s.drainTurn c x g && !s.msaHeld c g

/-! ### Requests that leave a die arrive at one home in the order sent (R344) -/

def sentBefore (sent : Option Nat) (id t u : Nat) : Bool :=
  match sent with
  | some v => v < t || (v == t && id < u)
  | none => false

/-- Whether a request from die v to home q that was sent before tick t, or in it with an earlier ticket, is still on its way there though
nothing but its arrival is missing. -/
def State.arrivesBefore (s : State) (v q t id : Nat) : Bool :=
  (s.wk.gv.any fun p => sentBefore p.sent p.id t id && s.dieOf p.ctx == v && handleHome p.handle == q &&
    (s.ctx? p.ctx).any fun y => s.gvReady y p) ||
  (s.ms.held.any fun h => sentBefore h.sent h.id t id && h.die == v && h.tensor / 2 ^ 20 == q && s.canDrain h && s.mayLeave h) ||
  (s.ctxs.any fun e => s.dieOf e.1 == v && (e.2.gate.head?.any fun g => sentBefore g.sent g.opId t id && handleHome g.handle == q &&
    s.mayDrain e.1 e.2 g))

/-- Whether a gv operation may bind or be performed: nothing sent before it from its die arrives at its home later. -/
def State.gvMay (s : State) (x : Ctx) (o : GvOp) : Bool :=
  s.gvReady x o && !((o.sent.map fun t => s.arrivesBefore (s.dieOf o.ctx) (handleHome o.handle) t o.id).getD false)

/-- Whether a held store may be performed now: it is sent in this tick, if it has not been. -/
def State.heldMay (s : State) (h : Held) : Bool :=
  s.canDrain h && !s.arrivesBefore h.die (h.tensor / 2 ^ 20) (h.sent.getD (s.dieTick h.die)) h.id

/-! ### The drain of the collector -/

/-- A held store drains: it is performed at its home, or is on its way there (R344, R345). -/
def State.drainHeld (s : State) (h : Held) : State :=
  if s.heldMay h then (s.dropHeld h.id).homeStore h.bytes h.poi else s.sendHeld h

/-- COLLECTOR_DRAIN: a store held in a die's collector drains to its home. -/
def execCollectorDrain (id : Nat) (s : State) : Out :=
  match s.ms.held.find? fun h => h.id == id with
  | some h => if s.mayLeave h then .next (s.drainHeld h) else .next s
  | none => .next s

/-- The held stores that a test picks, with every store of their die that must leave before one of them. -/
def State.drainSet (s : State) (pick : Held → Bool) : List Held :=
  s.ms.held.foldr (fun h hs => if pick h || hs.any fun k => k.die == h.die && h.id < k.id && overlaps k h then h :: hs else hs) []

/-- Drains, in order, the held stores that a test picks, with every store of their die that must leave before one of them. -/
def State.drainWhere (s : State) (pick : Held → Bool) : State :=
  (s.drainSet pick).foldl (fun t h => if t.mayLeave h then t.drainHeld h else t) s

/-- Whether a held store of a die was published at di 100 µs ago or more. -/
def State.drainDue (s : State) (v : Nat) (h : Held) : Bool := h.die == v && (h.deadline.map fun d => decide (d ≤ s.dieTick v)).getD false

/-- DI_DRAIN_DEADLINE: every store published at di 100 µs ago has drained (R273). -/
def execDiDrainDeadline (v : Nat) (s : State) : Out :=
  .next (s.drainWhere (s.drainDue v))

/-- Publishes a context's held stores at a scope (R273, R279): at di they become visible on the die with a deadline; at pk
and sy they are performed at their homes. VER stores are published at pk whatever the scope. -/
def State.publish (s : State) (c barge scope : Nat) : State :=
  let s1 := s.publishVer (ownStore c barge) fun _ => true
  if 4 ≤ scope then s1.drainWhere (ownStore c barge)
  else
    let d := s1.dieTick (s1.dieOf c) + 10000
    let show_ (h : Held) : Held :=
      if ownStore c barge h then { h with visible := true, deadline := some (min d (h.deadline.getD d)) } else h
    { s1 with ms := { s1.ms with held := s1.ms.held.map show_ } }

/-! ### What a gv operation does -/

/-- The first storage address of word i. -/
def wordAddr (t : Nat) (r : Rec) (i : Nat) : Nat := storeAddr t ((imageBytes r i 1).headD 0)

/-- The version of the line of word i; a word that lies wholly beyond the last element has no line, and its version is free (log entry
102). -/
def State.versionAt (s : State) (t : Nat) (r : Rec) (i : Nat) : Word :=
  if (imageBytes r i 1).isEmpty then Config.freeWord (2 ^ 60 + t * 2 ^ 32 + i) else s.ms.versions.get (lineOf (wordAddr t r i)) 0

/-- Lanes 0 and 1 of gv.q. -/
def gvLanes (w0 w1 : Word) (p0 p1 : Bool) : PV :=
  { val := (w1 ++ w0).setWidth 2048, poi := (if p0 then 1 else 0) + if p1 then 2 else 0 }

/-- Whether every entry of a validate set still holds its version (R230). -/
def State.snapshotHolds (s : State) (c : Nat) (vs : List (Word × Word × Word)) : Bool :=
  vs.all fun e => match s.opLive? c e.1 with
    | some r => s.versionAt (handleKey e.1) r e.2.1.toNat == e.2.2
    | none => false

/-- Performs a gv operation that has its translation, and delivers it. -/
def State.gvPerform (s : State) (x : Ctx) (o : GvOp) : State :=
  let c := o.ctx
  let s0 := s.dropGv o.id
  let out (t : State) (v : PV) : State := t.deliver c qGv o.id v
  if o.code = 6 then out s0 (num (if !x.r.vover && s.snapshotHolds c x.r.vlist then 1 else 0))
  else if o.code = 7 then s0.modRegs c fun r => { r with vlist := [], vover := false }
  else match s.opLive? c o.handle with
  | none => s0.imprecise c (staleFault o.handle o.slot o.bno)
  | some r =>
    let t := handleKey o.handle
    let offs := (imageBytes r o.idx (gvWords o.code)).map (storeAddr t)
    let s1 := (s0.earlyHits c offs).touch offs
    let seen (off : Nat) : Byte := (s1.viewByte c o.id (storeAddr t off)).1
    let home (off : Nat) : Byte := (s1.homeByte (storeAddr t off)).1
    let line := lineOf (wordAddr t r o.idx)
    let ver := s1.versionAt t r o.idx
    if o.code ≤ 1 ∨ o.code = 4 then
      let bad (i : Nat) : Bool := (imageBytes r i 1).any fun a => (s1.viewByte c o.id (storeAddr t a)).2
      let w1 := if o.code = 1 then imageWord r seen (o.idx + 1) else 0
      let s2 := out s1 (gvLanes (imageWord r seen o.idx) w1 (bad o.idx) (o.code = 1 && bad (o.idx + 1)))
      if o.code = 4 then s2.deliver c qGvV o.id (PV.ofWord ver false) else s2
    else if o.code = 5 then
      if 8 ≤ x.r.vlist.length then out (s1.modRegs c fun q => { q with vover := true }) (PV.ofWord 0xffffffff#32 false)
      else out (s1.modRegs c fun q => { q with vlist := q.vlist ++ [(o.handle, BitVec.ofNat 32 o.idx, o.o2.scalar)] })
        (num (x.r.vlist.length + 1))
    else
      let old := imageWord r home o.idx
      let oldBad := offs.any fun a => (s1.homeByte a).2
      let put (u : State) (w : Word) (p : Bool) : State :=
        let cs := (putWord r (fun b => (u.homeByte (storeAddr t b)).1) [] o.idx w).map fun q => (storeAddr t q.1, q.2)
        (u.noteWrite c offs).homeStore cs (allBad cs p)
      if o.code = 8 then
        if ver = o.o3.scalar then
          -- the context's own held stores to the line are published with the word, and the version rises once
          let s2 := s1.publishVer (ownStore c x.barge) fun l => l == line
          let s3 : State := if offs.isEmpty then s2
            else { s2 with ms := { s2.ms with versions := s2.ms.versions.set line (ver + 1) 0 } }
          (out (put s3 o.o2.scalar (o.o2.bad || o.o3.bad)) (PV.ofWord 1 o.o3.bad)).deliver c qGvV o.id (PV.ofWord (ver + 1) false)
        else (out s1 (PV.ofWord 0 o.o3.bad)).deliver c qGvV o.id (PV.ofWord ver false)
      else
        let bad := oldBad || o.o2.bad || (o.code == 14 && o.o3.bad)
        let s2 := put s1 (gvAmoWord o.code old o.o2.scalar o.o3.scalar) bad
        let s3 := if r.ver && !offs.isEmpty then s2.bumpLines [line] else s2
        if gvResult o.code then out s3 (gvLanes old 0 oldBad false) else s3

/-- GV_ACCESS_COMPLETE. -/
def execGvAccessComplete (id : Nat) (s : State) : Out :=
  match s.wk.gv.find? fun o => o.id == id with
  | none => .next s
  | some o =>
    match s.ctx? o.ctx with
    | none => .next s
    | some x => if s.gvMay x o then .next (s.gvPerform x o) else .next s

/-! ### The drain of the store gate (R315) -/

/-- Whether a gated global store waits for a publication or a fence of its context (R235): such stores are held. -/
def State.heldByPub (s : State) (c id : Nat) : Bool := s.wk.pubs.any fun p => p.ctx == c && p.id < id && p.code != 4

/-- A store to an MSA page of another die whose turn has come has been sent, though it is not yet performed (R345). -/
def State.sendGated (s : State) (c : Nat) (g : GStore) : State :=
  match s.sentTick c g.handle with
  | some t => s.modCtx c fun x => { x with gate := x.gate.map fun q => if q.opId = g.opId && q.sent.isNone then { q with sent := some t } else q }
  | none => s

/-- Performs released stores in program order until one may not be performed. -/
def State.drainGate (s : State) (c : Nat) : Nat → State
  | 0 => s
  | n + 1 =>
    match s.ctx? c with
    | none => s
    | some x =>
      match x.gate with
      | [] => s
      | g :: gs =>
        if !s.drainTurn c x g || (g.isGlobal && s.heldByPub c g.opId) then s
        else if s.msaHeld c g || (s.msaStore g && s.arrivesBefore (s.dieOf c) (handleHome g.handle) (g.sent.getD (s.dieTick (s.dieOf c))) g.opId)
        then s.sendGated c g
        else
          let s1 := s.putCtx c { x with gate := gs }
          (if g.isGlobal then s1.performGlobal c x g else s1.scratchStore g.cells g.poi).drainGate c n

/-- STORE_GATE_DRAIN: the released stores are performed in program order (R315). -/
def execStoreGateDrain (c : Nat) (s : State) : Out :=
  .next (s.drainGate c (((s.ctx? c).map (·.gate.length)).getD 0))

/-! ### Publication, acquire, fence (R235) -/

/-- What must be done before a publication operation may complete: earlier stores are performed, earlier loads have bound their values, so
that the publication follows in the orders of R274 and R275 what they observed, and at pk and sy the held stores can reach their homes. -/
def State.pubReady (s : State) (x : Ctx) (p : PubOp) : Bool :=
  let gv := s.wk.gv.filter fun o => o.ctx == p.ctx && o.id < p.id
  let tiles := s.wk.tiles.filter fun k => k.ctx == p.ctx && k.id < p.id
  let gated := x.gate.any fun g => g.isGlobal && g.opId < p.id
  let earlier := s.wk.pubs.any fun q => q.ctx == p.ctx && q.id < p.id
  !earlier &&
  (match p.code with
   | 4 => !s.unbound p.ctx p.id
   | 6 => gv.isEmpty && tiles.isEmpty && !gated
   | _ => !gated && !(gv.any fun o => gvWrites o.code || gvBinds o.code) &&
     !(s.ms.held.any fun h => ownStore p.ctx x.barge h && (h.ver || 4 ≤ p.scope) && !s.heldMay h) && !(tiles.any fun k => k.code == 2 || k.code == 3))

/-- BN_PUB_COMPLETE: the publication, acquire or fence completes, and bn.q receives 0; one at pk or sy of which a store is still on its
way goes on waiting. -/
def execBnPubComplete (id : Nat) (s : State) : Out :=
  match s.wk.pubs.find? fun p => p.id == id with
  | none => .next s
  | some p =>
    match s.ctx? p.ctx with
    | none => .next s
    | some x =>
      if s.pubReady x p then
        let publishes := p.code == 3 || p.code == 5
        let s1 := if publishes then s.publish p.ctx x.barge p.scope else s
        if publishes && 4 ≤ p.scope && s1.ms.held.any (ownStore p.ctx x.barge) then .next s1
        else .next ({ s1 with wk := { s1.wk with pubs := s1.wk.pubs.filter fun q => q.id != id } }.deliver p.ctx qBn id (num 0))
      else .next s

end Sys2Proof.Machine
end

