-- ==== Sys2Proof/Machine/Matrix.lean ====
section
/-! DEFINITION. The matrix engine (R242 to R259): shape and rings, the operand queue, products, the softmax step, accumulator
operations and drains. An operation reads its operands and accumulators at its start and takes effect at its retirement. -/
namespace Sys2Proof.Machine
open Sys2Proof

/-! ### Shape and ring selection (R243, R244, R246) -/

def shapeM (h : Word) : Nat := field h 0 8
def shapeN (h : Word) : Nat := field h 8 8
def shapeKB (h : Word) : Nat := field h 16 5
def shapeEmpty (h : Word) : Bool := shapeM h == 0 || shapeN h == 0
/-- T of R243. -/
def shapeT (h : Word) : Nat := ceilDiv (shapeM h) 32 * ceilDiv (shapeN h) 32
def ringA (r : BitVec 12) : Nat := r.toNat % 16
def ringB (r : BitVec 12) : Nat := r.toNat / 16 % 16
def ringP (r : BitVec 12) : Nat := r.toNat / 256 % 16

/-- The word (r, c) of a tile; side registers use the tile and row. -/
def accKey (tile r c : Nat) : Nat := tile * 1024 + r * 32 + c
def sideKey (tile r : Nat) : Nat := tile * 32 + r
/-- Where element (i, j) of a region of n columns at base tile b lies (R243). -/
def regionKey (b n i j : Nat) : Nat := accKey (b + ceilDiv n 32 * (i / 32) + j / 32) (i % 32) (j % 32)

def negInf : Word := 0xff800000#32
def Ctx.accAt (x : Ctx) (k : Nat) : Word := x.acc.get k 0
def Ctx.rmaxAt (x : Ctx) (t r : Nat) : Word := x.rmax.get (sideKey t r) negInf
def Ctx.rsumAt (x : Ctx) (t r : Nat) : Word := x.rsum.get (sideKey t r) 0

/-! ### Operands (Table 15.3, R247) -/

/-- Elements for each index of format 7. -/
def cbGroup (fmt : Word) : Nat := if 2 ≤ fmtCbmode fmt then 4 else 1
/-- The element format of an operand, after expansion (R247). -/
def elemCode (code : Nat) (fmt : Word) : Nat :=
  if isMx code then mxPlain code
  else if code = 7 then (match fmtCbmode fmt with | 1 => 0 | 2 => 3 | _ => 1)
  else code

/-- The tile that an operand of rows and columns occupies in its slot. -/
def slotTile (code : Nat) (fmt : Word) (rows cols : Nat) : Tile :=
  { rows := rows, cols := if code = 7 then cols / cbGroup fmt else cols, code := code, width := padWidth code fmt }

def tileA (fmt shape : Word) (ta : Bool) : Tile :=
  let k := 32 * shapeKB shape
  if ta then slotTile (fmtA fmt) fmt k (shapeM shape) else slotTile (fmtA fmt) fmt (shapeM shape) k
def tileB (fmt shape : Word) (tb : Bool) : Tile :=
  let k := 32 * shapeKB shape
  if tb then slotTile (fmtB fmt) fmt (shapeN shape) k else slotTile (fmtB fmt) fmt k (shapeN shape)

/-- An index of a format-7 operand at element column c. -/
def bookIndex (fmt : Word) (t : Tile) (n r c : Nat) : Nat := t.elem n r (c / cbGroup fmt)

/-- The bits of element (r, c) of an operand in its element format; an invalid codebook entry gives zero. -/
def operandBits (fmt : Word) (book : Book) (t : Tile) (n r c : Nat) : Nat :=
  if t.code = 7 then
    let i := bookIndex fmt t n r c
    let e := cbOutBits (fmtCbmode fmt) / cbGroup fmt
    if book.valid.getLsbD i then (book.entries.get i 0).toNat / 2 ^ (e * (c % cbGroup fmt)) % 2 ^ e else 0
  else t.elem n r c

/-- The product of two elements: table-summed for LNS6 (R37), exact for integers, whose zero has no sign (R48, R49). -/
def elemProduct (fmt : Word) (ca cb a b : Nat) : FV :=
  if ca = 5 then lnsMul a b
  else if ca = 6 ∧ cb = 6 then FV.ofInt ((fmtInt fmt).decode a * (fmtInt fmt).decode b)
  else (elemValue ca (fmtInt fmt) a).mul (elemValue cb (fmtInt fmt) b)

/-- The value of an E8M0 scale. -/
def scaleValue (c : Nat) : FV := if c = 255 then .nan else .fin false 1 ((c : Int) - 127)

def sumFV : List FV → FV
  | [] => .zero
  | x :: xs => xs.foldl FV.add x

/-- What a product reads: the tiles and bytes of A and B and whether each is transposed. -/
structure Operands where
  ta : Bool
  tb : Bool
  a : Tile
  b : Tile
  na : Nat
  nb : Nat
  deriving DecidableEq, Repr

/-- One block sum of R48, rounded. -/
def blockSum (fmt : Word) (book : Book) (p : Operands) (i j blk : Nat) : Word :=
  let ca := elemCode p.a.code fmt
  let cb := elemCode p.b.code fmt
  let terms := (List.range 32).map fun d =>
    let k := 32 * blk + d
    let a := if p.ta then operandBits fmt book p.a p.na k i else operandBits fmt book p.a p.na i k
    let b := if p.tb then operandBits fmt book p.b p.nb j k else operandBits fmt book p.b p.nb k j
    elemProduct fmt ca cb a b
  let sa := if isMx p.a.code && fmtMxs fmt then scaleValue (p.a.scale p.na i (32 * blk)) else FV.ofInt 1
  let sb := if isMx p.b.code && fmtMxs fmt then scaleValue (p.b.scale p.nb j (32 * blk)) else FV.ofInt 1
  f32 (((sumFV terms).mul sa).mul sb)

/-- The blocks from blk on accumulate into acc; the first block of mmaz sets it. -/
def accumulate (fmt : Word) (book : Book) (p : Operands) (i j : Nat) (sets : Bool) : Nat → Nat → Word → Word
  | 0, _, acc => acc
  | n + 1, blk, acc =>
    let v := blockSum fmt book p i j blk
    accumulate fmt book p i j sets n (blk + 1) (if sets && blk == 0 then v else addF32 acc v)

/-- Whether a tile holds a reserved integer code that traps (R40). -/
def tileTraps (fmt : Word) (t : Tile) (n : Nat) : Bool :=
  t.code == 6 && (List.range (t.rows * t.cols)).any fun k => (fmtInt fmt).traps (t.elem n (k / t.cols) (k % t.cols))

/-- The first invalid index of a format-7 tile (R251). -/
def tileInvalid (fmt : Word) (book : Book) (t : Tile) (n : Nat) : Option Nat :=
  if t.code = 7 && !fmtIzero fmt then
    ((List.range (t.rows * t.cols)).map fun k => t.elem n (k / t.cols) (k % t.cols)).find? fun i => !book.valid.getLsbD i
  else none

/-- Whether an expanded entry carries a poison mark. -/
def tileBookPoison (book : Book) (t : Tile) (n : Nat) : Bool :=
  t.code == 7 && (List.range (t.rows * t.cols)).any fun k => book.poi.getLsbD (t.elem n (k / t.cols) (k % t.cols))

/-! ### Fields of the triggers -/

def mxBase (y : Word) : Nat := field y 0 3
def mxTA (code : Nat) (y : Word) : Bool := if code = 4 then y.getLsbD 8 else y.getLsbD 3
def mxTB (code : Nat) (y : Word) : Bool := if code = 4 then y.getLsbD 9 else y.getLsbD 4
/-- mmasm: score tile, output tile, W. -/
def smTile (y : Word) : Nat := field y 0 3
def smOut (y : Word) : Nat := field y 3 3
def smW (y : Word) : Nat := field y 6 2 + 1
def drainTR (o : Word) : Bool := o.getLsbD 3
def drainFW (o : Word) : Bool := o.getLsbD 4

/-! ### Checks at issue (R251) -/

def mxFail (v : Word) : Fail := illTrig v.toNat

def checkShape (_ : State) (t : Trig) (_ : Ctx) : Option Fail :=
  let y := t.y.scalar
  failIf (field y 21 11 != 0 || shapeKB y == 0 || 16 < shapeKB y || 128 < shapeM y || 128 < shapeN y) (mxFail y)
def checkRing (_ : State) (t : Trig) (_ : Ctx) : Option Fail := failIf (field t.y.scalar 12 20 != 0) (mxFail t.y.scalar)

/-- A ring is declared, and its slot holds an operand of n bytes. -/
def ringHolds (s : State) (c r n : Nat) : Bool :=
  match s.ringOf c r with
  | some x => decide (n ≤ x.slotSize)
  | none => false

/-- Rings, slot sizes, the MX layout rule and the codebook claim of a product. -/
def checkOperands (code : Nat) (s : State) (t : Trig) (x : Ctx) : Option Fail :=
  let f := x.r.fmt
  let h := x.r.shape
  let y := t.y.scalar
  let a := tileA f h (mxTA code y)
  let b := tileB f h (mxTB code y)
  let e := shapeEmpty h
  let na := if e then 0 else a.bytes
  let nb := if e then 0 else b.bytes
  let badCols (code : Nat) (cols : Nat) : Bool := !e && code == 7 && cols % cbGroup f != 0
  (failIf (matrixReserved f) (fmtFail f)).orElse fun _ =>
  (failIf (fmtMxs f && ((isMx (fmtA f) && mxTA code y) || (isMx (fmtB f) && !mxTB code y))) (mxFail y)).orElse fun _ =>
  (failIf (badCols (fmtA f) (if mxTA code y then shapeM h else 32) || badCols (fmtB f) (if mxTB code y then 32 else shapeN h))
    (mxFail y)).orElse fun _ =>
  (failIf (!ringHolds s t.ctx (ringA x.r.ring) na || !ringHolds s t.ctx (ringB x.r.ring) nb) (mxFail y)).orElse fun _ =>
  if !e && (fmtA f == 7 || fmtB f == 7) then checkClaim s t.ctx (fmtCbank f) else none

def checkMma (s : State) (t : Trig) (x : Ctx) : Option Fail :=
  let y := t.y.scalar
  (failIf (field y 5 27 != 0 || 8 < mxBase y + shapeT x.r.shape) (mxFail y)).orElse fun _ => checkOperands 2 s t x

def checkMmasm (s : State) (t : Trig) (x : Ctx) : Option Fail :=
  let y := t.y.scalar
  (failIf (field y 10 22 != 0 || 32 < shapeM x.r.shape || 32 < shapeN x.r.shape || 8 < smOut y + smW y ||
    (smOut y ≤ smTile y && smTile y < smOut y + smW y)) (mxFail y)).orElse fun _ => checkOperands 4 s t x

/-- The destination tile of a drain. -/
def drainTile (fmt shape : Word) (tr : Bool) : Tile :=
  let d := fmtDrain fmt
  if tr then { rows := shapeN shape, cols := shapeM shape, code := d, width := padWidth d fmt }
  else { rows := shapeM shape, cols := shapeN shape, code := d, width := padWidth d fmt }

/-- Fields from bit res on are reserved in mx.o; the tile bound, the format and the destination. -/
def checkDrainAt (res : Nat) (t : Trig) (x : Ctx) : Option Fail :=
  let o := x.portW oMxO
  let d := drainTile x.r.fmt x.r.shape (drainTR o)
  (failIf (field o res (32 - res) != 0 || 8 < mxBase o + shapeT x.r.shape) (mxFail o)).orElse fun _ =>
  (failIf (drainReserved x.r.fmt) (fmtFail x.r.fmt)).orElse fun _ =>
  (failIf (!shapeEmpty x.r.shape && isMx d.code && d.cols % 32 != 0) (mxFail o)).orElse fun _ =>
  failIf (!addrLegal t.y.scalar.toNat d.bytes 32) (mxFail t.y.scalar)

def checkDrain (_ : State) (t : Trig) (x : Ctx) : Option Fail := checkDrainAt 5 t x

/-- The pre-activation tile of drainf. -/
def preTile (o shape : Word) : Tile :=
  let z := o.getLsbD 7
  { rows := shapeM shape, cols := shapeN shape, code := if z then 0 else 1, width := if z then 32 else 16 }

def checkDrainf (s : State) (t : Trig) (x : Ctx) : Option Fail :=
  let o := x.portW oMxO
  (failIf (field o 5 2 == 3) (mxFail o)).orElse fun _ =>
  (checkDrainAt 8 t x).orElse fun _ =>
  failIf (!ringHolds s t.ctx (ringP x.r.ring) (if shapeEmpty x.r.shape then 0 else (preTile o x.r.shape).bytes)) (mxFail o)

def checkZero (_ : State) (t : Trig) (_ : Ctx) : Option Fail :=
  let y := t.y.scalar
  failIf (field y 6 26 != 0 || 8 < field y 0 3 + (field y 3 3 + 1)) (mxFail y)
def checkLdacc (_ : State) (t : Trig) (x : Ctx) : Option Fail :=
  (failIf (field (x.portW oMxO) 3 29 != 0) (mxFail (x.portW oMxO))).orElse fun _ =>
    failIf (!addrLegal t.y.scalar.toNat 4096 32) (mxFail t.y.scalar)
def scaleW (y : Word) : Nat := field y 3 2 + 1
def checkScale (_ : State) (t : Trig) (_ : Ctx) : Option Fail :=
  let y := t.y.scalar
  failIf (field y 6 26 != 0 || 8 < field y 0 3 + scaleW y) (mxFail y)
def checkRowstat (_ : State) (t : Trig) (_ : Ctx) : Option Fail := failIf (field t.y.scalar 9 23 != 0) (mxFail t.y.scalar)
def checkSmreset (_ : State) (t : Trig) (_ : Ctx) : Option Fail := failIf (field t.y.scalar 3 29 != 0) (mxFail t.y.scalar)
def checkMxFence (_ : State) (t : Trig) (_ : Ctx) : Option Fail := failIf (t.y.scalar != 0) (mxFail t.y.scalar)

/-! ### The queue (R249) -/

def MxEff.none : MxEff where
  acc := []
  rmax := []
  rsum := []
  marks := []
  out := []
  q := PV.zero

/-- Whether an operation reads a format-7 operand. -/
def usesBook (code : Nat) (fmt shape : Word) : Bool :=
  2 ≤ code && code ≤ 4 && !shapeEmpty shape && (fmtA fmt == 7 || fmtB fmt == 7)

/-- Queues an operation with all its trigger carries. -/
def State.mxQueue (s : State) (t : Trig) (x : Ctx) (code : Nat) : State :=
  let (id, s1) := s.ticket
  let op : MxOp :=
    { id := id, ctx := t.ctx, core := coreOf t.ctx, code := code, y := t.y.scalar, o := (x.port oMxO).toPW, fmt := x.r.fmt,
      shape := x.r.shape, ring := x.r.ring,
      book := if usesBook code x.r.fmt x.r.shape then some (s.activeBank t.ctx x).book else none,
      bno := t.bno, slot := t.slot, trig := t.cyc, start := none, eff := MxEff.none, fault := none }
  { s1 with wk := { s1.wk with mx := s1.wk.mx ++ [op] } }.pendPort t.ctx qMx id

def mxOp (code : Nat) (chk : State → Trig → Ctx → Option Fail) (s : State) : Out :=
  checked s chk fun t x => s.mxQueue t x code

def execMxShape (s : State) : Out :=
  checked s checkShape fun t _ => s.modRegs t.ctx fun r => { r with shape := t.y.scalar }
def execMxRing (s : State) : Out :=
  checked s checkRing fun t _ => s.modRegs t.ctx fun r => { r with ring := t.y.scalar.extractLsb' 0 12 }
def execMxMma (s : State) : Out := mxOp 2 checkMma s
def execMxMmaz (s : State) : Out := mxOp 3 checkMma s
def execMxMmasm (s : State) : Out := mxOp 4 checkMmasm s
def execMxDrain (s : State) : Out := mxOp 5 checkDrain s
def execMxDrainf (s : State) : Out := mxOp 6 checkDrainf s
def execMxZero (s : State) : Out := mxOp 7 checkZero s
def execMxLdacc (s : State) : Out := mxOp 8 checkLdacc s
def execMxScale (s : State) : Out := mxOp 9 checkScale s
def execMxRowstat (s : State) : Out := mxOp 10 checkRowstat s
def execMxSmreset (s : State) : Out := mxOp 11 checkSmreset s
def execMxFence (s : State) : Out := mxOp 12 checkMxFence s

/-- Table 15.4. -/
def mxLatency (o : MxOp) : Nat :=
  let t := shapeT o.shape
  match o.code with
  | 2 | 3 => if shapeEmpty o.shape then 12 else 12 + 16 * t * shapeKB o.shape
  | 4 => if shapeEmpty o.shape then 12 else 32 + 16 * shapeKB o.shape + 4 * smW o.y
  | 5 => 12 + 8 * t
  | 6 => 12 + 16 * t
  | 7 => 4 + (field o.y 3 3 + 1)
  | 8 => 28
  | 9 => 4 + 4 * scaleW o.y
  | 10 | 11 => 2
  | _ => 1

def State.mxOf (s : State) (core : Nat) : List MxOp := s.wk.mx.filter fun o => o.core == core
def State.mxHead (s : State) (core : Nat) : Option MxOp := (s.mxOf core).head?
def State.modMx (s : State) (id : Nat) (f : MxOp → MxOp) : State :=
  { s with wk := { s.wk with mx := s.wk.mx.map fun o => if o.id = id then f o else o } }

/-- The bytes of an operand's slot that an operation reads: without scales under fmt[23] = 0 (R43, R247). -/
def slotBytes (fmt : Word) (t : Tile) : Nat := if fmtMxs fmt then t.bytes else t.rows * t.pitch

/-- The ring slots that an operation reads: ring and bytes (R248). -/
def mxReads (o : MxOp) : List (Nat × Nat) :=
  if shapeEmpty o.shape then []
  else if 2 ≤ o.code && o.code ≤ 4 then
    [(ringA o.ring, slotBytes o.fmt (tileA o.fmt o.shape (mxTA o.code o.y))),
     (ringB o.ring, slotBytes o.fmt (tileB o.fmt o.shape (mxTB o.code o.y)))]
  else if o.code = 6 then [(ringP o.ring, (preTile o.o.val o.shape).bytes)]
  else []

/-- The n bytes of scratchpad at an address as one number, and the mark of each: stores still in a gate are not seen (R257). -/
def State.slotNat (s : State) (c a n : Nat) : Nat × List Bool :=
  let r := s.seenBytes c 0 (s.physList c a n)
  (leNat r.1, r.2)

/-- Every granule that an operation reads in a ring is full (R248). -/
def State.slotsFull (s : State) (o : MxOp) : Bool := (mxReads o).all fun r => s.allFull o.ctx (s.headAddr o.ctx r.1) r.2

/-- Orders before an operation may start: its slots are full (R248), and ldacc reads after the earlier stores to its bytes (R254). -/
def State.mxReady (s : State) (x : Ctx) (o : MxOp) : Bool :=
  s.slotsFull o && (o.code != 8 || s.storesOverTo o.ctx x o.id (s.physList o.ctx o.y.toNat 4096))

/-! ### Effects -/

def noBook : Book := { entries := [], valid := 0, poi := 0 }

/-- What a product reads at its start, and whether any of it is poisoned. -/
def State.mxOperands (s : State) (o : MxOp) : Operands × Bool :=
  let ta := mxTA o.code o.y
  let tb := mxTB o.code o.y
  let a := tileA o.fmt o.shape ta
  let b := tileB o.fmt o.shape tb
  let ra := s.slotNat o.ctx (s.headAddr o.ctx (ringA o.ring)) (slotBytes o.fmt a)
  let rb := s.slotNat o.ctx (s.headAddr o.ctx (ringB o.ring)) (slotBytes o.fmt b)
  let bk := o.book.getD noBook
  ({ ta := ta, tb := tb, a := a, b := b, na := ra.1, nb := rb.1 },
   ra.2.any id || rb.2.any id || tileBookPoison bk a ra.1 || tileBookPoison bk b rb.1)

/-- The late fault of a product: INT_RESERVED or CB_INVALID (R40, R251). -/
def mxLate (o : MxOp) (p : Operands) : Option FaultInfo :=
  let bk := o.book.getD noBook
  if tileTraps o.fmt p.a p.na || tileTraps o.fmt p.b p.nb then some (laterFault 6 0x60 o.y.toNat o.slot o.bno)
  else ((tileInvalid o.fmt bk p.a p.na).orElse fun _ => tileInvalid o.fmt bk p.b p.nb).map fun i =>
    laterFault 4 0x40 (i + 256 * fmtCbank o.fmt) o.slot o.bno

/-- The elements of the region, row by row. -/
def regionElems (h : Word) : List (Nat × Nat) :=
  (List.range (shapeM h)).flatMap fun i => (List.range (shapeN h)).map fun j => (i, j)

def tilesFrom (b n : Nat) : List Nat := (List.range n).map (b + ·)

/-- mma and mmaz (R252). -/
def mmaEff (x : Ctx) (o : MxOp) (p : Operands) (bad : Bool) : MxEff :=
  let b := mxBase o.y
  { MxEff.none with
    acc := (regionElems o.shape).map fun e =>
      let k := regionKey b (shapeN o.shape) e.1 e.2
      (k, accumulate o.fmt (o.book.getD noBook) p e.1 e.2 (o.code == 3) (shapeKB o.shape) 0 (x.accAt k)),
    marks := (tilesFrom b (shapeT o.shape)).map fun t => (t, bad || x.accPoi.getLsbD t) }

/-- One row of mmasm (R253): the row of P, the new side entries and alpha. -/
def softmaxRow (tau mOld sOld : Word) (ss : List Word) : List Word × Word × Word × Word :=
  let ts := ss.map fun v => mulF32 tau v
  let mNew := ts.foldl maxF32 mOld
  let alpha := if mNew = negInf then 0x3f800000#32 else exp2F32 (subF32 mOld mNew)
  let ps := if mNew = negInf then ts.map fun _ => (0 : Word) else ts.map fun t => exp2F32 (subF32 t mNew)
  let sum := f32 (ps.foldl (fun a q => a.add (ofF32 q)) ((ofF32 alpha).mul (ofF32 sOld)))
  (ps, mNew, sum, alpha)

/-- mmasm (R253). -/
def mmasmEff (x : Ctx) (o : MxOp) (p : Operands) (bad : Bool) : MxEff :=
  let m := shapeM o.shape
  let n := shapeN o.shape
  let so := smOut o.y
  let rows := (List.range m).map fun i =>
    let ss := (List.range n).map fun j => accumulate o.fmt (o.book.getD noBook) p i j true (shapeKB o.shape) 0 0
    (i, softmaxRow o.o.val (x.rmaxAt so i) (x.rsumAt so i) ss)
  { MxEff.none with
    acc := rows.flatMap fun r =>
      ((List.range n).map fun j => (accKey (smTile o.y) r.1 j, r.2.1.getD j 0)) ++
      ((tilesFrom so (smW o.y)).flatMap fun u => (List.range 32).map fun c =>
        (accKey u r.1 c, mulF32 (x.accAt (accKey u r.1 c)) r.2.2.2.2)),
    rmax := rows.map fun r => (sideKey so r.1, r.2.2.1),
    rsum := rows.map fun r => (sideKey so r.1, r.2.2.2.1),
    marks := (smTile o.y :: tilesFrom so (smW o.y)).map fun t => (t, bad || o.o.poi || x.accPoi.getLsbD t) }

/-- The derivative of an activation times G (R256). -/
def actDeriv (act : Nat) (g z : Word) : Word :=
  let one : Word := 0x3f800000#32
  match act with
  | 0 => if ltF32 0 z then g else 0
  | 1 =>
    let cg : Word := 0x3f4c422a#32
    let z2 := mulF32 z z
    let a := fmaF32 0x3d372713#32 z2 one
    let th := tanhF32 (mulF32 (mulF32 cg z) a)
    let h := mulF32 cg (fmaF32 0x3e095d4f#32 z2 one)
    let q := fnmaF32 th th one
    let v := mulF32 (mulF32 z q) h
    let d := f32 (((ofF32 0x3f000000#32).mul (ofF32 (addF32 one th))).add ((ofF32 0x3f000000#32).mul (ofF32 v)))
    mulF32 g d
  | _ =>
    let sg := rcpF32 (addF32 one (exp2F32 (f32 ((ofF32 z).neg.mul (ofF32 0x3fb8aa3b#32)))))
    mulF32 g (mulF32 sg (fmaF32 z (subF32 one sg) one))

/-- The granules that a drain writes, from the value and the mark of each element of the region (R255). -/
def State.drainOut (s : State) (o : MxOp) (val : Nat → Nat → Word) (bad : Nat → Nat → Bool) : List (List (Nat × Byte) × Bool) :=
  let tr := drainTR o.o.val
  let d := drainTile o.fmt o.shape tr
  let v (r c : Nat) : Word := if tr then val c r else val r c
  let b (r c : Nat) : Bool := if tr then bad c r else bad r c
  let bytes :=
    if d.code = 0 then d.build (fun r c => (v r c).toNat) fun _ _ => 0
    else d.ofValues (fmtInt o.fmt) (fmtRound o.fmt) (fmtMxs o.fmt) fun r c => ofF32 (v r c)
  let mask := d.build (fun r c => if b r c then 2 ^ d.width - 1 else 0)
    fun r k => if (List.range 32).any fun c => b r (32 * k + c) then 255 else 0
  let ps := s.physList o.ctx o.y.toNat d.bytes
  let n := d.bytes / 32
  ((cut32 n (zipCells ps bytes)).zip (cut32 n (zipCells ps mask))).map fun g => (g.1, g.2.any fun c => c.2 != 0)

def drainEff (s : State) (x : Ctx) (o : MxOp) : MxEff :=
  let b := mxBase o.o.val
  let n := shapeN o.shape
  let mark (i j : Nat) : Bool := x.accPoi.getLsbD (regionKey b n i j / 1024)
  if o.code = 5 then { MxEff.none with out := s.drainOut o (fun i j => x.accAt (regionKey b n i j)) mark }
  else
    let t := preTile o.o.val o.shape
    let z := s.slotNat o.ctx (s.headAddr o.ctx (ringP o.ring)) t.bytes
    let zAt (i j : Nat) : Word := f32 (elemValue t.code (fmtInt 0) (t.elem z.1 i j))
    { MxEff.none with
      out := s.drainOut o (fun i j => actDeriv (field o.o.val 5 2) (x.accAt (regionKey b n i j)) (zAt i j))
        fun i j => mark i j || z.2.getD (i * t.pitch + j * t.width / 8) false }

/-- The words of tiles b … b + w − 1. -/
def tileKeys (b w : Nat) : List Nat := (List.range (w * 1024)).map (b * 1024 + ·)

/-- The effect of an operation at its start. -/
def State.mxEffect (s : State) (x : Ctx) (o : MxOp) : MxEff × Option FaultInfo :=
  let b := field o.y 0 3
  let pure_ (e : MxEff) : MxEff × Option FaultInfo := (e, none)
  match o.code with
  | 2 | 3 =>
    if shapeEmpty o.shape then pure_ MxEff.none
    else let p := s.mxOperands o; (mmaEff x o p.1 p.2, mxLate o p.1)
  | 4 =>
    if shapeEmpty o.shape then pure_ MxEff.none
    else let p := s.mxOperands o; (mmasmEff x o p.1 p.2, mxLate o p.1)
  | 5 | 6 => pure_ (if shapeEmpty o.shape then MxEff.none else drainEff s x o)
  | 7 =>
    let w := field o.y 3 3 + 1
    pure_ { MxEff.none with acc := (tileKeys b w).map fun k => (k, 0), marks := (tilesFrom b w).map fun t => (t, false) }
  | 8 =>
    let t := field o.o.val 0 3
    let r := s.slotNat o.ctx o.y.toNat 4096
    pure_ { MxEff.none with acc := (List.range 1024).map fun i => (t * 1024 + i, BitVec.ofNat 32 (r.1 / 2 ^ (32 * i))),
                            marks := [(t, r.2.any id || o.o.poi)] }
  | 9 =>
    let w := scaleW o.y
    let f (i : Nat) : Word := if o.y.getLsbD 5 then rcpF32 (x.rsumAt b i) else o.o.val
    pure_ { MxEff.none with acc := (tileKeys b w).map fun k => (k, mulF32 (x.accAt k) (f (k % 1024 / 32))),
                            marks := (tilesFrom b w).map fun t => (t, (!o.y.getLsbD 5 && o.o.poi) || x.accPoi.getLsbD t ||
                              (o.y.getLsbD 5 && x.accPoi.getLsbD b)) }
  | 10 =>
    let r := field o.y 3 5
    pure_ { MxEff.none with q := PV.ofWord (if o.y.getLsbD 8 then x.rsumAt b r else x.rmaxAt b r) (x.accPoi.getLsbD b) }
  | 11 =>
    pure_ { MxEff.none with rmax := (List.range 32).map fun i => (sideKey b i, negInf),
                            rsum := (List.range 32).map fun i => (sideKey b i, 0) }
  | _ => pure_ MxEff.none

/-! ### Start and retirement -/

/-- MX_OP_START: the head of a core's queue starts in the latest of its trigger's cycle, the cycle from which its predecessor
is visible, and the cycle in which the last granule it waits for became full. -/
def execMxOpStart (core : Nat) (s : State) : Out :=
  match s.mxHead core with
  | none => .next s
  | some o =>
    match s.ctx? o.ctx with
    | none => .next s
    | some x =>
      if o.start.isNone && s.mxReady x o then
        let k := s.core core
        let e := s.mxEffect x o
        .next (s.modMx o.id fun p => { p with start := some (max o.trig (max k.mxVis (k.cyc - 1))), eff := e.1, fault := e.2 })
      else .next s

/-- Whether a drain may write a destination granule: after its context's earlier stores and loads (R269, R277), and under FW when the
granule is empty. -/
def State.granuleFree (s : State) (x : Ctx) (o : MxOp) (g : List (Nat × Byte) × Bool) : Bool :=
  s.storesOver o.ctx x o.id && s.loadsOver o.ctx x o.id && (!drainFW o.o.val || (g.1.head?.map fun c => !s.fbit c.1).getD true)

/-- Writes one destination granule and sets it full, on a core in service. -/
def State.writeGranule (s : State) (g : List (Nat × Byte) × Bool) : State :=
  match g.1 with
  | [] => s
  | (a, _) :: _ => if (s.core (coreOfPhys a)).fenced then s else (s.storeCells g.1 (allBad g.1 g.2)).setF a true

def setMany (m : Map Word) (d : Word) (ws : List (Nat × Word)) : Map Word := ws.foldl (fun u w => u.set w.1 w.2 d) m

def setMark (m : BitVec 8) (p : Nat × Bool) : BitVec 8 := if p.2 then m ||| (1#8 <<< p.1) else m &&& ~~~(1#8 <<< p.1)

/-- The writes, pops and delivery of a retiring operation. -/
def State.mxRetire (s : State) (o : MxOp) : State :=
  let s1 := s.modCtx o.ctx fun x =>
    { x with acc := setMany x.acc 0 o.eff.acc, rmax := setMany x.rmax negInf o.eff.rmax, rsum := setMany x.rsum 0 o.eff.rsum,
             accPoi := o.eff.marks.foldl setMark x.accPoi }
  let s2 := ((mxReads o).map Prod.fst).eraseDups.foldl (fun t r => t.popRing o.ctx r) s1
  let s3 : State := { s2 with wk := { s2.wk with mx := s2.wk.mx.filter fun p => p.id != o.id } }
  let s4 := (s3.modCore o.core fun k => { k with mxVis := max ((o.start.getD 0) + mxLatency o) k.cyc }).deliver o.ctx qMx o.id o.eff.q
  match o.fault with
  | some f => s4.imprecise o.ctx f
  | none => s4

/-- MX_OP_RETIRE: a started operation writes its next destination granule; with none left and its latency over, it
retires. -/
def execMxOpRetire (core : Nat) (s : State) : Out :=
  match s.mxHead core with
  | none => .next s
  | some o =>
    match o.start, s.ctx? o.ctx with
    | some u, some x =>
      match o.eff.out.find? (s.granuleFree x o) with
      | some g => .next ((s.writeGranule g).modMx o.id fun p => { p with eff := { p.eff with out := p.eff.out.erase g } })
      | none => if o.eff.out.isEmpty && u + mxLatency o ≤ (s.core core).cyc then .next (s.mxRetire o) else .next s
    | _, _ => .next s

end Sys2Proof.Machine
end

