-- ==== Sys2Proof/Machine/RowEngine.lean ====
section
/-! DEFINITION. The row engine (R260 to R265): its queue, its slots, and what each command computes. Codes are positions from
0x2a0. A command takes effect at its completion. -/
namespace Sys2Proof.Machine
open Sys2Proof

/-! ### Arithmetic (R264) -/

/-- x / d rounded once to FP32: the quotient to 64 more bits with a sticky bit rounds alike. -/
def roundDiv (x : Word) (d : Nat) : Word :=
  match ofF32 x with
  | .fin neg m e =>
    let q := m * 2 ^ 80 / d
    f32 (.fin neg (2 * q + (if m * 2 ^ 80 % d = 0 then 0 else 1)) (e - 81))
  | v => f32 v

def rwL2 : Word := 0x3fb8aa3b#32

/-- The sum of a list by a step, in ascending order from +0. -/
def rowSum (f : Word → Word → Word) (xs : List Word) : Word := xs.foldl (fun a x => f x a) 0
/-- The same over pairs. -/
def rowDot (xs gs : List Word) : Word := (xs.zip gs).foldl (fun a p => fmaF32 p.1 p.2 a) 0

/-- x̂ of an element, from the slot's (μ, r). -/
def xhat (mu rr x : Word) : Word := mulF32 (subF32 x mu) rr
/-- The exponential of softmax, from m. -/
def smExp (m x : Word) : Word := exp2F32 (mulF32 (subF32 x m) rwL2)
/-- The forward softmax value, from the slot's (m, s). -/
def smValue (m s x : Word) : Word := if m = negInf then 0 else mulF32 (smExp m x) (rcpF32 s)

/-- fstat of one row: the slot entry. -/
def rowStat (rms : Bool) (eps : Word) (xs : List Word) : Word × Word :=
  let d := xs.length
  let mu := if rms then 0 else roundDiv (rowSum (fun x a => addF32 a x) xs) d
  let q := rowSum (fun x a => let dd := if rms then x else subF32 x mu; fmaF32 dd dd a) xs
  (mu, rsqF32 (addF32 (roundDiv q d) eps))

/-- fsmx of one row: the slot entry and Y. -/
def rowSoftmax (xs : List Word) : (Word × Word) × List Word :=
  let m := xs.foldl maxF32 (xs.headD 0)
  if m = negInf then ((m, 0), xs.map fun _ => 0)
  else
    let es := xs.map (smExp m)
    let s := rowSum (fun e a => addF32 a e) es
    ((m, s), es.map fun e => mulF32 e (rcpF32 s))

/-- Y of norm and of the backward passes, from the slot's pair. -/
def rowBack (code : Nat) (p q : Word) (xs gs : List Word) : List Word :=
  let d := xs.length
  let xh := xs.map (xhat p q)
  match code with
  | 2 => xh
  | 3 =>
    let ma := roundDiv (rowSum (fun g a => addF32 a g) gs) d
    let mb := roundDiv (rowDot gs xh) d
    (xh.zip gs).map fun e => mulF32 q (subF32 e.2 (fmaF32 e.1 mb ma))
  | 4 =>
    let mb := roundDiv (rowDot gs xh) d
    (xh.zip gs).map fun e => mulF32 q (subF32 e.2 (mulF32 e.1 mb))
  | _ =>
    let ys := xs.map (smValue p q)
    let c := rowDot gs ys
    (ys.zip gs).map fun e => mulF32 e.1 (subF32 e.2 c)

/-! ### Slots -/

/-- The physical slot that a barge's slot number is mapped to on a core. -/
def CoreState.slotOf (k : CoreState) (barge n : Nat) : Option Nat :=
  (k.slotOwner.find? fun p => p.2 == (barge, n)).map Prod.fst
def CoreState.freeRow (k : CoreState) : Option Nat := (List.range 16).find? fun p => (k.slotOwner.find p).isNone

/-- Word w of physical slot p. -/
def rowKey (p w : Nat) : Nat := p * 1024 + w
def CoreState.clearRow (k : CoreState) (p : Nat) : CoreState :=
  { k with slotMem := k.slotMem.filter fun e => e.1 / 1024 != p, slotPoi := k.slotPoi.filter fun e => e.1 / 1024 != p }
def CoreState.setRow (k : CoreState) (p w : Nat) (v : Word) (bad : Bool) : CoreState :=
  { k with slotMem := k.slotMem.set (rowKey p w) v 0, slotPoi := k.slotPoi.set (rowKey p w) bad false }
def CoreState.rowAt (k : CoreState) (p w : Nat) : Word × Bool := (k.slotMem.get (rowKey p w) 0, k.slotPoi.get (rowKey p w) false)

/-- The barge's lowest slot number not yet owned on a core. -/
def CoreState.lowestNumber (k : CoreState) (barge : Nat) : Option Nat :=
  (List.range 16).find? fun n => (k.slotOf barge n).isNone

/-! ### Descriptors and checks at issue (R261) -/

structure RowDesc where
  x : Nat
  g : Nat
  y : Nat
  rows : Nat
  d : Nat
  pitch : Nat
  inF : Nat
  outF : Nat
  rest : Nat
  deriving DecidableEq, Repr

def RowDesc.ofNat (n : Nat) : RowDesc where
  x := n % 2 ^ 32
  g := n / 2 ^ 32 % 2 ^ 32
  y := n / 2 ^ 64 % 2 ^ 32
  rows := n / 2 ^ 96 % 2 ^ 16
  d := n / 2 ^ 112 % 2 ^ 16
  pitch := n / 2 ^ 128 % 2 ^ 32
  inF := n / 2 ^ 160 % 256
  outF := n / 2 ^ 168 % 256
  rest := n / 2 ^ 176 % 2 ^ 80

def rwWidth (bf : Bool) : Nat := if bf then 2 else 4
def rwReadsG (code : Nat) : Bool := 3 ≤ code && code ≤ 5
def rwWritesY (code : Nat) : Bool := 1 ≤ code && code ≤ 5

/-- The bytes from the first element of an array to its last. -/
def rowSpan (rows d pitch w : Nat) : Nat := (rows - 1) * pitch + d * w

def RowDesc.ok (r : RowDesc) (code : Nat) : Bool :=
  let wi := rwWidth (r.inF == 1)
  let wo := rwWidth (r.outF == 1)
  1 ≤ r.rows && r.rows ≤ 512 && 1 ≤ r.d && r.d ≤ 16384 && r.inF ≤ 1 && r.outF ≤ 1 && r.rest == 0 && r.pitch % 32 == 0 &&
  r.d * wi ≤ r.pitch && (!rwWritesY code || r.d * wo ≤ r.pitch) &&
  addrLegal r.x (rowSpan r.rows r.d r.pitch wi) 32 &&
  (!rwReadsG code || addrLegal r.g (rowSpan r.rows r.d r.pitch wi) 32) &&
  (!rwWritesY code || addrLegal r.y (rowSpan r.rows r.d r.pitch wo) 32)

/-- The descriptor at a local address, as the context sees it. -/
def State.rowDesc (s : State) (c : Nat) (a : Nat) : RowDesc := RowDesc.ofNat (leNat (s.seenBytes c s.nextId (s.physList c a 32)).1)

def rowOwned (s : State) (x : Ctx) (c n : Nat) : Bool := ((s.core (coreOf c)).slotOf x.barge n).isSome

/-- fstat to bsm. -/
def checkRow (code : Nat) (s : State) (t : Trig) (x : Ctx) : Option Fail :=
  let a := t.y.scalar.toNat
  let o := x.portW oRwO
  (failIf (!addrLegal a 32 32 || !isLocal t.ctx a) (illTrig a)).orElse fun _ =>
  (failIf (field o 5 27 != 0 || !rowOwned s x t.ctx (field o 0 4)) (illTrig o.toNat)).orElse fun _ =>
  failIf (!(s.rowDesc t.ctx a).ok code) (illTrig a)

def checkRwSlot (s : State) (t : Trig) (x : Ctx) : Option Fail :=
  let y := t.y.scalar
  let a := (x.portW oRwO).toNat
  let n := field y 2 4
  (failIf (field y 6 26 != 0 || field y 0 2 == 3 || (field y 0 2 == 0 && n != 0)) (illTrig y.toNat)).orElse fun _ =>
  if field y 0 2 = 0 then none
  else (failIf (!rowOwned s x t.ctx n) (illTrig y.toNat)).orElse fun _ => failIf (!addrLegal a 4096 32) (illTrig a)

def checkRwFree (s : State) (t : Trig) (x : Ctx) : Option Fail :=
  let y := t.y.scalar
  failIf (field y 4 28 != 0 || !rowOwned s x t.ctx (field y 0 4)) (illTrig y.toNat)

/-! ### The queue (R262) -/

def rwPasses (code : Nat) (rms : Bool) : Nat :=
  match code with
  | 0 => if rms then 1 else 2
  | 1 => 3
  | 2 => 1
  | _ => 2

def State.rwOf (s : State) (core : Nat) : List RwCmd := s.wk.rw.filter fun r => r.core == core
def State.modRw (s : State) (id : Nat) (f : RwCmd → RwCmd) : State :=
  { s with wk := { s.wk with rw := s.wk.rw.map fun r => if r.id = id then f r else r } }

/-- Queues a command with its descriptor; it starts at once when the queue is empty. -/
def State.rwQueue (s : State) (t : Trig) (x : Ctx) (code : Nat) : State :=
  let (id, s1) := s.ticket
  let row := code < 6
  let d := if row then s.rowDesc t.ctx t.y.scalar.toNat else RowDesc.ofNat 0
  let o := x.portW oRwO
  let cycles := if row then 20 + rwPasses code (o.getLsbD 4) * d.rows * ceilDiv d.d 64 else 20
  let cmd : RwCmd :=
    { id := id, ctx := t.ctx, core := coreOf t.ctx, code := code, y := t.y.scalar, o := o, eps := x.portW oRwO2,
      x := BitVec.ofNat 32 d.x, g := BitVec.ofNat 32 d.g, yAddr := BitVec.ofNat 32 d.y, rows := d.rows, d := d.d,
      pitch := d.pitch, inBf := d.inF == 1, outBf := d.outF == 1,
      due := if (s.rwOf (coreOf t.ctx)).isEmpty then some (t.cyc + cycles) else none, cycles := cycles }
  { s1 with wk := { s1.wk with rw := s1.wk.rw ++ [cmd] } }.pendPort t.ctx qRw id

def rwOp (code : Nat) (chk : State → Trig → Ctx → Option Fail) (s : State) : Out :=
  checked s chk fun t x => s.rwQueue t x code

def execRwFstat (s : State) : Out := rwOp 0 (checkRow 0) s
def execRwFsmx (s : State) : Out := rwOp 1 (checkRow 1) s
def execRwNorm (s : State) : Out := rwOp 2 (checkRow 2) s
def execRwBln (s : State) : Out := rwOp 3 (checkRow 3) s
def execRwBrms (s : State) : Out := rwOp 4 (checkRow 4) s
def execRwBsm (s : State) : Out := rwOp 5 (checkRow 5) s
def execRwSlot (s : State) : Out := rwOp 6 checkRwSlot s
def execRwFree (s : State) : Out := rwOp 7 checkRwFree s

/-! ### Completion -/

/-- Row r of an array: its elements as FP32 words, and whether any byte of it is poisoned. -/
def State.rowWords (s : State) (r : RwCmd) (base : Word) (row : Nat) : List Word × Bool :=
  let w := rwWidth r.inBf
  let b := s.seenBytes r.ctx r.id (s.physList r.ctx (base.toNat + row * r.pitch) (r.d * w))
  let n := leNat b.1
  ((List.range r.d).map fun j =>
    if r.inBf then BitVec.ofNat 32 (n / 2 ^ (16 * j) % 2 ^ 16 * 2 ^ 16) else BitVec.ofNat 32 (n / 2 ^ (32 * j)), b.2.any id)

/-- Writes row r of Y and sets its granules full. -/
def State.putRow (s : State) (r : RwCmd) (row : Nat) (ys : List Word) (bad : Bool) : State :=
  let a := r.yAddr.toNat + row * r.pitch
  let bytes := ys.flatMap fun y => if r.outBf then leBytes 2 (toBf16 (ofF32 y)) else wordBytes y
  let ps := s.physList r.ctx a bytes.length
  match ps with
  | [] => s
  | p :: _ =>
    if (s.core (coreOfPhys p)).fenced then s
    else (s.storeCells (zipCells ps bytes) (allBad (zipCells ps bytes) bad)).setFs ((granules a bytes.length).map (s.phys r.ctx)) true

/-- One row of fstat to bsm: the slot entry written, and Y. -/
def State.rwRow (s : State) (r : RwCmd) (p row : Nat) : State :=
  let k := s.core r.core
  let xs := s.rowWords r r.x row
  let gs := if rwReadsG r.code then s.rowWords r r.g row else ([], false)
  let e0 := k.rowAt p (2 * row)
  let e1 := k.rowAt p (2 * row + 1)
  let put (t : State) (u v : Word) (bad : Bool) : State :=
    t.modCore r.core fun q => (q.setRow p (2 * row) u bad).setRow p (2 * row + 1) v bad
  match r.code with
  | 0 =>
    let st := rowStat (r.o.getLsbD 4) r.eps xs.1
    put s st.1 st.2 xs.2
  | 1 =>
    let sm := rowSoftmax xs.1
    (put s sm.1.1 sm.1.2 xs.2).putRow r row sm.2 xs.2
  | _ => s.putRow r row (rowBack r.code e0.1 e1.1 xs.1 gs.1) (xs.2 || gs.2 || e0.2 || e1.2)

/-- rw.slot and rw.free (R263): the new state and the value of rw.q. -/
def State.rwSlotEffect (s : State) (x : Ctx) (r : RwCmd) : State × Word :=
  let k := s.core r.core
  let a := r.o.toNat
  if r.code = 7 then
    match k.slotOf x.barge (field r.y 0 4) with
    | some p => (s.modCore r.core fun q => { q.clearRow p with slotOwner := q.slotOwner.erase p }, 0)
    | none => (s, 0)
  else match field r.y 0 2 with
  | 0 =>
    match k.lowestNumber x.barge, k.freeRow with
    | some n, some p =>
      (s.modCore r.core fun q => { q.clearRow p with slotOwner := q.slotOwner.put p (x.barge, n) }, BitVec.ofNat 32 n)
    | _, _ => (s, 0xffffffff#32)
  | 1 =>
    match k.slotOf x.barge (field r.y 2 4) with
    | none => (s, 0)
    | some p =>
      let g := (List.range 128).map fun i =>
        (zipCells (s.physList r.ctx (a + 32 * i) 32) ((List.range 8).flatMap fun j => wordBytes (k.rowAt p (8 * i + j)).1),
         (List.range 8).any fun j => (k.rowAt p (8 * i + j)).2)
      (g.foldl (fun t c => t.writeGranule c) s, 0)
  | _ =>
    match k.slotOf x.barge (field r.y 2 4) with
    | none => (s, 0)
    | some p =>
      let words := (List.range 1024).map fun w =>
        let b := s.seenBytes r.ctx r.id (s.physList r.ctx (a + 4 * w) 4)
        (w, BitVec.ofNat 32 (leNat b.1), b.2.any id)
      (s.modCore r.core fun q => words.foldl (fun u e => u.setRow p e.1 e.2.1 e.2.2) q, 0)

/-- The effect of a completing command. -/
def State.rwEffect (s : State) (x : Ctx) (r : RwCmd) : State × Word :=
  if 6 ≤ r.code then s.rwSlotEffect x r
  else match (s.core r.core).slotOf x.barge (field r.o 0 4) with
    | some p => ((List.range r.rows).foldl (fun t row => t.rwRow r p row) s, 0)
    | none => (s, 0)

/-- Whether a command sets granules full: those with an output Y, and a slot save. -/
def rwStores (r : RwCmd) : Bool := rwWritesY r.code || (r.code == 6 && field r.y 0 2 == 1)

/-- Whether the command at the head of a core's queue may complete: its latency is over; a command that reads arrays or stores follows
every earlier scratchpad store of its context (R262, R270), a slot load the stores to its bytes (R263), and one that stores every earlier
load too (R277). -/
def State.rwMay (s : State) (x : Ctx) (r : RwCmd) (cyc : Nat) : Bool :=
  ((r.due.map fun d => decide (d ≤ cyc)).getD false) &&
  (!(decide (r.code < 6) || rwStores r) || s.storesOver r.ctx x r.id) &&
  (!(r.code == 6 && field r.y 0 2 == 2) || s.storesOverTo r.ctx x r.id (s.physList r.ctx r.o.toNat 4096)) &&
  (!rwStores r || s.loadsOver r.ctx x r.id)

/-- RW_CMD_COMPLETE: the command at the head of a core's queue completes, once State.rwMay holds; its successor
starts. -/
def execRwCmdComplete (core : Nat) (s : State) : Out :=
  match s.rwOf core with
  | [] => .next s
  | r :: rest =>
    match s.ctx? r.ctx with
    | none => .next s
    | some x =>
      let cyc := (s.core core).cyc
      if s.rwMay x r cyc then
        let e := s.rwEffect x r
        let s1 : State := { e.1 with wk := { e.1.wk with rw := e.1.wk.rw.filter fun q => q.id != r.id } }
        let s2 := match rest with
          | n :: _ => s1.modRw n.id fun q => { q with due := some (cyc + q.cycles) }
          | [] => s1
        .next (s2.deliver r.ctx qRw r.id (PV.ofWord e.2 false))
      else .next s

end Sys2Proof.Machine
end

