-- ==== Sys2Proof/Machine/Tile.lean ====
section
/-! DEFINITION. The tile unit tx (R213 to R225): geometry and checks, the queue, translation and start, conversion between a
tensor and a scratchpad tile, fingerprints, completion. Codes are positions from 0x2b0. -/
namespace Sys2Proof.Machine
open Sys2Proof

/-! ### The scratchpad tile (R214) -/

/-- The scratchpad tile of a command (R214). -/
def padTile (fmt sh fl : Word) : Tile :=
  let nr := tileNr sh
  let nc := tileNc sh
  let sf := tileSF fl
  { rows := if tileTR fl then nc else nr, cols := if tileTR fl then nr else nc, code := sf, width := padWidth sf fmt }

/-! ### Checks at issue -/

def checkTileShape (_ : State) (_ : Trig) (x : Ctx) : Option Fail :=
  let sh := x.portW oTxS
  let fl := x.portW oTxF
  (failIf (field sh 18 14 != 0 || tileNr sh == 0 || 256 < tileNr sh || tileNc sh == 0 || 256 < tileNc sh) (illTrig sh.toNat)).orElse
    fun _ => failIf (field fl 12 20 != 0) (illTrig fl.toNat)

/-- The format rules of R31 and R215 for a command with a scratchpad side. -/
def checkTileFmt (x : Ctx) : Option Fail :=
  let f := x.r.fmt
  let sf := tileSF (x.portW oTxF)
  (failIf (10 < sf) (fmtFail (BitVec.ofNat 32 sf))).orElse fun _ =>
    failIf (intReserved sf f || (sf != 7 && rndReserved f)) (fmtFail f)

/-- An MX tile's columns, its size, and the address rule. -/
def checkTileAt (x : Ctx) (a limit : Nat) (v : Nat) : Option Fail :=
  let t := padTile x.r.fmt (x.portW oTxS) (x.portW oTxF)
  (failIf ((isMx t.code && t.cols % 32 != 0) || 2 ^ 18 < t.bytes) (illTrig (x.portW oTxS).toNat)).orElse fun _ =>
    failIf (limit < t.bytes || !addrLegal a t.bytes 32) (illTrig v)

def checkTxPad (s : State) (t : Trig) (x : Ctx) : Option Fail :=
  (checkTileShape s t x).orElse fun _ => (checkTileFmt x).orElse fun _ =>
    checkTileAt x t.y.scalar.toNat (2 ^ 18) t.y.scalar.toNat

/-- The address of the tail slot of a ring of a context's core. -/
def State.tailAddr (s : State) (c r : Nat) : Nat :=
  match s.kernelOf c, s.ringOf c r with
  | some k, some q => k.slotAddr (coreOf c) q (s.ringPos c r).2
  | _, _ => 0

def checkTxLdr (s : State) (t : Trig) (x : Ctx) : Option Fail :=
  let y := t.y.scalar
  let r := field y 0 4
  (checkTileShape s t x).orElse fun _ => (checkTileFmt x).orElse fun _ =>
  (failIf (field y 4 28 != 0 || (s.ringOf t.ctx r).isNone) (illTrig y.toNat)).orElse fun _ =>
    checkTileAt x (s.tailAddr t.ctx r) (((s.ringOf t.ctx r).map (·.slotSize)).getD 0) y.toNat

def checkTxCp (s : State) (t : Trig) (x : Ctx) : Option Fail :=
  (checkTileShape s t x).orElse fun _ => failIf (rndReserved x.r.fmt) (fmtFail x.r.fmt)

def checkTxPf (s : State) (t : Trig) (x : Ctx) : Option Fail :=
  (checkTileShape s t x).orElse fun _ => (failIf (10 < tileSF (x.portW oTxF)) (fmtFail (BitVec.ofNat 32 (tileSF (x.portW oTxF))))).orElse
    fun _ => failIf (tileFP (x.portW oTxF)) (illTrig (x.portW oTxF).toNat)

def checkTxFpr (_ : State) (t : Trig) (_ : Ctx) : Option Fail := failIf (field t.y.scalar 5 27 != 0) (illTrig t.y.scalar.toNat)
def checkTxQlim (_ : State) (t : Trig) (_ : Ctx) : Option Fail :=
  failIf (t.y.scalar.toNat < 1 || 32 < t.y.scalar.toNat) (illTrig t.y.scalar.toNat)

/-! ### The queue (R217, R218) -/

def State.tilesOf (s : State) (core : Nat) : List TileCmd := s.wk.tiles.filter fun k => k.core == core
def State.outstanding (s : State) (c : Nat) : Nat := (s.wk.tiles.filter fun k => k.ctx == c).length
def State.modTile (s : State) (id : Nat) (f : TileCmd → TileCmd) : State :=
  { s with wk := { s.wk with tiles := s.wk.tiles.map fun k => if k.id = id then f k else k } }
def State.dropTile (s : State) (id : Nat) : State :=
  { s with wk := { s.wk with tiles := s.wk.tiles.filter fun k => k.id != id } }

def Fpr.zero : Fpr := { nan := 0, mx := 0, s := 0, q := 0 }

/-- Issues a command: its flag and its fingerprint are cleared. -/
def State.txQueue (s : State) (t : Trig) (x : Ctx) (code dst : Nat) : State :=
  let (id, s1) := s.ticket
  let fl := x.portW oTxF
  let cmd : TileCmd :=
    { id := id, ctx := t.ctx, core := coreOf t.ctx, code := code, y := t.y.scalar.toNat, h := x.portW oTxH, h2 := x.portW oTxH2,
      c := x.portW oTxC, c2 := x.portW oTxC2, sh := x.portW oTxS, fl := fl, fmt := x.r.fmt, dst := dst, bno := t.bno,
      slot := t.slot, todo := [], listed := false, started := false, region := x.region, sent := none, gated := [], got := [], pos := 0, out := none,
      fp := Fpr.zero, bad := none }
  { s1 with wk := { s1.wk with tiles := s1.wk.tiles ++ [cmd] } }.modRegs t.ctx fun r =>
    { r.clearFlag (tileFlag fl) with fprs := vset r.fprs (tileFlag fl) Fpr.zero }

def txOp (code : Nat) (chk : State → Trig → Ctx → Option Fail) (s : State) : Out :=
  checked s chk fun t x => s.txQueue t x code t.y.scalar.toNat

def execTxLd (s : State) : Out := txOp 0 checkTxPad s
/-- tx.ldr takes the tail slot at issue (R220). -/
def execTxLdr (s : State) : Out :=
  checked s checkTxLdr fun t x =>
    let r := field t.y.scalar 0 4
    let p := s.ringPos t.ctx r
    (s.setRingPos t.ctx r (p.1, (p.2 + 1) % ((s.ringOf t.ctx r).map (·.slots)).getD 1)).txQueue t x 1 (s.tailAddr t.ctx r)
def execTxSt (s : State) : Out := txOp 2 checkTxPad s
def execTxCp (s : State) : Out := txOp 3 checkTxCp s
def execTxPf (s : State) : Out := txOp 4 checkTxPf s

def fprField (f : Fpr) (k : Nat) : Word :=
  match k with
  | 0 => f.nan
  | 1 => f.mx
  | 2 => f.s
  | _ => f.q

/-- Delivers every waiting tx.fpr whose flag no outstanding command of its context names (R224). -/
def State.fprDeliver (s : State) : State :=
  s.wk.fprWaits.foldl (fun t w =>
    if t.wk.tiles.any fun k => k.ctx == w.ctx && tileFlag k.fl == field w.y 0 3 then t
    else
      let v := ((t.ctx? w.ctx).map fun x => fprField (vget x.r.fprs (field w.y 0 3) Fpr.zero) (field w.y 3 2)).getD 0
      { t with wk := { t.wk with fprWaits := t.wk.fprWaits.filter fun q => q.id != w.id } }.deliver w.ctx qTx w.id
        (PV.ofWord v false)) s

def execTxFpr (s : State) : Out :=
  checked s checkTxFpr fun t _ =>
    let (id, s1) := s.ticket
    let w : FprWait := { id := id, ctx := t.ctx, y := t.y.scalar }
    ({ s1 with wk := { s1.wk with fprWaits := s1.wk.fprWaits ++ [w] } }.pendPort t.ctx qTx id).fprDeliver

def execTxQlim (s : State) : Out :=
  checked s checkTxQlim fun t _ => s.modRegs t.ctx fun r => { r with tlimit := t.y.scalar.toNat }

/-- tx.qspc: the free space, one cycle after issue. -/
def execTxQspc (s : State) : Out :=
  onTrigger s fun t x =>
    let n := min (32 - (s.tilesOf (coreOf t.ctx)).length) (x.r.tlimit - s.outstanding t.ctx)
    let (id, s1) := s.ticket
    (s1.pendPort t.ctx qTx id).modCtx t.ctx fun y => y.deliver qTx id (num n)

/-! ### Sides of a transfer (R215) -/

structure Side where
  code : Nat
  width : Nat
  int : IntFmt
  deriving DecidableEq, Repr

def Rec.side (r : Rec) : Side := { code := r.fmt, width := r.width, int := r.intFmt }
def TileCmd.pad (k : TileCmd) : Side :=
  { code := tileSF k.fl, width := padWidth (tileSF k.fl) k.fmt, int := fmtInt k.fmt }
def TileCmd.tile (k : TileCmd) : Tile := padTile k.fmt k.sh k.fl
def TileCmd.fw (k : TileCmd) : Bool := k.code == 1 || tileFW k.fl

/-- Equal formats of R215, whose bits are copied: the manual does not say whether two integer sides of one width but different signs or
substitutes are equal. They are here (DESIGN CHOICE, log entry 132). -/
def sameFormat (a b : Side) : Bool := a.code == b.code && a.width == b.width

/-- Whether a pair of sides converts (R215). -/
def pairOk (k : TileCmd) (a b : Side) : Bool :=
  let aligned := k.c2.toNat % 32 == 0 && k.nc % 32 == 0
  if a.code = 7 ∨ b.code = 7 then sameFormat a b
  else if isMx a.code ∧ isMx b.code then a.code == b.code && aligned
  else if isMx b.code then aligned && !k.tr
  else true

/-- Bits of an element and its scale code, by destination place, from those of the source: copied between equal formats,
quantised into an MX format, else converted (R46). Where the source has no one scale for a run, the run's scale is free. A copy between
equal formats takes every bit of a source byte: bits [7:6] of an LNS6 byte too, which R32 has the device store as zero and R215 copies
(DESIGN CHOICE, log entry 103). -/
def convert (a b : Side) (mode : Rnd) (free : Option (Nat → Nat)) (rows cols : Nat) (src : Nat → Nat → Nat × Nat) :
    (Nat → Nat → Nat) × (Nat → Nat → Nat) :=
  if sameFormat a b then
    (fun r c => (src r c).1, fun r k =>
      let one := (src r (32 * k)).2
      match free with
      | some f => if (List.range 32).all fun i => (src r (32 * k + i)).2 == one then one else f (r * 8 + k)
      | none => one)
  else if isMx b.code then
    let qs := (List.range rows).map fun r => mxRow b.code true ((List.range cols).map fun c => elemValue a.code a.int (src r c).1)
    (fun r c => (qs.getD r ([], [])).1.getD c 0, fun r k => (qs.getD r ([], [])).2.getD k 0)
  else (fun r c => elemBits b.code b.int mode (elemValueScaled a.code a.int (src r c).2 (src r c).1), fun _ _ => 127)

/-- The value of a destination element in FP32 (R223). -/
def fpValue (b : Side) (bits scale : Nat) : Word := f32 (elemValueScaled b.code b.int scale bits)

/-- One step of R223. -/
def Fpr.step (f : Fpr) (x : Word) : Fpr :=
  if (ofF32 x).isNan then { f with nan := f.nan + 1 }
  else { f with mx := maxF32 f.mx (absF32 x), s := addF32 f.s x, q := fmaF32 x x f.q }

/-! ### Tensor sides -/

/-- The bits, the scale and the mark of an element of a tensor as a command's context sees them; outside the tensor the pad
(R216). -/
def State.tensorElem (s : State) (k : TileCmd) (t : Nat) (r : Rec) (row col : Nat) : (Nat × Nat) × Bool :=
  if r.inside row col then
    let e := r.elemBit row col
    let bs := (List.range (ceilDiv r.width 8)).map fun i => s.viewByte k.ctx k.id (storeAddr t (e / 8 + i))
    let sc := if isMx r.fmt then s.viewByte k.ctx k.id (storeAddr t (r.scaleByte row col)) else (127, false)
    ((bitsOf (bs.map Prod.fst) (e % 8) r.width, sc.1.toNat), bs.any Prod.snd || sc.2)
  else ((r.pad.toNat % 2 ^ r.width, 127), false)

/-! ### Translation and start (R225, R312, R319) -/

def tileFmtFault (v slot bno : Nat) : FaultInfo := laterFault 1 0x1a v slot bno

/-- The handle that makes a command stale, none when it has all it needs: a discard handle may stand as a destination
(R117). -/
def State.staleHandle (s : State) (k : TileCmd) : Option Word :=
  let src := if k.code = 2 then isDiscard k.h || (s.opLive? k.ctx k.h).isSome else (s.opLive? k.ctx k.h).isSome
  if !src then some k.h
  else if k.code = 3 && !isDiscard k.h2 && (s.opLive? k.ctx k.h2).isNone then some k.h2 else none

/-- The two sides of a command's transfer, none for a prefetch or a discarded store. -/
def State.sides (s : State) (k : TileCmd) : Option (Side × Side) :=
  match k.code with
  | 2 => (s.opLive? k.ctx k.h).map fun r => (k.pad, r.side)
  | 3 => (s.opLive? k.ctx k.h).bind fun r => (s.opLive? k.ctx k.h2).map fun r2 => (r.side, r2.side)
  | 4 => none
  | _ => (s.opLive? k.ctx k.h).map fun r => (r.side, k.pad)

/-- One translation step of a tile command: the handles and the pair, then one page at a time, by the lowest offset that the command
touches in it, so that the first fault is at the lowest faulting offset (R321). -/
def State.walkTile (s : State) (k : TileCmd) : State :=
  match k.listed, k.todo with
  | false, _ =>
    match s.staleHandle k with
    | some h => ((s.dropTile k.id).fprDeliver).imprecise k.ctx (staleFault h k.slot k.bno)
    | none =>
      if ((s.sides k).map fun p => pairOk k p.1 p.2).getD true then
        let acc := k.accesses (s.opLive? k.ctx k.h) (s.opLive? k.ctx k.h2)
        let lowest (a : List Nat) (p : Nat) : Nat := (a.filter fun o => o / pageBytes == p).foldl min (2 ^ 45)
        let todo := (sortBy (fun a b => decide (a.1 < b.1)) (acc.flatMap fun a =>
          (pagesOf a.2.1).map fun p => (lowest a.2.1 p, a.1, p, a.2.2))).map Prod.snd
        if todo.any fun a => s.segHeld a.1 a.2.1 then s
        else s.modTile k.id fun q => { q with listed := true, todo := todo }
      else ((s.dropTile k.id).fprDeliver).imprecise k.ctx (tileFmtFault (((s.opLive? k.ctx k.h).map (·.fmt)).getD 0) k.slot k.bno)
  | true, [] => s
  | true, (t, p, w) :: rest =>
    let leaf := s.coreLeaf k.core t p
    if !s.mayWalk k.core k.id t p then s.queueWalk k.core k.id
    else
      let s1 := s.endWalk k.core k.id
      match checkPage leaf w false with
      | some (code, sub) =>
        if k.code = 4 then s1.modTile k.id fun q => { q with todo := rest }
        else
          let h := if handleKey k.h = t && !(k.code = 3 && w) then k.h else k.h2
          (((s1.startTiles k.ctx).dropTile k.id).pageFault k.ctx code sub h p k.slot k.bno).fprDeliver
      | none => (s1.fillTlb k.core t p (leaf.getD 0) w).modTile k.id fun q => { q with todo := rest }

/-- TRANSLATION_WALK: one step of the translation of a gv access or a tile command. -/
def execTranslationWalk (id : Nat) (s : State) : Out :=
  match s.wk.gv.find? fun o => o.id == id, s.wk.tiles.find? fun k => k.id == id with
  | some o, _ => .next (s.walkGv o)
  | none, some k => .next (s.walkTile k)
  | none, none => .next s

/-- TILE_CMD_TRANSLATE: a command whose pages are all translated starts, in issue order within its context. -/
def execTileCmdTranslate (id : Nat) (s : State) : Out :=
  match s.wk.tiles.find? fun k => k.id == id with
  | none => .next s
  | some k =>
    if k.walked && !k.started && s.begun k then .next (s.modTile id fun _ => s.startTile k) else .next s

/-! ### Moving data -/

/-- Whether an earlier access of the context to a word of an MSA page that the command touches is still to arrive at its unit (R336). -/
def State.tileBehind (s : State) (k : TileCmd) : Bool :=
  let as := s.tileAddrs k
  let meets (bs : List Nat) : Bool := as.any fun a => bs.any fun b => a / 4 == b / 4
  as.any s.isMsa &&
  ((s.wk.gv.any fun p => p.ctx == k.ctx && p.id < k.id && !gvIsStore p.code && meets (s.gvAddrs p)) ||
   (s.wk.tiles.any fun q => q.ctx == k.ctx && q.id < k.id && meets (s.tileAddrs q)) ||
   ((s.ctx? k.ctx).any fun x => x.gate.any fun g => g.isGlobal && g.opId < k.id && meets (g.cells.map Prod.fst)))

/-- The storage addresses that a tile command writes. -/
def State.tileStores (s : State) (k : TileCmd) : List Nat :=
  ((k.accesses (s.opLive? k.ctx k.h) (s.opLive? k.ctx k.h2)).filter fun a => a.2.2).flatMap fun a => a.2.1.map (storeAddr a.1)

/-- The tensors of a command. -/
def TileCmd.handles (k : TileCmd) : List Word := if k.code = 3 then [k.h, k.h2] else [k.h]

/-- Orders of the context before a command may move data (R218, R235, R270, R277, R336, Table 17.3), and what holds it on the way: a failed
path or an earlier request of its die to that home (R344), a retried request (R335), a home with no room (R340). -/
def State.tileMay (s : State) (k : TileCmd) : Bool :=
  let pubs := s.wk.pubs.filter fun p => p.ctx == k.ctx && p.id < k.id
  k.started && !(pubs.any fun p => p.code == 6) &&
  (k.code == 2 || k.code == 4 || !pubs.any fun p => p.code == 4 || p.code == 5) &&
  (!(k.code == 2 || k.code == 3) || !pubs.any fun p => p.code == 3 || p.code == 5) &&
  (k.code == 4 || ((s.ctx? k.ctx).map fun x => s.loadsOver k.ctx x k.id).getD true) &&
  (3 ≤ k.code || ((s.ctx? k.ctx).map fun x => !s.acquireDue k.ctx x k.id).getD true) &&
  (k.handles.all fun h => s.reaches (s.dieOf k.ctx) (handleKey h) &&
    !s.arrivesBefore (s.dieOf k.ctx) (handleHome h) (s.dieTick (s.dieOf k.ctx)) s.nextId) && !s.tileBehind k &&
  !s.retryHolds k.id (s.tileAddrs k) && s.hasRoom (s.tileStores k)

/-- The completion of a command: its flag is set, and with FP = 1 its fingerprint written (R218, R223). -/
def State.tileDone (s : State) (k : TileCmd) (fp : Fpr) : State :=
  let f := tileFlag k.fl
  let s1 := (s.dropTile k.id).modRegs k.ctx fun r =>
    let q := r.setFlag f
    if tileFP k.fl then { q with fprs := vset q.fprs f fp } else q
  let s2 := s1.fprDeliver
  match k.bad with
  | some p => s2.imprecise k.ctx (laterFault 6 0x60 p k.slot k.bno)
  | none => s2

/-- Places a replica of a line in the L2 of a die for a barge, where a way is free there. -/
def State.placeReplica (s : State) (v barge line : Nat) : State :=
  match (s.stackOfDie v).bind fun p => s.freeWay (s.setIn p line) with
  | some s1 => { s1 with ms := { s1.ms with replicas := s1.ms.replicas ++ [(v, line, barge)] } }
  | none => s

/-- Brings the lines of storage addresses to the L2 of their homes, or serves them from replicas on the die; under RPL a load or a prefetch
places one of each line of a read-only page (R331). Lines of MSA pages are never cached (R228). -/
def State.readLines (s : State) (k : TileCmd) (t : Nat) (r : Rec) (offs : List Nat) : State :=
  let v := s.dieOf k.ctx
  let as := (offs.map (storeAddr t)).filter fun a => !s.ms.replicas.any fun p => p.1 == v && p.2.1 == lineOf a
  let s1 := s.touch as
  if tileRPL k.fl && k.code != 3 && r.ro && !r.msa then
    (as.map lineOf).eraseDups.foldl (fun u l => u.placeReplica v (((s.ctx? k.ctx).map (·.barge)).getD 0) l) s1
  else s1

/-- The place in the tensor of an element of the scratchpad tile. -/
def TileCmd.place (k : TileCmd) (r c : Nat) : Nat × Nat :=
  if k.tr then (k.c.toNat + c, k.c2.toNat + r) else (k.c.toNat + r, k.c2.toNat + c)

/-- A run's scale in a transposed copy between equal MX formats: the manual does not state it where the elements of the run have different
scales (log entry 36). -/
def TileCmd.freeScale (k : TileCmd) (a b : Side) : Option (Nat → Nat) :=
  if k.tr && isMx a.code && sameFormat a b then some fun i => (Config.freeWord (2 ^ 40 + k.id * 2 ^ 20 + i)).toNat % 256 else none

/-- The elements of tile row r that lie in granule g of a scratchpad tile's rows. -/
def Tile.granuleElems (t : Tile) (g : Nat) : List (Nat × Nat) :=
  if t.rows * t.pitch ≤ 32 * g then []
  else
    let r := 32 * g / t.pitch
    let c0 := 32 * g % t.pitch * 8 / t.width
    ((List.range (256 / t.width)).map fun i => (r, c0 + i)).filter fun e => e.2 < t.cols

/-- Lands granule pos of a tile load: its bytes, its mark, F, and the fingerprint of its elements (R219). -/
def State.landGranule (s : State) (k : TileCmd) (r : Rec) : State :=
  let t := handleKey k.h
  let tile := k.tile
  let src (a b : Nat) : Nat × Nat := (s.tensorElem k t r (k.place a b).1 (k.place a b).2).1
  let cv := convert r.side k.pad (fmtRound k.fmt) (k.freeScale r.side k.pad) tile.rows tile.cols src
  let mark := tile.build (fun a b => if (s.tensorElem k t r (k.place a b).1 (k.place a b).2).2 then 2 ^ tile.width - 1 else 0)
    fun a b => if (List.range 32).any fun c => (s.tensorElem k t r (k.place a (32 * b + c)).1 (k.place a (32 * b + c)).2).2 then 255 else 0
  let cut (bs : List Byte) : List Byte := (bs.drop (32 * k.pos)).take 32
  let cells := zipCells (s.physList k.ctx (k.dst + 32 * k.pos) 32) (cut (tile.build cv.1 cv.2))
  let els := tile.granuleElems k.pos
  let fp := els.foldl (fun f e => f.step (fpValue k.pad (cv.1 e.1 e.2) (cv.2 e.1 (e.2 / 32)))) k.fp
  let s1 := (s.readLines k t r (els.flatMap fun e =>
    let p := k.place e.1 e.2
    r.rectBytes p.1 p.2 1 1)).writeGranule (cells, (cut mark).any fun b => b != 0)
  let k' := { k with pos := k.pos + 1, fp := fp }
  if 32 * k'.pos = tile.bytes then s1.tileDone k' fp else (s1.modTile k.id fun _ => k').retryOver k.id

/-- A byte of a store's source as it is read: from the context's gate, also where a rollback has emptied it since, else from the scratchpad
(R218, R315, R317). -/
def State.sourceByte (s : State) (k : TileCmd) (p : Nat) : Byte × Bool :=
  match k.gated.find? fun e => e.1 == p with
  | some e => e.2
  | none => s.seenByte k.ctx k.id p

/-- Reads one source granule of a tile store, at a physical address, and empties it under CE (R221). -/
def State.takeGranule (s : State) (k : TileCmd) (a : Nat) : State × TileCmd :=
  let bytes := (List.range 32).map fun i => (a + i, s.sourceByte k (a + i))
  (if tileCE k.fl && !(s.core (coreOfPhys a)).fenced then s.setF a false else s, { k with got := k.got ++ bytes })

/-- Reads the source granules that are still to be read: under FW those that are full. -/
def State.takeGranules (s : State) (k : TileCmd) : State × TileCmd :=
  ((granules k.dst k.tile.bytes).map (s.phys k.ctx)).foldl (fun p a =>
    if p.2.got.any (fun e => e.1 == a) || (p.2.fw && !p.1.elementF [a] true) then p else p.1.takeGranule p.2 a) (s, k)

/-- Whether every source granule has been read. -/
def State.allTaken (s : State) (k : TileCmd) : Bool :=
  ((granules k.dst k.tile.bytes).map (s.phys k.ctx)).all fun a => k.got.any fun e => e.1 == a

/-- The bytes and marks of a tile store's source. -/
def State.tileSource (s : State) (k : TileCmd) : List Byte × List Bool :=
  let r := (s.physList k.ctx k.dst k.tile.bytes).map fun p => ((k.got.find? fun e => e.1 == p).map Prod.snd).getD (0, false)
  (r.map Prod.fst, r.map Prod.snd)

/-- Stores cells of tensor storage for a context's engine: through the die's collector to the home, held on a VER line, at the
base die for MSA (R271, R228, R229, R279). -/
def State.engineStore (s : State) (c : Nat) (cells : List (Nat × Byte)) (bad : List Nat) : State :=
  match s.ctx? c, cells with
  | some x, (a, _) :: _ =>
    if s.isMsa a then
      let s1 := ((s.noteWrite c (cells.map Prod.fst)).homeStore cells bad).countLines (cells.map Prod.fst)
      if s.isVer a then s1.bumpLines ((cells.map fun q => lineOf q.1).eraseDups) else s1
    else
      let (id, s1) := (s.noteWrite c (cells.map Prod.fst)).ticket
      let h : Held := { id := id, die := s.dieOf c, ctx := c, barge := x.barge, bytes := cells, poi := bad, ver := s.isVer a,
                        visible := false, deadline := none, sent := none }
      let s2 := s1.addHeld h
      if h.ver then s2 else s2.drainWhere fun q => q.id == id
  | _, _ => s

/-- The tensor that a store or a copy writes. -/
def TileCmd.target (k : TileCmd) : Word := if k.code = 3 then k.h2 else k.h

/-- Writes elements of the tensor that a command writes. -/
def State.writeElems (s : State) (k : TileCmd) (es : List TElem) : State :=
  match s.opLive? k.ctx k.target with
  | none => s
  | some r =>
    let t := handleKey k.target
    let cs := elemCells t r (fun off => (s.viewByte k.ctx s.nextId (storeAddr t off)).1) es
    s.engineStore k.ctx cs.1 cs.2

/-- The elements of a rectangle of a tensor, by their places in it; those outside the tensor are discarded. -/
def rectElems (r : Rec) (row col nr nc : Nat) (bits scale : Nat → Nat → Nat) (bad : Nat → Nat → Bool) : List TElem :=
  (((List.range nr).flatMap fun i => (List.range nc).map fun j => (i, j)).filter fun e => r.inside (row + e.1) (col + e.2)).map fun e =>
    { row := row + e.1, col := col + e.2, bits := bits e.1 e.2, scale := scale e.1 (e.2 / 32), bad := bad e.1 e.2 }

/-- The fingerprint of the elements written (R223). -/
def fpElems (r : Rec) (es : List TElem) : Fpr := es.foldl (fun f e => f.step (fpValue r.side e.bits e.scale)) Fpr.zero

/-- tx.st with its source read: the elements that it writes (R221), their fingerprint, and the first reserved code. -/
def State.storeElems (s : State) (k : TileCmd) : TileCmd :=
  let tile := k.tile
  let src := s.tileSource k
  let n := leNat src.1
  let pad := k.pad
  let traps (r c : Nat) : Bool := pad.code == 6 && pad.int.traps (tile.elem n r c)
  let k' := { k with bad := (List.range (tile.rows * tile.cols)).find? fun i => traps (i / tile.cols) (i % tile.cols) }
  match s.opLive? k.ctx k.h with
  | none => { k' with out := some [] }
  | some r =>
    let at_ (i j : Nat) : Nat × Nat := if k.tr then (j, i) else (i, j)
    let el (i j : Nat) : Nat × Nat :=
      let p := at_ i j
      (if traps p.1 p.2 then 0 else tile.elem n p.1 p.2, if isMx tile.code then tile.scale n p.1 p.2 else 127)
    let cv := convert pad r.side (fmtRound k.fmt) (k.freeScale pad r.side) k.nr k.nc el
    let poi (i j : Nat) : Bool := let p := at_ i j; src.2.getD (p.1 * tile.pitch + p.2 * tile.width / 8) false
    let es := rectElems r k.c.toNat k.c2.toNat k.nr k.nc cv.1 cv.2 poi
    { k' with out := some es, fp := fpElems r es }

/-- The place in the source tensor of an element of a copy's destination rectangle. -/
def TileCmd.source (k : TileCmd) (i j : Nat) : Nat × Nat :=
  if k.tr then (k.c.toNat + j, k.c2.toNat + i) else (k.c.toNat + i, k.c2.toNat + j)

/-- The place whose old value an element of a copy within one tensor receives: its source, or, where the source lies in the
destination, by a free bit that of the element which this copy wrote there (R221, log entry 8). -/
def TileCmd.copied (k : TileCmd) (r : Rec) : Nat → Nat → Nat → Nat × Nat
  | 0, i, j => k.source i j
  | n + 1, i, j =>
    let p := k.source i j
    if k.y ≤ p.1 && p.1 < k.y + k.cpNr && k.c2.toNat ≤ p.2 && p.2 < k.c2.toNat + k.cpNc && r.inside p.1 p.2 &&
        Config.freeBit (2 ^ 50 + k.id * 2 ^ 20 + i * 2 ^ 10 + j) then
      k.copied r n (p.1 - k.y) (p.2 - k.c2.toNat)
    else p

/-- tx.cp reads the source tile whole: the elements that it writes (R221). -/
def State.copyElems (s : State) (k : TileCmd) : TileCmd :=
  match s.opLive? k.ctx k.h, s.opLive? k.ctx k.h2 with
  | some r, some r2 =>
    let t := handleKey k.h
    let place := k.copied r (if t = handleKey k.h2 then 512 else 0)
    let el (i j : Nat) : (Nat × Nat) × Bool := s.tensorElem k t r (place i j).1 (place i j).2
    let cv := convert r.side r2.side (fmtRound k.fmt) (k.freeScale r.side r2.side) k.cpNr k.cpNc fun i j => (el i j).1
    let es := rectElems r2 k.y k.c2.toNat k.cpNr k.cpNc cv.1 cv.2 fun i j => (el i j).2
    { k with out := some es, fp := fpElems r2 es }
  | _, _ => { k with out := some [] }

/-- tx.pf: the lines whose translation holds come into L2 or a replica (R222). -/
def State.tilePrefetch (s : State) (k : TileCmd) : State :=
  match s.opLive? k.ctx k.h with
  | none => s.tileDone k Fpr.zero
  | some r =>
    let t := handleKey k.h
    let offs := (r.rectBytes k.c.toNat k.c2.toNat k.nr k.nc).filter fun o =>
      (checkPage (s.coreLeaf k.core t (o / pageBytes)) false false).isNone
    (s.readLines k t r offs).tileDone k Fpr.zero

/-- Whether a tile store may read its source: earlier stores of the context to it are performed or gated (R218). -/
def State.sourceReady (s : State) (x : Ctx) (k : TileCmd) : Bool :=
  let ps := (granules k.dst k.tile.bytes).map (s.phys k.ctx)
  !((s.lsDueBefore k.ctx x k.id).any fun o =>
    lsWrites o.code && sharesGranule ((lsGranules o.code o.addr.toNat o.o.scalar.toNat).map (s.phys k.ctx)) ps) &&
  !sharesGranule (s.pushedDue k.ctx x k.id) ps

/-- A store reads the source granules it can, and a copy its source; with all of it read, the elements to write are known. -/
def State.tileRead (s : State) (k : TileCmd) : State × TileCmd :=
  if k.out.isSome then (s, k)
  else if k.code = 2 then
    let p := s.takeGranules k
    if p.1.allTaken p.2 then (p.1, p.1.storeElems p.2) else p
  else
    let s1 := match s.opLive? k.ctx k.h with
      | some r => s.readLines k (handleKey k.h) r (r.rectBytes k.c.toNat k.c2.toNat k.nr k.nc)
      | none => s
    (s1, s.copyElems k)

/-- A store or a copy with its source read writes what it has still to write, and completes. -/
def State.tileWrite (s : State) (k : TileCmd) : State :=
  let p := s.tileRead k
  match p.2.out with
  | some es => (p.1.writeElems p.2 es).tileDone p.2 p.2.fp
  | none => p.1.modTile k.id fun _ => p.2

/-- Whether a store or a copy may read its source and write. -/
def State.tileGoes (s : State) (k : TileCmd) : Bool :=
  s.tileMay k && (k.code == 3 || (k.code == 2 && ((s.ctx? k.ctx).map fun x => s.sourceReady x k).getD false))

/-- A store or a copy writes one element, or in an MX tensor the 32 that share its scale, before the others: an agent that reads the tensor
meanwhile meets any mix of old and new elements (R127). -/
def State.tileOne (s : State) (id n : Nat) : State :=
  match s.wk.tiles.find? fun k => k.id == id with
  | none => s
  | some k =>
    if !s.tileGoes k then s
    else
      let p := s.tileRead k
      match p.2.out with
      | some (e :: es) =>
        let u := (e :: es).getD (n % (es.length + 1)) e
        let run := sameRun (((s.opLive? k.ctx k.target).map fun r => isMx r.fmt).getD false) u
        ((p.1.writeElems p.2 ((e :: es).filter run)).modTile id fun _ =>
          { p.2 with out := some ((e :: es).filter fun q => !run q) }).retryOver id
      | _ => p.1.modTile id fun _ => p.2

/-- Whether a load may land its next granule: under FW once it is empty, and never on a fenced core (R195, R219). -/
def State.mayLand (s : State) (k : TileCmd) : Bool := !k.fw || s.elementF [s.phys k.ctx (k.dst + 32 * k.pos)] false

/-- TILE_CMD_COMPLETE: a started command moves its data. A load lands its next granule and completes with the last; a store reads the
source granules that are ready, and once it has them all it writes what State.tileOne has left and completes, as a copy does; a prefetch
completes in one step. -/
def execTileCmdComplete (id : Nat) (s : State) : Out :=
  match s.wk.tiles.find? fun k => k.id == id with
  | none => .next s
  | some k =>
    match s.ctx? k.ctx with
    | none => .next s
    | some _ =>
      if !s.tileMay k then .next s
      else if k.code ≤ 1 then
        match s.opLive? k.ctx k.h with
        | none => .next (s.tileDone k k.fp)
        | some r =>
          if s.mayLand k then .next (s.landGranule k r) else .next s
      else if k.code ≤ 3 then (if s.tileGoes k then .next (s.tileWrite k) else .next s)
      else .next (s.tilePrefetch k)

end Sys2Proof.Machine
end

