-- ==== Sys2Proof/Machine/Barrier.lean ====
section
/-! DEFINITION. The unit bn (R232 to R235): rounds of the barrier networks and the triggers of publication, acquire and fence. -/
namespace Sys2Proof.Machine
open Sys2Proof

def bnScope (y : Word) : Nat := field y 0 3
def bnId (y : Word) : Nat := field y 3 2

/-- sync, arrive, wait and votes: no scope sy or reserved scope. -/
def checkBn (_ : State) (t : Trig) (_ : Ctx) : Option Fail :=
  let y := t.y.scalar
  failIf (field y 5 27 != 0 || 5 ≤ bnScope y) (illTrig y.toNat)
/-- pub, acq and phase: id 0. -/
def checkPub (_ : State) (t : Trig) (_ : Ctx) : Option Fail :=
  let y := t.y.scalar
  failIf (field y 3 29 != 0 || 6 ≤ bnScope y) (illTrig y.toNat)
/-- fence: id 0 and scope 0. -/
def checkFence (_ : State) (t : Trig) (_ : Ctx) : Option Fail := failIf (t.y.scalar != 0) (illTrig t.y.scalar.toNat)

/-! ### Where the barges of an opr run (R20, R129) -/

def State.mappedDies (s : State) : List Nat := (List.range 8).filter s.mapped

/-- The flat indices of the slice that barge g of G declares: the outermost dimension above 1 is cut. -/
def Rec.slice (r : Rec) (g n : Nat) : Option (Nat × Nat) :=
  let cut (d stride : Nat) : Option (Nat × Nat) := some (g * d / n * stride, (g + 1) * d / n * stride)
  if 1 < r.d3 then cut r.d3 (r.d0 * r.d1 * r.d2)
  else if 1 < r.d2 then cut r.d2 (r.d0 * r.d1)
  else if 1 < r.d1 then cut r.d1 r.d0
  else if 1 < r.d0 then cut r.d0 1
  else none

/-- How many 64 KiB pages barge g of n declares of a tensor. -/
def Rec.declared (r : Rec) (g n : Nat) : Nat :=
  match r.slice g n with
  | none => r.pages
  | some (lo, hi) =>
    (((List.range (hi - lo)).map fun i => r.elemBit ((lo + i) / r.d0) ((lo + i) % r.d0) / 8 / pageBytes).eraseDups).length

/-- The virtual die of barge g (Table 1.5). -/
def State.bargeDie (s : State) (o : Op) (g : Nat) : Nat :=
  let dies := s.mappedDies
  let spread := dies.getD (g % dies.length) 0
  match o.kind with
  | .opr _ n _ mode fixDie _ =>
    if mode = 1 then fixDie
    else if mode = 2 then spread
    else
      let count (v : Nat) : Nat := sumNats (o.params.map fun p =>
        if isDiscard p.1 || handleHome p.1 != v then 0 else ((s.rec? (handleKey p.1)).map fun r => r.declared g n).getD 0)
      dies.foldl (fun b v => if count b < count v then v else b) (if dies.all fun v => count v == 0 then spread else dies.getD 0 0)
  | _ => o.die

/-! ### Participants (R233) -/

/-- The scope unit of a context. -/
def State.bnUnit (s : State) (c : Nat) (scope : Nat) : Nat :=
  let b := ((s.ctx? c).map (·.barge)).getD 0
  match scope with
  | 0 => b * 64 + coreIdx (coreOf c)
  | 1 => b * 64 + coreIdx (coreOf c) / 4
  | 2 => b * 64
  | 3 => s.dieOf c
  | _ => 0

/-- The task count n of an operation's barges. -/
def Op.tasks (o : Op) : Nat :=
  match o.kind with
  | .opr _ _ n _ _ _ => n
  | _ => 0

/-- Tasks of a barge whose core satisfies a test. -/
def Barge.tasksWhere (b : Barge) (p : Nat → Bool) : List Nat :=
  ((List.range b.ctxs.length).filter fun k => p (coreIdx (coreOf (b.ctxs.getD k 0)))).map (b.id * 2 ^ 10 + ·)

/-- The participants of a round. -/
def State.members (s : State) (r : Round) : List Nat :=
  match r.scope with
  | 0 => ((s.barge? (r.unit / 64)).map fun b => b.tasksWhere fun k => k == r.unit % 64).getD []
  | 1 => ((s.barge? (r.unit / 64)).map fun b => b.tasksWhere fun k => k / 4 == r.unit % 64).getD []
  | 2 => ((s.barge? (r.unit / 64)).map fun b => b.tasksWhere fun _ => true).getD []
  | _ =>
    let n := ((s.op? r.op).map Op.tasks).getD 0
    (s.sq.barges.filter fun b => b.op == r.op && (r.scope == 4 || b.die == r.unit)).flatMap fun b =>
      (List.range n).map (b.id * 2 ^ 10 + ·)

/-- Whether some participant's barge has not yet been placed: it has not arrived. -/
def State.unplaced (s : State) (r : Round) : Bool :=
  3 ≤ r.scope && ((s.op? r.op).map fun o =>
    (List.range o.gridG).any fun g => o.placed ≤ g && (r.scope == 4 || s.bargeDie o g == r.unit)).getD false

/-- Whether a participant makes no further arrival: its task has halted or its barge retired. -/
def State.ended (s : State) (pid : Nat) : Bool :=
  match s.barge? (pid / 2 ^ 10) with
  | some b => b.st == .retired || ((s.member? pid).map (·.halted)).getD false
  | none => true

/-- Whether every scratchpad store of a participant before a ticket has been performed, and every earlier acquire of its scratchpad
operations, the participant running or suspended (R200, R270). -/
def State.ownDone (s : State) (pid tk : Nat) : Bool :=
  match s.barge? (pid / 2 ^ 10), s.member? pid with
  | some b, some x =>
    let c := b.ctxs.getD (pid % 2 ^ 10) 0
    b.st == .retired ||
    match b.save with
    | some v =>
      !(x.gate.any fun g => !g.isGlobal && g.opId < tk) && !x.pushedBefore tk &&
      !(v.ls.any fun o => o.ctx == c && o.id < tk && o.done.isNone && (lsWrites o.code || lsIsAcquire o.code))
    | none => s.storesDone c x tk && !((s.lsBefore c tk).any fun o => lsIsAcquire o.code)
  | _, _ => true

/-- Whether an arrival is performed as the release it is (R234, R270): the participant's own earlier stores and acquires are done, and for
each earlier round that it still waits for, every participant has arrived there, released in the same sense. n bounds the search:
arrivals that wait for each other in a ring do not hold each other. -/
def State.releasedIn (s : State) : Nat → Nat → Nat → Bool
  | 0, _, _ => true
  | n + 1, pid, tk =>
    s.ownDone pid tk &&
    (s.wk.rounds.filter fun r => r.waiting.any fun w => w.1 == pid && w.2 / 4 < tk).all fun r =>
      !s.unplaced r && (s.members r).all fun m =>
        match r.arrived.find? fun a => a.1 == m with
        | some a => s.releasedIn n m a.2
        | none => s.ended m
def State.released (s : State) (pid tk : Nat) : Bool := s.releasedIn (s.wk.rounds.length + 1) pid tk

/-- Whether a participant has arrived, its release performed, or makes no further arrival. -/
def State.counted (s : State) (r : Round) (pid : Nat) : Bool :=
  match r.arrived.find? fun a => a.1 == pid with
  | some a => s.released pid a.2
  | none => s.ended pid

/-! ### Arrivals -/

/-- The open round of a context at a pair. -/
def State.openRound (s : State) (c scope bid : Nat) : Option Round :=
  let op := ((s.opOf c).map (·.id)).getD 0
  s.wk.rounds.find? fun r => r.op == op && r.unit == s.bnUnit c scope && r.scope == scope && r.bid == bid && !r.complete

/-- Whether the context has arrived at the open round of a pair: a further arrival blocks. -/
def State.arrivedOpen (s : State) (c scope bid : Nat) : Bool :=
  match s.openRound c scope bid, s.ctx? c with
  | some r, some x => r.arrived.any fun a => a.1 == x.pid
  | _, _ => false

def State.modRound (s : State) (id : Nat) (f : Round → Round) : State :=
  { s with wk := { s.wk with rounds := s.wk.rounds.map fun r => if r.id = id then f r else r } }

/-- Opens a round of a pair unless one is open, and gives its ticket. -/
def State.ensureRound (s : State) (c scope bid : Nat) : Nat × State :=
  match s.openRound c scope bid with
  | some r => (r.id, s)
  | none =>
    let (id, s1) := s.ticket
    let r : Round := { id := id, op := ((s.opOf c).map (·.id)).getD 0, unit := s.bnUnit c scope, scope := scope, bid := bid,
                       arrived := [], orVote := false, andVote := true, waiting := [], complete := false }
    (id, { s1 with wk := { s1.wk with rounds := s1.wk.rounds ++ [r] } })

/-- An arrival with its vote; kind 0 waits for 0, 1 for the OR, 2 for the AND, 3 does not wait. -/
def State.arrive (s : State) (t : Trig) (x : Ctx) (vote : Option Bool) (kind : Nat) : State :=
  let scope := bnScope t.y.scalar
  let bid := bnId t.y.scalar
  let (rid, s1) := s.ensureRound t.ctx scope bid
  let (tk, s2) := s1.ticket
  let s3 := s2.modRound rid fun r =>
    { r with arrived := r.arrived ++ [(x.pid, tk)], orVote := r.orVote || vote.getD false, andVote := r.andVote && vote.getD true,
             waiting := if kind = 3 then r.waiting else r.waiting ++ [(x.pid, tk * 4 + kind)] }
  let s4 := s3.modCtx t.ctx fun y => { y with lastArr := y.lastArr.put (scope * 4 + bid) rid }
  if kind = 3 then s4 else s4.pendPort t.ctx qBn tk

def execBnSync (s : State) : Out := checked s checkBn fun t x => s.arrive t x none 0
def execBnArrive (s : State) : Out := checked s checkBn fun t x => s.arrive t x none 3
def execBnVoteAny (s : State) : Out :=
  checked s checkBn fun t x => s.arrive t x (some ((x.portW oBnO).getLsbD 0)) 1
def execBnVoteAll (s : State) : Out :=
  checked s checkBn fun t x => s.arrive t x (some ((x.portW oBnO).getLsbD 0)) 2

/-- bn.wait: waits for the round of the context's last arrival, at once if it is complete or none exists. -/
def execBnWait (s : State) : Out :=
  checked s checkBn fun t x =>
    let (tk, s1) := s.ticket
    let s2 := s1.pendPort t.ctx qBn tk
    let rid := x.lastArr.find (bnScope t.y.scalar * 4 + bnId t.y.scalar)
    match rid.bind fun i => s.wk.rounds.find? fun r => r.id == i && !r.complete with
    | some r => s2.modRound r.id fun q => { q with waiting := q.waiting ++ [(x.pid, tk * 4)] }
    | none => s2.deliver t.ctx qBn tk (num 0)

/-- Delivers a participant's result, into its save area while it is suspended. -/
def State.deliverPid (s : State) (pid port id : Nat) (v : PV) : State := s.modMember pid fun x => x.deliver port id v

/-- BN_ROUND_COMPLETE: with every participant arrived, or halted, the waiting syncs, waits and votes complete. -/
def execBnRoundComplete (id : Nat) (s : State) : Out :=
  match s.wk.rounds.find? fun r => r.id == id with
  | none => .next s
  | some r =>
    if !s.unplaced r && (s.members r).all (s.counted r) then
      let answer (k : Nat) : PV :=
        match k with
        | 1 => num (if r.orVote then 1 else 0)
        | 2 => num (if r.andVote then 1 else 0)
        | _ => num 0
      let s1 : State := { s with wk := { s.wk with rounds := s.wk.rounds.filter fun q => q.id != id } }
      .next (r.waiting.foldl (fun t w => t.deliverPid w.1 qBn (w.2 / 4) (answer (w.2 % 4))) s1)
    else .next s

/-! ### Publication (R235) -/

/-- Queues a publication operation: code 3 pub, 4 acq, 5 phase, 6 fence. -/
def pubOp (code : Nat) (chk : State → Trig → Ctx → Option Fail) (s : State) : Out :=
  checked s chk fun t _ =>
    let (id, s1) := s.ticket
    let p : PubOp := { id := id, ctx := t.ctx, code := code, scope := bnScope t.y.scalar, before := id }
    { s1 with wk := { s1.wk with pubs := s1.wk.pubs ++ [p] } }.pendPort t.ctx qBn id

def execBnPub (s : State) : Out := pubOp 3 checkPub s
def execBnAcq (s : State) : Out := pubOp 4 checkPub s
def execBnPhase (s : State) : Out := pubOp 5 checkPub s
def execBnFence (s : State) : Out := pubOp 6 checkFence s

end Sys2Proof.Machine
end

