-- ==== Sys2Proof/Machine/System.lean ====
section
/-! DEFINITION. The unit sy but for the codebook operations (R236 to R238, R370), and the unit gq (R239, R240). -/
namespace Sys2Proof.Machine
open Sys2Proof

/-! ### sy -/

/-- Bits of the operand from bit n on are stated zero. -/
def checkHigh (n : Nat) (_ : State) (t : Trig) (_ : Ctx) : Option Fail :=
  failIf (field t.y.scalar n (32 - n) != 0) (illTrig t.y.scalar.toNat)

/-- A write to fmt is visible four cycles on (R147); a reserved value is no fault. -/
def execSyFmt (s : State) : Out :=
  onTrigger s fun t _ => s.modRegs t.ctx fun r => r.writeFmt t.cyc 0x0fffffff#32 t.y.scalar

def execSyFset (s : State) : Out :=
  checked s (checkHigh 8) fun t _ => s.modRegs t.ctx fun r => r.setFlags (t.y.scalar.extractLsb' 0 8)
def execSyFclr (s : State) : Out :=
  checked s (checkHigh 8) fun t _ => s.modRegs t.ctx fun r => r.clearFlags (t.y.scalar.extractLsb' 0 8)

/-- A signal record (R356). -/
def State.signalRecord (s : State) (t : Trig) (seq : Word) : List Byte :=
  let c := t.ctx
  leBytes 1 0x21 ++ leBytes 3 0 ++ leBytes 4 (s.sidOf c) ++ leBytes 4 t.bno ++
  leBytes 4 (((s.bargeOf c).map (·.g)).getD 0) ++ leBytes 1 (clusterOf (coreOf c)) ++ leBytes 1 (coreIdx (coreOf c)) ++
  leBytes 1 (hctxOf c) ++ leBytes 1 (((s.ctx? c).map (·.task)).getD 0) ++ leBytes 2 t.y.scalar.toNat ++ leBytes 2 0 ++
  leBytes 4 seq.toNat ++ leBytes 4 0

/-- Posts a signal record; sy.q receives its number. A full window blocked the bundle. -/
def execSySig (s : State) : Out :=
  checked s (checkHigh 16) fun t _ =>
    let k := s.hs.cwProd
    let (id, s1) := s.ticket
    ((s1.post (s.signalRecord t k) .nothing).pendPort t.ctx qSy id).deliver t.ctx qSy id (PV.ofWord k false)

/-- CORE_TRAP with code y; a pending redirect and a repeat count stand (R237). -/
def execSyTrap (s : State) : Out := onTrigger s fun t _ => s.imprecise t.ctx (trapInfo t)

/-- A trace entry, when tracing is on for the die. -/
def execSyDbg (s : State) : Out :=
  onTrigger s fun t _ =>
    if (s.die (s.dieOf t.ctx)).trcEn then
      s.modCore (coreOf t.ctx) fun k =>
        let e : TraceEntry := { bno := BitVec.ofNat 32 t.bno, cyc := BitVec.ofNat 32 t.cyc, y := t.y.scalar, hctx := hctxOf t.ctx }
        { k with trace := k.trace.put (k.traceCnt % 64) e, traceCnt := (k.traceCnt + 1) % 2 ^ 32 }
    else s

def execSyPrio (s : State) : Out :=
  checked s (checkHigh 1) fun t _ => s.modCtx t.ctx fun x => { x with prio := t.y.scalar.getLsbD 0 }

def execSyNop (s : State) : Out := onTrigger s fun _ _ => s

/-! ### gq -/

/-- Whether a guest can take packets (R239, R368). -/
def GuestState.usable : GuestState → Bool
  | .present => true
  | .preempted => true
  | _ => false

def GuestState.code : GuestState → Nat
  | .absent => 0
  | .present => 1
  | .fenced => 2
  | .preempted => 3

def guestFail (st : GuestState) : Fail := { cls := 12, code := 0xc0, subcode := 0, value := st.code }

def checkPush (s : State) (t : Trig) (x : Ctx) : Option Fail :=
  let a := t.y.scalar.toNat
  let o := x.portW oGqO
  (failIf (!addrLegal a 64 32) (illTrig a)).orElse fun _ =>
  (failIf (o.getLsbD 31 || !addrLegal (field o 0 28) 32 32) (illTrig o.toNat)).orElse fun _ =>
  failIf (!s.hs.guest.st.usable) (guestFail s.hs.guest.st)

/-- Entries of a core's guest queue in use: pushes that the guest has not accepted (log entry 31). -/
def State.gqUsed (s : State) (core : Nat) : Nat :=
  (s.wk.guestCmds.filter fun g => !g.isStream && g.core == core && !g.accepted && g.done.isNone).length

/-- gq.push: the flag is cleared at issue; the packet is read later (R239). -/
def execGqPush (s : State) : Out :=
  checked s checkPush fun t x =>
    let (id, s1) := s.ticket
    let o := x.portW oGqO
    let f := field o 28 3
    let cmd : GuestCmd :=
      { id := id, src := x.pid, isStream := false, core := coreOf t.ctx, addr := t.y.scalar.toNat, bno := t.bno, pkt := [],
        comp := BitVec.ofNat 32 (field o 0 28), flag := f, seq := none, ingress := false, accepted := false, checkpointed := false,
        done := none }
    let s2 : State := { s1 with wk := { s1.wk with guestCmds := s1.wk.guestCmds ++ [cmd] } }
    (s2.pendPort t.ctx qGq id).modRegs t.ctx fun r => r.clearFlag f

/-- A result of gq known at issue. -/
def gqNow (f : State → Trig → Word) (s : State) : Out :=
  onTrigger s fun t _ =>
    let (id, s1) := s.ticket
    (s1.pendPort t.ctx qGq id).deliver t.ctx qGq id (PV.ofWord (f s t) false)

def execGqSpace (s : State) : Out :=
  gqNow (fun s t => if s.hs.guest.st.usable then BitVec.ofNat 32 (16 - s.gqUsed (coreOf t.ctx)) else 0xffffffff#32) s

/-- Whether the completion of a sequence number has arrived: it was given out, its packet was not withdrawn, and none waits under it. -/
def State.seqArrived (s : State) (y : Word) : Bool :=
  let g := s.hs.guest
  (g.wrapped || decide (y.toNat < g.gseq.toNat)) && !g.lost.contains y && !s.wk.guestCmds.any fun p => p.seq == some y && p.done.isNone

def execGqPoll (s : State) : Out := gqNow (fun s t => if s.seqArrived t.y.scalar then 1 else 0) s

end Sys2Proof.Machine
end

