-- ==== Sys2Proof/Machine/Bundle.lean ====
section
/-! DEFINITION. Issue within a core: what a bundle needs before it issues (R75), its issue checks (R85, R86, R181, R376), closing
bundles and the marks they need (R314, R316), the choice of a context (R303 to R305), and BUNDLE_ISSUE itself (R71). -/
namespace Sys2Proof.Machine
open Sys2Proof

/-! ### The checks of a trigger by its code (Table 5.8) -/

def checkVx (code : Nat) (s : State) (t : Trig) (x : Ctx) : Option Fail :=
  match code with
  | 0x0b | 0x0d | 0x0f | 0x11 | 0x13 => checkRnd s t x
  | 0x14 => checkCvtInt s t x
  | 0x15 => checkIntCvt s t x
  | 0x16 | 0x17 => checkMx s t x
  | 0x1f => checkCbx s t x
  | _ => none

def checkBr (code : Nat) (s : State) (t : Trig) (x : Ctx) : Option Fail :=
  match code with
  | 0 => checkJmp s t x
  | 1 | 2 | 3 => checkJma s t x
  | 4 => checkLoop s t x
  | 5 => checkLoops s t x
  | 6 => checkBrk s t x
  | _ => none

def checkMatrix (code : Nat) (s : State) (t : Trig) (x : Ctx) : Option Fail :=
  match code with
  | 0 => checkShape s t x
  | 1 => checkRing s t x
  | 2 | 3 => checkMma s t x
  | 4 => checkMmasm s t x
  | 5 => checkDrain s t x
  | 6 => checkDrainf s t x
  | 7 => checkZero s t x
  | 8 => checkLdacc s t x
  | 9 => checkScale s t x
  | 10 => checkRowstat s t x
  | 11 => checkSmreset s t x
  | _ => checkMxFence s t x

def checkRowUnit (code : Nat) (s : State) (t : Trig) (x : Ctx) : Option Fail :=
  if code < 6 then checkRow code s t x else if code = 6 then checkRwSlot s t x else checkRwFree s t x

def checkTile (code : Nat) (s : State) (t : Trig) (x : Ctx) : Option Fail :=
  match code with
  | 0 | 2 => checkTxPad s t x
  | 1 => checkTxLdr s t x
  | 3 => checkTxCp s t x
  | 4 => checkTxPf s t x
  | 5 => checkTxFpr s t x
  | 6 => checkTxQlim s t x
  | _ => none

def checkLsUnit (code : Nat) (s : State) (t : Trig) (x : Ctx) : Option Fail :=
  match code with
  | 17 | 18 => checkSetf s t x
  | 20 => none
  | 25 | 26 => checkBarCount s t x
  | 27 => checkBarWait s t x
  | 29 => checkSbind s t x
  | 30 => checkSunbind s t x
  | _ => checkLs code s t x

def checkBnUnit (code : Nat) (s : State) (t : Trig) (x : Ctx) : Option Fail :=
  match code with
  | 3 | 4 | 5 => checkPub s t x
  | 6 => checkFence s t x
  | _ => checkBn s t x

def checkSy (code : Nat) (s : State) (t : Trig) (x : Ctx) : Option Fail :=
  match code with
  | 1 => checkCbld s t x
  | 2 => checkCbwr s t x
  | 3 => checkCbsel s t x
  | 4 | 5 => checkHigh 8 s t x
  | 6 => checkHigh 16 s t x
  | 9 => checkHigh 1 s t x
  | _ => none

/-- The issue check of the trigger with destination code dst. -/
def checkTrig (dst : Nat) (s : State) (t : Trig) (x : Ctx) : Option Fail :=
  if dst < 0x240 then none
  else if dst < 0x260 then (if 0x253 ≤ dst && dst ≤ 0x256 then checkRnd s t x else none)
  else if dst < 0x280 then none
  else if dst < 0x290 then checkBr (dst - 0x280) s t x
  else if dst < 0x2a0 then checkMatrix (dst - 0x290) s t x
  else if dst < 0x2b0 then checkRowUnit (dst - 0x2a0) s t x
  else if dst < 0x2c0 then checkTile (dst - 0x2b0) s t x
  else if dst < 0x2e0 then checkLsUnit (dst - 0x2c0) s t x
  else if dst < 0x300 then none
  else if dst < 0x320 then checkVx (dst - 0x300) s t x
  else if dst < 0x340 then checkGv (dst - 0x320) s t x
  else if dst < 0x350 then checkBnUnit (dst - 0x340) s t x
  else if dst < 0x360 then checkSy (dst - 0x350) s t x
  else if dst = 0x360 then checkPush s t x
  else none

/-! ### What blocks a trigger (R75, R79) -/

/-- What a move still needs: nothing, a codebook bank of its own (R189), or more time. -/
inductive Need where
  | ok
  | take (bank : Nat) (load : Bool)
  | wait
  deriving DecidableEq, Repr

/-- Whether a queued matrix operation of a core names a codebook bank (R188). -/
def State.bankQueued (s : State) (core bank : Nat) : Bool := (s.mxOf core).any fun o => o.book.isSome && fmtCbank o.fmt == bank

/-- An access to a claimed codebook bank: it waits while the bank is busy, and a foreign bank is taken first, once no queued matrix
operation of the old owner names it (R182, R189). -/
def State.needBank (s : State) (c : Nat) (x : Ctx) (bank : Nat) (load : Bool) : Need :=
  let b := s.bank (coreOf c) bank
  if (checkClaim s c bank).isSome then .ok
  else if b.busy.isSome then .wait
  else if owns x b then .ok
  else if s.bankQueued (coreOf c) bank then .wait
  else .take bank load

/-- A write or load of a bank also waits for queued matrix operations that use it (R188), and while the bank is being taken. -/
def State.needBankWrite (s : State) (c : Nat) (x : Ctx) (bank : Nat) (load : Bool) : Need :=
  if s.bankQueued (coreOf c) bank || (s.core (coreOf c)).take.any (fun t => t.2.1 == bank) then .wait else s.needBank c x bank load

/-- sm: no division of the context in progress; a division also needs the divider and no earlier result in flight (R79). A result that a
stop holds in the snapshot (R310) has its remaining cycles counted from the bundle that resumes: a division in that bundle does not
wait for it (DESIGN CHOICE, log entry 104). -/
def State.needSm (s : State) (c : Nat) (x : Ctx) (cyc code : Nat) : Need :=
  match (s.core (coreOf c)).div with
  | some d => if d.1 = c || (4 ≤ code && code ≤ 7) then .wait else .ok
  | none => if 4 ≤ code && code ≤ 7 && x.flights.any (fun f => f.port == qSm && cyc < f.due) then .wait else .ok

/-- mx: an entry of the operand queue (R249), and the codebook of a format-7 operand (R251). -/
def State.needMx (s : State) (c : Nat) (x : Ctx) (code : Nat) : Need :=
  if code < 2 then .ok
  else if 16 ≤ (s.mxOf (coreOf c)).length then .wait
  else if usesBook code x.r.fmt x.r.shape then s.needBank c x (fmtCbank x.r.fmt) false
  else .ok

/-- Every earlier scratchpad store of the context to n bytes at an address has been performed, and no earlier acquire or fence holds a
load of them (R200, R202, R261). -/
def State.storedTo (s : State) (c : Nat) (x : Ctx) (a n : Nat) : Bool := s.storesOverTo c x s.nextId (s.physList c a n)

/-- rw: a place in the row queue (R262), and a descriptor that earlier stores have reached (R261). -/
def State.needRw (s : State) (c : Nat) (x : Ctx) (code : Nat) (y : Word) : Need :=
  if 4 ≤ (s.rwOf (coreOf c)).length || (code < 6 && !s.storedTo c x y.toNat 32) then .wait else .ok

/-- tx: the tile queue and the context's limit (R217). -/
def State.needTx (s : State) (c : Nat) (x : Ctx) (code : Nat) : Need :=
  if code < 5 && (32 ≤ (s.tilesOf (coreOf c)).length || x.r.tlimit ≤ s.outstanding c) then .wait else .ok

/-- The condition of a local full/empty form, on the context's granules at issue (R200). -/
def State.feReady (s : State) (c : Nat) (code : Nat) (y : Word) : Bool :=
  match lsWaits code with
  | some f => !isLocal c y.toNat || (granules y.toNat (lsWidth code)).all fun g =>
      s.fbit (s.phys c g) == f && !(s.core (coreOfPhys (s.phys c g))).fenced
  | none => true

/-- ls: at most 16 outstanding (R196), a local condition that holds (R200), and no buffered writes under an sbind (R211). -/
def State.needLs (s : State) (c : Nat) (x : Ctx) (code : Nat) (y : Word) : Need :=
  let stores := 6 ≤ code && code ≤ 9
  let bufd := code == 29 && (match vget x.r.binds (bindPort y) none with
    | some b => 4 ≤ bindPort y && !b.buf.isEmpty
    | none => false)
  if (!stores && code != 29 && 16 ≤ (s.wk.ls.filter fun o => o.ctx == c).length) || !s.feReady c code y || bufd then .wait
  else .ok

/-- bn: an arrival waits while the context's earlier round at the pair is open (R233). -/
def State.needBn (s : State) (c : Nat) (code : Nat) (y : Word) : Need :=
  if (code == 0 || code == 1 || code == 7 || code == 8) && s.arrivedOpen c (bnScope y) (bnId y) then .wait else .ok

def State.needSy (s : State) (c : Nat) (x : Ctx) (code : Nat) (y : Word) : Need :=
  match code with
  | 1 => s.needBankWrite c x (cbldBank y) true
  | 2 => s.needBankWrite c x (cbwrBank y) false
  | 6 => if windowFull s.hs || !s.hs.cwWait.isEmpty then .wait else .ok
  | _ => .ok

/-- What the trigger with destination code dst needs. -/
def State.needTrig (s : State) (x : Ctx) (t : Trig) (dst : Nat) : Need :=
  let c := t.ctx
  let y := t.y.scalar
  if dst < 0x240 then .ok
  else if dst < 0x260 then s.needSm c x t.cyc (dst - 0x240)
  else if dst < 0x290 then .ok
  else if dst < 0x2a0 then s.needMx c x (dst - 0x290)
  else if dst < 0x2b0 then s.needRw c x (dst - 0x2a0) y
  else if dst < 0x2c0 then s.needTx c x (dst - 0x2b0)
  else if dst < 0x2e0 then s.needLs c x (dst - 0x2c0) y
  else if dst = 0x31f then s.needBank c x (fmtCbank x.r.fmt) false
  else if dst < 0x340 then .ok
  else if dst < 0x350 then s.needBn c (dst - 0x340) y
  else if dst < 0x360 then s.needSy c x (dst - 0x350) y
  else if dst = 0x360 then (if 16 ≤ s.gqUsed (coreOf c) then .wait else .ok)
  else .ok

/-! ### One move (R70, R73, R75, R210) -/

/-- What a move finds at issue: what it needs, and the checks that it fails, in order. -/
structure Found where
  need : Need
  fails : List Fail
  deriving DecidableEq, Repr

def Found.ok : Found := { need := .ok, fails := [] }
def Found.fail (f : Fail) : Found := { need := .ok, fails := [f] }
def Found.wait : Found := { need := .wait, fails := [] }
def Found.orElse (a b : Found) : Found :=
  { need := match a.need, b.need with
      | .wait, _ => .wait
      | _, .wait => .wait
      | .take k l, _ => .take k l
      | .ok, n => n,
    fails := a.fails ++ b.fails }

def illSrc (v : Nat) : Fail := { cls := 1, code := 0x11, subcode := 0, value := v }
def illDst (v : Nat) : Fail := { cls := 1, code := 0x12, subcode := 0, value := v }
def illWidth (v : Nat) : Fail := { cls := 1, code := 0x14, subcode := 0, value := v }
def poisonFail (src : Nat) : Fail := { cls := 11, code := 0xb0, subcode := 0, value := src }

/-- A pop of port p. -/
def foundPop (x : Ctx) (src p : Nat) : Found :=
  match vget x.r.binds p none with
  | none => Found.fail (illSrc src)
  | some b =>
    if !elementLegal b b.taken then Found.fail (illSrc (elementAddr b b.taken))
    else if b.buf.isEmpty then Found.wait
    else Found.ok

/-- A push to port p, from a view or not. The operand of ILL_WIDTH is the source code (log entry 15). -/
def foundPush (x : Ctx) (src dst p : Nat) : Found :=
  match vget x.r.binds p none with
  | none => Found.fail (illDst dst)
  | some b =>
    if b.closed then Found.fail (illDst dst)
    else if isView src && !b.wide then Found.fail (illWidth src)
    else if !elementLegal b b.taken then Found.fail (illDst (elementAddr b b.taken))
    else if 8 ≤ b.buf.length then Found.wait
    else Found.ok

/-- What a move's source finds. -/
def State.foundSource (s : State) (c : Nat) (x : Ctx) (src : Nat) : Found :=
  if 0xa8 ≤ src && src < 0xac then foundPop x src (src - 0xa8)
  else if 0xb0 ≤ src && src < 0xc3 then
    (if (vget x.r.pend (src - 0xb0) none).isSome then Found.wait else Found.ok)
  else if isView src then
    match checkViewSlice x src with
    | some f => Found.fail f
    | none => { need := s.needBank c x (fmtCbank x.r.fmt) false, fails := (checkView s c x src).toList }
  else Found.ok

/-- A move with its value in the width of its destination. -/
structure Live where
  move : Move
  val : PV
  deriving DecidableEq, Repr

/-- The value that an active move carries. -/
def State.moveValue (s : State) (c : Nat) (x : Ctx) (bno : Nat) (lits : List Word) (m : Move) : PV :=
  convertWidth (x.sourceVec m.src) (x.destVec m.dst) (s.source c x bno lits (s.viewValue c x) m.src)

/-- The active moves of a bundle with their values. A view of a bank that the context must take first reads what the take brings
(State.activeBank, log entry 130). -/
def State.liveMoves (s : State) (c : Nat) (x : Ctx) (b : Bundle) (ms : List Move) : List Live :=
  ms.map fun m => { move := m, val := s.moveValue c x x.r.pc b.lits m }

/-- The trigger of a move of a bundle. -/
def trigOf (c : Nat) (x : Ctx) (bno cyc : Nat) (m : Live) : Trig :=
  let y := m.val.scalar
  { ctx := c, slot := m.move.slot, bno := bno, cyc := cyc, delay := x.r.redirect.isSome, word := m.move.word, y := m.val,
    ag := x.r.agSet (if m.move.dst = 0x2dd then field y 4 4 else field y 0 4), ag2 := x.r.agSet (field y 8 4) }

/-- What an active move finds, with the ports as the bundle's own moves leave them (R71). -/
def State.foundMove (s : State) (c : Nat) (x xp : Ctx) (bno cyc : Nat) (m : Live) : Found :=
  let f := s.foundSource c x m.move.src
  let p : Found := if m.val.bad then Found.fail (poisonFail m.move.src) else Found.ok
  let d : Found :=
    if 0xa8 ≤ m.move.dst && m.move.dst < 0xac then foundPush x m.move.src m.move.dst (m.move.dst - 0xa8 + 4)
    else if 0x200 ≤ m.move.dst then
      let t := trigOf c x bno cyc m
      { need := s.needTrig xp t m.move.dst, fails := (checkTrig m.move.dst s t xp).toList }
    else Found.ok
  (f.orElse p).orElse d

/-- The context with the operand ports as a bundle's moves leave them. -/
def Ctx.withPorts (x : Ctx) (ms : List Live) : Ctx :=
  { x with r := { x.r with opnd := ms.foldl (fun o m =>
    if 0xb0 ≤ m.move.dst && m.move.dst < 0xcf then vset o (m.move.dst - 0xb0) m.val else o) x.r.opnd } }

/-- What the active moves of a bundle find, in slot order. -/
def State.foundMoves (s : State) (c : Nat) (x : Ctx) (cyc : Nat) (ms : List Live) : List (Nat × Found) :=
  ms.map fun m => (m.move.slot, s.foundMove c x (x.withPorts ms) x.r.pc cyc m)

/-! ### Closing bundles and marks (R314, R316) -/

/-- Whether a trigger closes its bundle. -/
def closingTrig (dst : Nat) : Bool :=
  if dst < 0x280 then false
  else if dst < 0x290 then dst == 0x287 || dst == 0x289
  else if dst < 0x2a0 then 0x292 ≤ dst
  else if dst < 0x2b0 then true
  else if dst < 0x2c0 then dst == 0x2b1
  else if dst < 0x2e0 then [11, 12, 13, 15, 16, 17, 18].contains (dst - 0x2c0) || 20 ≤ dst - 0x2c0
  else if dst < 0x320 then false
  else if dst < 0x340 then 0x328 ≤ dst
  else if dst < 0x350 then true
  else if dst < 0x360 then dst == 0x351 || dst == 0x352 || dst == 0x356 || dst == 0x357
  else dst == 0x360

def closingMove (m : Move) : Bool :=
  (0xa8 ≤ m.src && m.src < 0xac) || (0xa8 ≤ m.dst && m.dst < 0xac) || (0x200 ≤ m.dst && closingTrig m.dst)

/-- Stores that the bundle puts into the store gate. -/
def gatedStores (ms : List Move) : Nat :=
  (ms.filter fun m => (0x2c6 ≤ m.dst && m.dst ≤ 0x2c9) || m.dst == 0x322 || m.dst == 0x323).length

/-- The mark that the boundary before a bundle needs: true for a MARK or entry bundle, false for an implicit mark. -/
def markNeed (x : Ctx) (b : Bundle) (ms : List Move) : Option Bool :=
  if x.marked then none
  else if x.shadow.isNone || (x.r.rep.isNone && b.mark) then some true
  else if x.needMark || 1024 ≤ x.issued || ms.any closingMove || 64 < x.gate.length + gatedStores ms then some false
  else none

/-! ### What a context would do in this cycle -/

/-- Runs no task, is stopped or suspended; blocks; starts a take; takes a fault; or issues the bundle with these moves. -/
inductive Attempt where
  | dead
  | wait
  | take (bank : Nat) (load : Bool)
  | fault (f : FaultInfo)
  | go (b : Bundle) (ms : List Live)
  deriving DecidableEq, Repr

/-- Whether a context has a task that may issue (R303). -/
def State.alive (s : State) (c : Nat) (x : Ctx) : Bool :=
  !x.halted && x.stop.isNone && !(s.core (coreOf c)).fenced && ((s.bargeOf c).map fun b => b.st == .placed).getD false

/-- The next bundle of a context, or the fault of its fetch or decoding (R85, R159). -/
def State.nextBundle (s : State) (c : Nat) (x : Ctx) : Except FaultInfo Bundle :=
  let bundles := ((s.kernelOf c).map (·.bundles)).getD []
  match bundles[x.r.pc]? with
  | none => .error { cls := 1, code := 0x10, flags := flPrecise, slot := 8, subcode := 0, bno := bundles.length, value := bundles.length }
  | some ws =>
    match decodeBundle ws with
    | .error e => .error { cls := 1, code := e.err.code, flags := flPrecise, slot := e.slot, subcode := 0, bno := x.r.pc, value := e.operand }
    | .ok b => .ok b

/-- The moves of a bundle that are not guarded off (R72). -/
def activeMoves (b : Bundle) (r : Regs) : List Move := b.moves.filter fun m => r.active m.guard

/-- The first fault of a bundle: an illegal-bundle class before the others, in slot order (R86, R181). -/
def firstFail (fs : List (Nat × Fail)) : Option (Nat × Fail) :=
  (fs.find? fun f => f.2.cls == 1).orElse fun _ => fs.head?

def failsOf (fs : List (Nat × Found)) : List (Nat × Fail) := fs.flatMap fun f => f.2.fails.map fun e => (f.1, e)

/-- The attempt of a context whose marks are taken: a take starts only when nothing else blocks the bundle and no check fails (R189). -/
def State.attemptMoves (s : State) (c : Nat) (x : Ctx) (cyc : Nat) (b : Bundle) : Attempt :=
  let ms := s.liveMoves c x b (activeMoves b x.r)
  let fs := s.foundMoves c x cyc ms
  if fs.any fun f => f.2.need == .wait then .wait
  else match firstFail (failsOf fs) with
  | some f => .fault (f.2.info f.1 x.r.pc)
  | none =>
    match sortBy (fun a b => a.1 < b.1 || (a.1 == b.1 && !a.2 && b.2)) (fs.filterMap fun f => match f.2.need with
        | .take k l => some (k, l)
        | _ => none) with
    | q :: _ => if (s.core (coreOf c)).take.isSome then .wait else .take q.1 q.2
    | [] => .go b ms

/-- What context c would do in cycle cyc of its core. -/
def State.attempt (s : State) (c cyc : Nat) : Attempt :=
  match s.ctx? c with
  | none => .dead
  | some x =>
    if !s.alive c x then .dead
    else match s.nextBundle c x with
    | .error f => .fault f
    | .ok b =>
      if x.r.rep.isNone && (x.r.flags &&& b.waitf) != b.waitf then .wait
      else if (markNeed x b (activeMoves b x.r)).isSome || 64 < x.gate.length + gatedStores (activeMoves b x.r) then .wait
      else if (s.core (coreOf c)).take.any fun t => t.1 == c then .wait
      else s.attemptMoves c x cyc b

def Attempt.ready : Attempt → Bool
  | .dead => false
  | .wait => false
  | _ => true

/-! ### Marks (R314, R316) -/

/-- Whether a bundle takes a restart mark before this issue of it (R82, R314). -/
def restartsAt (x : Ctx) (b : Except FaultInfo Bundle) : Bool :=
  match b with
  | .ok b => x.r.rep.isNone && b.mark
  | .error _ => false

/-- Whether a context stands at a boundary that needs a mark, and of which kind. A bundle that halts its task closes its
region too. The mark after a closing bundle, or after 1024, waits for nothing that the next bundle needs, nor for a stopped context to go
on (R316). -/
def State.needsMark (s : State) (c : Nat) : Option Bool :=
  match s.ctx? c with
  | none => none
  | some x =>
    if x.halted then (if x.gate.any (fun g => !g.released) then some false else none)
    else if (s.core (coreOf c)).fenced || !((s.bargeOf c).map fun b => b.st == .placed).getD false then none
    else if x.needMark && !x.marked then some (restartsAt x (s.nextBundle c x))
    else if x.stop.isSome then none
    else match s.nextBundle c x with
    | .error _ => none
    | .ok b => if x.r.rep.isNone && (x.r.flags &&& b.waitf) != b.waitf then none else markNeed x b (activeMoves b x.r)

/-- RESTART_MARK: a mark before a bundle with MARK = 1 or a task's entry bundle, once earlier translations are done. -/
def execRestartMark (c : Nat) (s : State) : Out :=
  if s.needsMark c = some true && !s.untranslated c then .next (s.takeMark c) else .next s

/-- IMPLICIT_MARK: a mark around a closing bundle, after 1024 bundles or for want of room in the gate (R316). Pre-emption takes
its own. -/
def execImplicitMark (c : Nat) (s : State) : Out :=
  if s.needsMark c = some false && !s.untranslated c then .next (s.takeMark c) else .next s

/-! ### The effect of an issue -/

/-- The plain writes, pops and pushes of a bundle's moves. -/
def moveEffects (id : Nat) (ms : List Live) (r : Regs) : Regs :=
  ms.foldl (fun q m =>
    let q1 := if 0xa8 ≤ m.move.src && m.move.src < 0xac then q.pop (m.move.src - 0xa8) else q
    if 0xa8 ≤ m.move.dst && m.move.dst < 0xac then q1.push (m.move.dst - 0xa8 + 4) (id + (m.move.dst - 0xa8)) m.val
    else q1.writeDest m.move.dst m.val) r

/-- Triggers in the order of their effects: ag1 after ag0 (R155), sy after the others, br after it (R162), and sy.trap last, whose resume
point is the bundle that would then issue (R237). -/
def trigRank (dst : Nat) : Nat :=
  if dst = 0x357 then 4
  else if 0x270 ≤ dst && dst < 0x280 then 1 else if 0x350 ≤ dst && dst < 0x360 then 2 else if 0x280 ≤ dst && dst < 0x290 then 3 else 0

/-- Within a rank the triggers go by destination code: a move's slot has no effect on its execution (R62, log entry 105). -/
def trigsInOrder (ms : List Live) : List Live :=
  sortBy (fun a b => trigRank a.move.dst < trigRank b.move.dst ||
    (trigRank a.move.dst == trigRank b.move.dst && a.move.dst < b.move.dst)) (ms.filter fun m => 0x200 ≤ m.move.dst)

/-- Whether br.halt, yield or trap discards a pending redirect (R162). -/
def discardsRedirect (ms : List Live) : Bool := ms.any fun m => 0x287 ≤ m.move.dst && m.move.dst ≤ 0x289

/-- The registers after a bundle's moves and the advance past it (R71, R80, R81, R158, R160). -/
def issueRegs (b : Bundle) (ms : List Live) (id : Nat) (r : Regs) : Regs :=
  let r1 := if r.rep.isNone && b.clrf then r.clearFlags b.waitf else r
  let r2 := moveEffects id ms r1
  match r.rep, b.rep with
  | none, 0 => r2.advance r.pc (!discardsRedirect ms)
  | none, n => { r2 with rep := some n }
  | some 1, _ => r2.advance r.pc (!discardsRedirect ms)
  | some n, _ => { r2 with rep := some (n - 1) }

/-- Issues a bundle of context c in cycle cyc: its moves take effect and its triggers wait to execute, one by one, before
anything else moves. -/
def State.issue (s : State) (c cyc : Nat) (x : Ctx) (b : Bundle) (ms : List Live) : State :=
  let y := x.rebase cyc
  let closes := ms.any fun m => closingMove m.move
  let z : Ctx :=
    { y with r := issueRegs b ms s.nextId y.r, last := cyc, issued := y.issued + 1, marked := false, waited := 0,
             needMark := closes || 1024 ≤ y.issued + 1 }
  { s.putCtx c z with nextId := s.nextId + 8, micro := (trigsInOrder ms).map (trigOf c x x.r.pc cyc) }

/-! ### The choice of a context (R303 to R305) -/

def ctxOf (core h : Nat) : Nat := core * 4 + h

/-- The contexts of a core after the current one, in round-robin order. -/
def roundRobin (cur : Nat) : List Nat := (List.range 4).map fun i => (cur + 1 + i) % 4

def State.waitedOf (s : State) (c : Nat) : Nat := ((s.ctx? c).map (·.waited)).getD 0

/-- The ready contexts of a core. -/
def State.readyOf (s : State) (core : Nat) : List Nat :=
  (List.range 4).filter fun h => (s.attempt (ctxOf core h) (s.core core).cyc).ready

/-- The aged context that has waited longest, the lowest on a tie. -/
def oldest (s : State) (core : Nat) : List Nat → Option Nat
  | [] => none
  | h :: hs =>
    match oldest s core hs with
    | none => some h
    | some g => some (if s.waitedOf (ctxOf core h) < s.waitedOf (ctxOf core g) then g else h)

/-- The choice of R304. -/
def State.choose (s : State) (core : Nat) : Option Nat :=
  let ready := s.readyOf core
  let aged := ready.filter fun h => 1536 ≤ s.waitedOf (ctxOf core h)
  match oldest s core aged with
  | some h => some h
  | none =>
    let order := (roundRobin (s.core core).current).filter fun h => ready.contains h
    let cls1 := order.find? fun h => ((s.ctx? (ctxOf core h)).map (·.prio)).getD false
    cls1.orElse fun _ => order.head?

/-- Counts the cycle: contexts that were ready and did not issue wait one cycle longer; the cycles of a barge's own pre-emption are not
counted (R305). -/
def State.passCycle (s t : State) (core : Nat) (issuer : Option Nat) : State :=
  let ready := s.readyOf core
  let t1 := (List.range 4).foldl (fun u h =>
    if issuer = some h ∨ s.savingCtx (ctxOf core h) then u
    else u.modCtx (ctxOf core h) fun x => { x with waited := if ready.contains h then x.waited + 1 else 0 }) t
  t1.modCore core fun k => { k with cyc := k.cyc + 1 }

/-- A switch: the next cycle is a bubble and the choice follows (R303). -/
def CoreState.switch (k : CoreState) : CoreState := { k with bubble := true, switched := true, sinceSwitch := 0 }

/-! ### What is due on a core before its next cycle -/

/-- An ls operation that finishes in its third cycle, or whose timeout is over on the core that holds its object. -/
def State.lsDueOn (s : State) (core cyc : Nat) : Option Instr :=
  s.wk.ls.findSome? fun o =>
    if s.waitExpired o && clusterBase o.ctx + addrCore o.addr.toNat == core then some (.barWaitTimeout o.id)
    else if coreOf o.ctx == core && o.local && lsDue o ≤ cyc &&
        (o.done.isSome || (o.arrived.isNone && ((s.ctx? o.ctx).map fun x => s.lsMay x o && s.lsReady o).getD false)) then
      some (.lsAccessComplete o.id)
    else none

/-- The matrix operation at the head of a core starts as soon as it may, and retires as soon as its latency is over and its
destination admits it. -/
def State.mxDueOn (s : State) (core cyc : Nat) : Option Instr :=
  match s.mxHead core with
  | none => none
  | some o =>
    match o.start, s.ctx? o.ctx with
    | none, some x => if s.mxReady x o then some (.mxOpStart core) else none
    | some u, some x =>
      if u + mxLatency o ≤ cyc && (o.eff.out.isEmpty || o.eff.out.any (s.granuleFree x o)) then some (.mxOpRetire core) else none
    | _, none => none

def State.rwDueOn (s : State) (core cyc : Nat) : Option Instr :=
  match s.rwOf core with
  | [] => none
  | r :: _ =>
    match s.ctx? r.ctx with
    | some x => if s.rwMay x r cyc then some (.rwCmdComplete core) else none
    | none => none

/-- A mark that a context of the core needs and may take. -/
def State.markDueOn (s : State) (core : Nat) : Option Instr :=
  (List.range 4).findSome? fun h =>
    let c := ctxOf core h
    match s.needsMark c with
    | some m => if s.untranslated c then none else some (if m then .restartMark c else .implicitMark c)
    | none => none

/-- An aged context other than the current one forces a switch (R305). -/
def State.agedDue (s : State) (core : Nat) : Bool :=
  !(s.core core).switched && (List.range 4).any fun h => h != (s.core core).current && 1536 ≤ s.waitedOf (ctxOf core h)

/-- The events that happen before a core's cycle: results, format and codebook writes that are due, finished local
operations, marks and forced switches. -/
def State.coreDue (s : State) (core : Nat) : Option Instr :=
  let k := s.core core
  let ctxs := (List.range 4).filterMap fun h => s.ctx? (ctxOf core h)
  if ctxs.any fun x => x.flights.any fun f => f.due ≤ k.cyc then some (.exposedResultLand core)
  else if ctxs.any fun x => x.r.fmtPend.any fun w => w.due ≤ k.cyc then some (.fmtWriteEffect core)
  else if k.banks.any fun b => b.writes.any fun w => w.due ≤ k.cyc then some (.cbwrVisible core)
  else if k.div.any fun d => d.2.2.2.1 ≤ k.cyc then some (.smDivisionResult core)
  else (s.lsDueOn core k.cyc).orElse fun _ => (s.mxDueOn core k.cyc).orElse fun _ => (s.rwDueOn core k.cyc).orElse fun _ =>
    (s.markDueOn core).orElse fun _ =>
    if s.agedDue core then some (.contextAged core)
    else if !k.switched && 512 ≤ k.sinceSwitch then some (.rotationCountExpiry core)
    else none

/-! ### BUNDLE_ISSUE -/

/-- The number of cores of the package (Table 1.4). -/
def coreCount : Nat := 2304

/-- Whether the current context still has a task to issue. -/
def State.currentAlive (s : State) (core : Nat) : Bool :=
  let c := ctxOf core (s.core core).current
  ((s.ctx? c).map (s.alive c)).getD false

/-- The context that a core issues from in this cycle: the current one, or after a switch the one that R304 chooses. None when the current
one has no task to issue any more: that is a switch, and this cycle its bubble (R303, log entry 106). -/
def State.candidate (s : State) (core : Nat) : Option Nat :=
  if (s.core core).switched then s.choose core
  else if s.currentAlive core then some (s.core core).current else none

/-- A cycle in which context h is current. -/
def State.coreCycle (s : State) (core h : Nat) : State :=
  let c := ctxOf core h
  let k := s.core core
  let since := if k.switched || k.current != h then 0 else k.sinceSwitch
  let s0 := s.modCore core fun q => { q with current := h, switched := false, sinceSwitch := since }
  let stop (t : State) : State := (s.passCycle t core none).modCore core CoreState.switch
  match s.attempt c k.cyc, s.ctx? c with
  | .go b ms, some x =>
    (s.passCycle (s0.issue c k.cyc x b ms) core (some h)).modCore core fun q => { q with sinceSwitch := since + 1 }
  | .take bank load, _ => stop (s0.modCore core fun q => { q with take := some (c, bank, load) })
  | .fault f, some x => stop (s0.takeFault c x.r.pc f)
  | _, _ => stop s0

/-- BUNDLE_ISSUE: one cycle of a core, once nothing is due before it (R303). In a bubble, or with no context ready, the core
issues nothing; else its current context issues, blocks, starts a codebook take or takes a precise fault. -/
def execBundleIssue (core : Nat) (s : State) : Out :=
  if coreCount ≤ core then .fault .noSuchUnit
  else if (s.coreDue core).isSome then .next s
  else if (s.core core).bubble then .next ((s.passCycle s core none).modCore core fun k => { k with bubble := false })
  else match s.candidate core with
  | none => .next ((s.passCycle s core none).modCore core fun k => { k with switched := true, sinceSwitch := 0 })
  | some h => .next (s.coreCycle core h)

end Sys2Proof.Machine
end

