-- ==== Sys2Proof/Machine/CoreClock.lean ====
section
/-! DEFINITION. The events that a core's clock brings: results and format writes that are due (R77, R147, R151), and the two
forced switches (R303, R305). -/
namespace Sys2Proof.Machine
open Sys2Proof

/-- Changes the four contexts of a core. -/
def State.modCtxsOf (s : State) (core : Nat) (f : Ctx → Ctx) : State :=
  (List.range 4).foldl (fun t h => t.modCtx (ctxOf core h) f) s

/-- EXPOSED_RESULT_LAND: the exposed results due by the core's cycle land, in trigger order (R77). -/
def execExposedResultLand (core : Nat) (s : State) : Out :=
  .next (s.modCtxsOf core fun x => x.land (s.core core).cyc)

/-- FMT_WRITE_EFFECT: writes to fmt whose shadow is over take effect, in issue order (R147). -/
def execFmtWriteEffect (core : Nat) (s : State) : Out :=
  .next (s.modCtxsOf core fun x => { x with r := x.r.landFmt (s.core core).cyc })

/-- SM_DIVISION_RESULT: quotient and remainder land together and the divider is free (R151). -/
def execSmDivisionResult (core : Nat) (s : State) : Out :=
  match (s.core core).div with
  | none => .next s
  | some (c, q, qh, due, id) =>
    if due ≤ (s.core core).cyc then
      .next (((s.modCore core fun k => { k with div := none }).deliver c qSm id q).deliver c qSmH id qh)
    else .next s

/-- ROTATION_COUNT_EXPIRY: 512 bundles of the current context force a switch (R303). -/
def execRotationCountExpiry (core : Nat) (s : State) : Out :=
  if !(s.core core).switched && 512 ≤ (s.core core).sinceSwitch then .next (s.modCore core CoreState.switch) else .next s

/-- CONTEXT_AGED: a context ready for 1536 cycles without issuing forces a switch (R305). -/
def execContextAged (core : Nat) (s : State) : Out :=
  if s.agedDue core then .next (s.modCore core CoreState.switch) else .next s

end Sys2Proof.Machine
end

