-- ==== Sys2Proof/Machine/Storage.lean ====
section
/-! DEFINITION. The storage of a tensor as a whole: shoot-downs and dirty state (R323, R324), allocation and release (R118, R119),
compression and expansion (R338), and the copies between H and tier L (R290, R291). -/
namespace Sys2Proof.Machine
open Sys2Proof

/-! ### Leaves of a tensor -/

/-- The leaf of a page of a tensor in 64 KiB terms. -/
def State.pageLeaf? (s : State) (t page : Nat) : Option DWord :=
  (walkTables (s.table 0) t (page * pageBytes)).map fun l =>
    BitVec.ofNat 64 (pteTgt l.1 * 2 ^ 59 + (leafAddr l.1 l.2 (page * pageBytes) - devBase) % 2 ^ 48 / 2 ^ 16 * 2 ^ 16 + l.1.toNat % 2 ^ 8)

/-- The key of the entry that is the leaf of a page in the replica of stack p. -/
def State.leafKey? (s : State) (p t page : Nat) : Option Nat :=
  (s.leaf? p t (page * pageBytes)).map fun l => pteKey t (if l.2 = 29 then 1 else if l.2 = 21 then 2 else 3) (page * pageBytes)

/-- Sets the D bit of a page's leaf in every replica that has one, whatever else the entries hold while an update goes from replica to
replica (R323, R324). -/
def State.setDirty (s : State) (t page : Nat) : State :=
  (List.range 8).foldl (fun u p =>
    match u.leafKey? p t page with
    | some k => u.setPteAt p k ((u.table p).get k 0 ||| 0x80#64)
    | none => u) s

/-- Writes the dirty bits of the TLB entries that a test picks into the tables; drop removes those entries. -/
def State.cleanTlb (s : State) (pick : Nat → TlbEntry → Bool) (drop : Bool) : State :=
  let ds := s.cores.flatMap fun p => p.2.tlb.filter fun e => pick p.1 e && e.dirty
  let s1 := ds.foldl (fun u e => u.setDirty e.tensor e.page) s
  let keep (k : Nat) (e : TlbEntry) : Option TlbEntry :=
    if pick k e then (if drop then none else some { e with dirty := false }) else some e
  { s1 with cores := s1.cores.map fun p => (p.1, { p.2 with tlb := p.2.tlb.filterMap (keep p.1) }) }

/-- The page of a line of a tensor's storage. -/
def linePage (l : Nat) : Nat := storeOff (l * 256) / pageBytes

/-- Tells the guest to drop its cached translations of pages of a tensor, within 2 µs; it may use them until it has acknowledged (R366). -/
def State.shootGuest (s : State) (t : Nat) (hit : Nat → Bool) : State :=
  let g := s.hs.guest
  if g.st = .present ∨ g.st = .preempted then
    let shoot : Shoot := { due := s.pkg.ioTick + 200, pages := g.cached.filter fun c => c.1 == t && hit c.2, segs := [] }
    { s with hs := { s.hs with guest := { g with shoots := g.shoots ++ [shoot] } } }
  else s

/-- A shoot-down of pages of a tensor (R323): dirty bits go to the tables, the entries go, replicas are dropped (R331), and the
guest is told. -/
def State.shootDown (s : State) (t : Nat) (hit : Nat → Bool) : State :=
  let s1 := s.cleanTlb (fun _ e => e.tensor == t && hit e.page) true
  { s1 with ms := { s1.ms with replicas := s1.ms.replicas.filter fun r =>
      !(storeTensor (r.2.1 * 256) == t && hit (linePage r.2.1)) } }.shootGuest t hit

/-- A harvest of every core's dirty state (R324). -/
def State.harvestAll (s : State) : State := s.cleanTlb (fun _ _ => true) false

/-! ### Segments (R322) -/

def State.holdTensor (s : State) (t pages : Nat) : State :=
  { s with ms := { s.ms with heldSegs := s.ms.heldSegs ++ (List.range (ceilDiv pages 32)).map fun k => (t, k) } }

/-- The segments of a tensor that a request's addresses touch. -/
def segsOf (t : Nat) (as : List Nat) : List Nat :=
  ((as.filter fun a => storeTensor a == t).map fun a => storeOff a / 2 ^ 21).eraseDups

/-- The context gates of a state, of placed and of saved contexts. -/
def State.gates (s : State) : List GStore :=
  s.ctxs.flatMap (fun e => e.2.gate) ++
  s.sq.barges.flatMap fun b => (b.save.map fun w => w.ctxs.flatMap fun e => e.2.gate).getD []

/-- The storage addresses of the accesses that count as busy: gv accesses and tile commands that have begun their translation, and stores
that wait in a gate (R322). -/
def State.busyAddrs (s : State) : List Nat :=
  ((s.wk.gv.filter (·.listed)).flatMap s.gvAddrs) ++ ((s.wk.tiles.filter (·.listed)).flatMap s.tileAddrs) ++
  (s.gates.filter fun g => g.isGlobal && g.walked).flatMap fun g => g.cells.map Prod.fst

/-- Whether the busy count of a segment is above 0. -/
def State.segBusy (s : State) (t seg : Nat) : Bool := (segsOf t s.busyAddrs).contains seg

/-- Whether a segment of a tensor has a busy count above 0. -/
def State.tensorBusy (s : State) (t : Nat) : Bool := !(segsOf t s.busyAddrs).isEmpty

/-- The held segments that have moved and wait for the guest's acknowledgement. -/
def State.releasing (s : State) : List (Nat × Nat) := s.hs.guest.shoots.flatMap (·.segs)

/-- Adds held segments to the last of some shoot-downs. -/
def addSegs (hs : List (Nat × Nat)) : List Shoot → List Shoot
  | [] => []
  | [x] => [{ x with segs := x.segs ++ hs }]
  | x :: xs => x :: addSegs hs xs

/-- Ends the hold of segments that have moved: at once, or when the guest has acknowledged the shoot-down (R322, R323). -/
def State.releaseHolds (s : State) (hs : List (Nat × Nat)) : State :=
  let g := s.hs.guest
  if g.shoots.isEmpty then { s with ms := { s.ms with heldSegs := s.ms.heldSegs.filter fun h => !hs.contains h } }
  else { s with hs := { s.hs with guest := { g with shoots := addSegs hs g.shoots } } }

/-- Ends the holds of a tensor. -/
def State.unholdTensor (s : State) (t : Nat) : State := s.releaseHolds (s.ms.heldSegs.filter fun k => k.1 == t)

/-- The guest acknowledges its oldest shoot-down: the translations go, and the holds that waited for it end (R322, R366). -/
def State.shootAcked (s : State) : State :=
  let g := s.hs.guest
  match g.shoots with
  | [] => s
  | x :: xs =>
    { s with ms := { s.ms with heldSegs := s.ms.heldSegs.filter fun h => !x.segs.contains h || (xs.flatMap (·.segs)).contains h },
             hs := { s.hs with guest := { g with shoots := xs, cached := g.cached.filter fun c => !x.pages.contains c } } }

/-- A guest that is gone owes no acknowledgement. -/
def State.shootsOver (s : State) : State := s.hs.guest.shoots.foldl (fun u _ => u.shootAcked) s

/-- Whether the table-update engine may begin another update: none stands between its first replica write and its last
acknowledgement (R323). -/
def State.updateFree (s : State) : Bool := s.hs.guest.shoots.isEmpty && !s.hs.tuQueue.any fun u => u.stack != 0

/-! ### Compressed blocks -/

/-- A die's overflow reserve shrinks to its register: pages at or above it with no slot in use leave the reserve (R340). -/
def State.trimReserve (s : State) (v : Nat) : State :=
  let gone := s.ms.reserve.filter fun r =>
    r.1 == v && (s.die v).cmResv ≤ r.2.1 && !s.ms.overflow.any fun o => o.1 == v && o.2.1 / 16 == r.2.1
  gone.foldl (fun u r => u.dropFrame r.2.2) { s with ms := { s.ms with reserve := s.ms.reserve.filter fun r => !gone.contains r } }

/-- Forgets the compressed form of the blocks that a test picks: tags, block map, allotments; their slots return to the reserve
(R340). -/
def State.forgetBlocks (s : State) (v : Nat) (pick : Nat → Bool) : State :=
  { s with ms := { s.ms with tags := s.ms.tags.filter fun e => !pick (e.1 / 32),
                             badTags := s.ms.badTags.filter fun e => !pick (e.1 / 32),
                             bmaps := s.ms.bmaps.filter fun e => !pick e.1,
                             allots := s.ms.allots.filter fun e => !pick e.1,
                             overflow := s.ms.overflow.filter fun o => !pick o.2.2 } }.trimReserve v

/-- The tensor of a block, and its page there. -/
def blockTensor (bk : Nat) : Nat := storeTensor (bk * 4096)
def blockPage (bk : Nat) : Nat := storeOff (bk * 4096) / pageBytes

/-- Forgets the compressed form of a tensor, with the list of its retained frames. -/
def State.dropBlocks (s : State) (t : Nat) : State :=
  let s1 := s.forgetBlocks (t / 2 ^ 20) fun bk => blockTensor bk == t
  { s1 with ms := { s1.ms with packs := s1.ms.packs.erase t } }

/-! ### Release and allocation -/

/-- H storage was released on a die: the barges that wait there for a save area ask again (R312). -/
def State.noteRelease (s : State) (v : Nat) : State :=
  let here (b : Nat) : Bool := ((s.barge? b).map fun g => g.die == v).getD true
  { s with sq := { s.sq with retryList := s.sq.retryList.map fun e => (e.1, e.2 || here e.1) } }

/-- The leaf of a page that has a frame or a tier-L page of its own: it is present and not compressed. -/
def State.ownLeaf? (s : State) (t k : Nat) : Option DWord := (s.pageLeaf? t k).filter fun e => !pteC e
/-- The leaf of a page that has a frame of its own. -/
def State.ownFrame? (s : State) (t k : Nat) : Option Nat :=
  ((s.ownLeaf? t k).filter fun e => pteTgt e != 16).map fun e => pteTgt e * 2 ^ 20 + ptePa e / pageBytes
/-- The compressed pages of a tensor, in ascending order. -/
def State.compPages (s : State) (t pages : Nat) : List Nat :=
  (List.range pages).filter fun k => ((s.pageLeaf? t k).map pteC).getD false
/-- The frames that a tensor holds: its pages' own, and those of its retained pages. -/
def State.packFrames (s : State) (t : Nat) : List Nat := (s.ms.packs.get t []).filterMap id
def State.framesOf (s : State) (t pages : Nat) : List Nat := (List.range pages).filterMap (s.ownFrame? t) ++ s.packFrames t
/-- The frames that the expansion of a tensor asks for (R292): one for each compressed page beyond the retained ones. -/
def State.expandNeed (s : State) (t pages : Nat) : Nat := (s.compPages t pages).length - (s.packFrames t).length

/-- Releases the frames and the tier-L pages of a tensor. -/
def State.releasePages (s : State) (t pages : Nat) : State :=
  ((List.range pages).filterMap (s.ownLeaf? t)).foldl State.releaseLeaf ((s.packFrames t).foldl State.dropFrame s)

/-- Gives up the updates of a tensor that the table-update engine has not completed, with the frames that their entries alone map. -/
def State.dropUpdates (s : State) (t : Nat) : State :=
  let mine := s.hs.tuQueue.filter fun u => u.tensor == t
  let frames := mine.flatMap fun u => u.pages.filter fun p => !pteC p.2 && (pteV p.2 == (u.stack == 0))
  let s1 := (frames.map Prod.snd).foldl State.releaseLeaf s
  { s1 with hs := { s1.hs with tuQueue := s1.hs.tuQueue.map fun u => if u.tensor = t then { u with pages := [] } else u } }

/-- The address of a poison mark belongs to a tensor's storage. -/
def markTensor (k : Nat) : Nat := ((k - devBase) * 64 - 2 ^ 70) / 2 ^ 45
def isLogicalMark (k : Nat) : Bool := devBase + 2 ^ 64 ≤ k

/-- Releases a tensor's storage (R119): its pages, its table entries, and every copy of its bytes. -/
def State.releaseStorage (s : State) (t : Nat) : State :=
  match s.rec? t with
  | none => s
  | some r =>
    let s1 := ((s.dropUpdates t).releasePages t r.pages).shootDown t fun _ => true
    let s2 : State := { s1 with
      ms := { s1.ms with
        tables := s1.ms.tables.map fun m => m.filter fun e => e.1 / 2 ^ 31 != t,
        l2 := s1.ms.l2.filter fun e => e.1 / 2 ^ 37 != t,
        versions := s1.ms.versions.filter fun e => e.1 / 2 ^ 37 != t,
        held := s1.ms.held.filterMap fun h =>
          let bs := h.bytes.filter fun c => storeTensor c.1 != t
          if bs.isEmpty then none else some { h with bytes := bs } },
      memPoi := s1.memPoi.filter fun e => !(isLogicalMark e.1 && markTensor e.1 == t) }
    let s3 := ((s2.dropBlocks t).unholdTensor t).modRec t fun q => { q with stored := false, st := .drop }
    (if r.live then s3 else s3.dropSegment t).noteRelease (t / 2 ^ 20)

/-- Takes n zero-filled frames of the home die for the pages of a tensor from page k on; writes are permitted. -/
def State.allocPages (s : State) (t : Nat) (r : Rec) : Nat → Nat → Option State
  | _, 0 => some s
  | k, n + 1 =>
    match s.takeFrame (t / 2 ^ 20) 3 with
    | some (f, s1) => (s1.setLeaf t k (leafOf (f / 2 ^ 20) (f % 2 ^ 20 * pageBytes) r true false)).allocPages t r (k + 1) n
    | none => none

/-- Blocked padding reads as the pad value: the places of blocked storage that hold no element (R118). -/
def Rec.padBytes (r : Rec) : List (Nat × Byte) :=
  if r.linear || r.pad.toNat % 2 ^ r.width == 0 then []
  else
    let n := roundUp r.d0 32 * roundUp r.d1 32 * r.d2 * r.d3
    let blockBits := 8 * (128 * r.width + (if isMx r.fmt then 32 else 0))
    let elem (e : Nat) : Option (Nat × Nat) :=
      let row := e / roundUp r.d0 32
      let col := e % roundUp r.d0 32
      if r.d0 ≤ col ∨ r.d1 ≤ row % roundUp r.d1 32 then
        some (blockBits * (row / 32 * (roundUp r.d0 32 / 32) + col / 32) + (32 * (row % 32) + col % 32) * r.width, r.pad.toNat)
      else none
    ((List.range n).filterMap elem).foldl (fun m p => putBits (fun _ => 0) m p.1 r.width p.2) []

/-- Fresh storage for a tensor in H of its home die: its segment-table entry, zero-filled pages, and the pad value in the places that
hold no element. -/
def State.allocStorage (s : State) (t : Nat) : State :=
  match s.rec? t with
  | none => s
  | some r =>
    let s1 := s.setSegment t (r.pages * pageBytes)
    let s2 := ((s1.allocPages t r 0 r.pages).getD s1).modRec t fun q => { q with stored := true }
    s2.setCells (r.padBytes.map fun c => ((s2.place? t c.1).getD devBase, c.2))

/-! ### Whole pages -/

def State.readPage (s : State) (t page : Nat) : List (Byte × Bool) :=
  (List.range pageBytes).map fun i => s.memoryByte (storeAddr t (page * pageBytes + i))

/-- Marks found on the way stay with the data of a page that moves. -/
def State.markPage (s : State) (t page : Nat) (bs : List (Byte × Bool)) : State :=
  ((listFrom (storeAddr t (page * pageBytes)) (bs.map fun b => if b.2 then 1#8 else 0#8)).filter fun c => c.2 != 0).foldl
    (fun u c => u.setPoison (logicalMark c.1) true) s

/-- Writes a page of a tensor at a device address. -/
def State.writePage (s : State) (t page base : Nat) (bs : List (Byte × Bool)) : State :=
  (s.setBytes base (bs.map Prod.fst)).markPage t page bs

/-- The leaf of a page moved to another place: its other bits stay. -/
def movedLeaf (old : DWord) (tgt pa : Nat) (c : Bool) : DWord :=
  BitVec.ofNat 64 (tgt * 2 ^ 59 + pa / 2 ^ 16 % 2 ^ 32 * 2 ^ 16 + (old.toNat % 2 ^ 8 - bitIf (pteC old) 6) + bitIf c 6)

/-- Writes back every line of a tensor (R289, R339). -/
def State.writeBackAll (s : State) (t : Nat) : State :=
  (s.ms.l2.filter fun e => e.1 / 2 ^ 37 == t).foldl (fun u e => (u.writeBack e.1).getD u) s

/-- Packs one block at byte loc of a tensor's retained pages; gives the end of its allotment (R338). -/
def State.packBlock (s : State) (t loc bk : Nat) (bs : List Byte) : State × Nat :=
  let gs := (List.range 32).map fun g => (bs.drop (128 * g)).take 128
  let packed := gs.flatMap fun g => granuleBytes (granuleTag g) g
  let s1 := s.setCells ((listFrom 0 packed).map fun c => (s.retainedAddr t (loc + c.1), c.2))
  let allot := roundUp packed.length 32
  ({ s1 with ms := { s1.ms with
      tags := (listFrom (bk * 32) (gs.map fun g => BitVec.ofNat 8 (granuleTag g))).foldl (fun m c => m.set c.1 (c.2.setWidth 4) 0) s1.ms.tags,
      badTags := s1.ms.badTags.filter fun e => e.1 / 32 != bk,
      bmaps := s1.ms.bmaps.set bk (BitVec.ofNat 32 (loc / 32)) 0,
      allots := s1.ms.allots.set bk allot 0 } }, loc + allot)

/-- Compresses the storage of a tensor in place (R338): COMP_H. The blocks are those of its pages in H; a page that is not present has
none, and one in tier L carries no tags (R290, log entry 54). -/
def State.compressStorage (s : State) (t : Nat) : State :=
  match s.rec? t with
  | none => s
  | some r =>
    let s1 := s.writeBackAll t
    let ks := (List.range r.pages).filter fun k => (s1.ownFrame? t k).isSome
    let frames := ks.filterMap (s1.ownFrame? t)
    let data := ks.map fun k => (k, s1.readPage t k)
    let s2 := frames.foldl (fun u f => u.zeroFill (frameAddr f) pageBytes) s1
    let s3 : State := { s2 with ms := { s2.ms with packs := s2.ms.packs.put t (frames.map some) } }
    let s4 := data.foldl (fun u d => u.markPage t d.1 d.2) s3
    let blocks := data.flatMap fun d => (List.range 16).map fun i =>
      (blockKey (storeAddr t (d.1 * pageBytes)) + i, ((d.2.drop (4096 * i)).take 4096).map Prod.fst)
    let p := blocks.foldl (fun (u : State × Nat) b => u.1.packBlock t u.2 b.1 b.2) (s4, 0)
    let kept := ceilDiv p.2 pageBytes
    let s5 := (frames.drop kept).foldl State.dropFrame p.1
    let s6 : State := { s5 with ms := { s5.ms with packs := s5.ms.packs.put t ((frames.take kept).map some) } }
    let s7 := ks.foldl (fun u k => u.setLeaf t k (((u.pageLeaf? t k).getD 0) ||| 0x40#64)) s6
    ((s7.shootDown t fun _ => true).modRec t fun q => { q with st := .compH }).noteRelease (t / 2 ^ 20)

/-- Lays expanded pages out again, in frames that the tensor retained and then in new ones. -/
def State.expandPages (s : State) (t : Nat) : List Nat → List (Nat × List (Byte × Bool)) → State
  | fs, [] => fs.foldl State.dropFrame s
  | fs, d :: rest =>
    let e := (s.pageLeaf? t d.1).getD 0
    let lay (u : State) (f : Nat) : State :=
      (u.writePage t d.1 (frameAddr f) d.2).setLeaf t d.1 (movedLeaf e (f / 2 ^ 20) (f % 2 ^ 20 * pageBytes) false)
    match fs with
    | f :: fs' => (lay (s.zeroFill (frameAddr f) pageBytes) f).expandPages t fs' rest
    | [] => match s.takeFrame (t / 2 ^ 20) 3 with
      | some (f, s1) => (lay s1 f).expandPages t [] rest
      | none => s.expandPages t [] rest

/-- Expands the storage of a tensor in COMP_H: RES_H. The pages it needs are free. -/
def State.expandStorage (s : State) (t : Nat) : State :=
  match s.rec? t with
  | none => s
  | some r =>
    let data := (s.compPages t r.pages).map fun k => (k, s.readPage t k)
    (((s.dropBlocks t).expandPages t (s.packFrames t) data).shootDown t fun _ => true).modRec t fun q => { q with st := .resH }

/-- Drops the compressed blocks of a page that is unmapped, and the retained frames in which no other block has its allotment
(R357). -/
def State.dropPageBlocks (s : State) (t page : Nat) : State :=
  let s1 := s.forgetBlocks (t / 2 ^ 20) fun bk => blockTensor bk == t && blockPage bk == page
  let used (j : Nat) : Bool := s1.ms.allots.any fun e =>
    blockTensor e.1 == t && (let m := (s1.ms.bmaps.get e.1 0).toNat
      m < 2 ^ 31 && m * 32 / pageBytes ≤ j && j ≤ (m * 32 + e.2 - 1) / pageBytes)
  (List.range (s1.ms.packs.get t []).length).foldl (fun u j =>
    match u.packFrame t j with
    | some f => if used j then u else
        { u with ms := { u.ms with packs := u.ms.packs.mod t fun l => l.set j none } }.dropFrame f
    | none => u) s1

/-- Moves present pages to new places: tier L, or frames of the home die. -/
def State.placePages (s : State) (t : Nat) (toL : Bool) : Nat → List (Option (DWord × List (Byte × Bool))) → State
  | _, [] => s
  | k, none :: rest => s.placePages t toL (k + 1) rest
  | k, some (e, bs) :: rest =>
    if toL then
      match s.takeTl with
      | some (p, s1) => ((s1.writePage t k (devBase + 16 * 2 ^ 48 + p * pageBytes) bs).setLeaf t k
          (movedLeaf e 16 (p * pageBytes) false)).placePages t toL (k + 1) rest
      | none => s.placePages t toL (k + 1) rest
    else
      match s.takeFrame (t / 2 ^ 20) 3 with
      | some (f, s1) => ((s1.writePage t k (frameAddr f) bs).setLeaf t k
          (movedLeaf e (f / 2 ^ 20) (f % 2 ^ 20 * pageBytes) false)).placePages t toL (k + 1) rest
      | none => s.placePages t toL (k + 1) rest

/-- Copies a whole tensor to tier L or to H, expanded, and releases the pages it leaves (R290, R291). -/
def State.moveStorage (s : State) (t : Nat) (toL : Bool) : State :=
  match s.rec? t with
  | none => s
  | some r =>
    let data := (List.range r.pages).map fun k => (s.pageLeaf? t k).map fun e => (e, s.readPage t k)
    let s2 := (((s.releasePages t r.pages).dropBlocks t).placePages t toL 0 data).shootDown t fun _ => true
    if toL then s2.noteRelease (t / 2 ^ 20) else s2

end Sys2Proof.Machine
end

