-- ==== Sys2Proof/Machine/Residency.lean ====
section
/-! DEFINITION. The residency engine (R286 to R293, R300): distance, the near pool, requests for H, victim selection, spills and
fetches, and the overflow reserve (R340). -/
namespace Sys2Proof.Machine
open Sys2Proof

def State.recsOn (s : State) (v : Nat) : List (Nat × Rec) := s.sq.recs.filter fun p => p.1 / 2 ^ 20 == v

/-! ### Distance (R287) -/

def noUse : Nat := 2 ^ 64 - 1
def State.ordinalOf (s : State) (sid : Nat) : Nat := ((s.stream? sid).map (·.ordinal)).getD 0

/-- The next-use distance, none for a dead tensor. A tensor whose list is exhausted is dead under the hint early too (DESIGN CHOICE, log entry
127). -/
def State.distance (s : State) (r : Rec) : Option Nat :=
  match r.use, r.nextUse with
  | none, _ => some noUse
  | some _, none => none
  | some u, some o => some (if r.hint = 2 then noUse else o - s.ordinalOf u.sid)

/-- A record with its use position moved past every ordinal below n. -/
def Rec.advanceUse (r : Rec) (lists : List (List Nat)) (n : Nat) : Rec :=
  match r.use with
  | none => r
  | some u =>
    let l := lists.getD u.list []
    let pos := u.pos + ((l.drop u.pos).takeWhile fun o => o < n).length
    { r with use := some { u with pos := pos }, nextUse := l[pos]? }

/-- The engine advances the use positions of a stream's tensors at its dispatch (R287). -/
def State.advanceUses (s : State) (sid : Nat) : State :=
  let lists := ((s.stream? sid).bind (·.image.uses)).getD []
  let n := s.ordinalOf sid
  { s with sq := { s.sq with recs := s.sq.recs.map fun p =>
      (p.1, if (p.2.use.map fun u => u.sid == sid).getD false then p.2.advanceUse lists n else p.2) } }

/-! ### The near pool (R289) -/

/-- Pages of the near pool of a die: 16 MiB a way. -/
def State.nearCap (s : State) (v : Nat) : Nat := (s.die v).nearw * 256
def State.nearOn (s : State) (v : Nat) : List (Nat × Rec) := (s.recsOn v).filter fun p => p.2.st == .near
def State.nearUsed (s : State) (v : Nat) : Nat := sumNats ((s.nearOn v).map fun p => p.2.pages)

/-- Demotion: the near-pool lines are written back. -/
def State.demote (s : State) (t : Nat) : State := (s.writeBackAll t).modRec t fun r => { r with st := .resH }

/-- Descending distance, the lowest index on a tie. -/
def farFirst (a b : Nat × Nat) : Bool := b.1 < a.1 || (a.1 == b.1 && a.2 < b.2)

/-- NEAR tensors of a die in the order of demotion: the dead by index, then the others beyond a distance. -/
def State.demoteOrder (s : State) (v : Nat) (beyond : Option Nat) : List Nat :=
  let near := s.nearOn v
  let dead := near.filterMap fun p => if (s.distance p.2).isNone then some p.1 else none
  let rest := near.filterMap fun p => (s.distance p.2).bind fun d =>
    if (beyond.map fun b => decide (b < d)).getD true then some (d, p.1) else none
  dead ++ (sortBy farFirst rest).map Prod.snd

/-- The first tensors of a list whose pages make room for a need. -/
def State.enough (s : State) : Nat → List Nat → List Nat
  | _, [] => []
  | need, t :: ts => if need = 0 then [] else t :: s.enough (need - ((s.rec? t).map (·.pages)).getD 0) ts

/-- Promotion of a parameter at a dispatch (R289). One whose use list is exhausted has no distance: under the hint near it is promoted
too, and no tensor but a dead one makes room for it (DEDUCED: no distance exceeds one that is undefined). -/
def State.promote (s : State) (t : Nat) : State :=
  match s.rec? t with
  | none => s
  | some r =>
    let v := t / 2 ^ 20
    let d := (s.distance r).getD noUse
    if r.st = .resH && r.live && (r.hint = 1 || (s.distance r).any fun d => d ≤ (s.die v).neard.toNat) then
      let out := s.enough (s.nearUsed v + r.pages - s.nearCap v) (s.demoteOrder v (some d))
      let room := sumNats (out.map fun k => ((s.rec? k).map (·.pages)).getD 0)
      if s.nearUsed v + r.pages ≤ s.nearCap v + room then
        (out.foldl State.demote s).modRec t fun q => { q with st := .near }
      else s
    else s

/-- CST_NEARW_WRITE: a value up to 8 is taken; lowering the pool demotes until the rest fit (R289). -/
def execCstNearwWrite (v : Nat) (val : BitVec 32) (s : State) : Out :=
  let n := val.toNat % 16
  if s.pkg.recovery ∨ 8 ≤ v ∨ 8 < n then .next s
  else
    let s1 := s.modDie v fun d => { d with nearw := n }
    .next ((s1.enough (s1.nearUsed v - s1.nearCap v) (s1.demoteOrder v none)).foldl State.demote s1)

/-! ### Requests for H (R292) -/

/-- The slot of the next table-update request (R357). -/
def State.tuSlot (s : State) : TuSlot :=
  s.hs.tu.get (s.hs.tuDone.toNat % 64) { kind := 0, status := 0, handle := 0, first := 0, count := 0, arg := 0 }

/-- The MIGRATE request that the table-update engine is performing: tensor, first page, pages, and whether to tier L. -/
def State.migrating (s : State) : Option (Nat × Nat × Nat × Bool) :=
  let q := s.tuSlot
  if s.hs.tuBusy ∧ q.kind = 4 then some (handleKey q.handle, q.first, q.count, q.arg == 1) else none

/-- The pages that this request has still to move to tier L, or to H of die v. -/
def State.leftToMove (s : State) (toL : Bool) (v : Nat) : Nat :=
  match s.migrating with
  | some (t, first, count, l) =>
    if l != toL || (!toL && t / 2 ^ 20 != v) then 0
    else ((List.range count).filter fun k =>
      ((s.pageLeaf? t (first + k)).map fun e => if toL then decide (pteTgt e < 16) else pteTgt e == 16).getD false).length
  | none => 0

/-- H that granted requests, fetches and a MIGRATE on their way, save areas and the copies of kernel images (R352) of a die take. -/
def State.promisedH (s : State) (v : Nat) : Nat :=
  sumNats ((s.sq.allocs.filter fun q => q.die == v && q.granted).map (·.pages)) +
  sumNats (((s.recsOn v).filter fun p => p.2.st == .moving && !p.2.toL).map fun p => p.2.pages) +
  sumNats ((s.sq.barges.filter fun b => b.die == v).map fun b => (b.save.map (·.pages)).getD 0) +
  sumNats (s.sq.kernels.map fun k => ceilDiv k.size pageBytes) + s.leftToMove false v
def State.availH (s : State) (v : Nat) : Nat := s.freeH v - s.promisedH v
/-- Tier L that launches which may yet fault have to give back to outputs that were in SPILL_L (R111). -/
def State.owedL (s : State) : Nat :=
  let owed (us : List Undo) : Nat := sumNats ((us.filter fun u => u.was.st == .spillL).map fun u => u.was.pages)
  sumNats (s.sq.ops.map fun o => owed o.undo) + sumNats (s.sq.streams.map fun p => owed p.2.undo)
/-- Free tier L, less what spills and a MIGRATE on their way take, and what may have to be given back. -/
def State.availL (s : State) : Nat :=
  s.freeL - sumNats ((s.sq.recs.filter fun p => p.2.st == .moving && p.2.toL).map fun p => p.2.pages) - s.leftToMove true 0 - s.owedL

def State.addAlloc (s : State) (q : AllocReq) : State := { s with sq := { s.sq with allocs := s.sq.allocs ++ [q] } }
def State.modAlloc (s : State) (id : Nat) (f : AllocReq → AllocReq) : State :=
  { s with sq := { s.sq with allocs := s.sq.allocs.map fun q => if q.id = id then f q else q } }
def State.dropAlloc (s : State) (id : Nat) : State := { s with sq := { s.sq with allocs := s.sq.allocs.filter fun q => q.id != id } }
def State.dropAllocsOf (s : State) (who : Asker) : State :=
  { s with sq := { s.sq with allocs := s.sq.allocs.filter fun q => q.who != who } }
def State.allocOf (s : State) (who : Asker) (t : Option Nat) : Option AllocReq :=
  s.sq.allocs.find? fun q => q.who == who && q.tensor == t

/-- Asks for pages of H on a die: granted at once when no earlier request of the die waits and free H covers it. Gives the
ticket of a request that waits. -/
def State.askH (s : State) (v pages : Nat) (who : Asker) (t : Option Nat) (minDist : Option Nat) : Option Nat × State :=
  match s.allocOf who t with
  | some q => (if q.granted then none else some q.id, s)
  | none =>
    let now := !(s.sq.allocs.any fun q => q.die == v && !q.granted) && pages ≤ s.availH v
    let (id, s1) := s.ticket
    (if now then none else some id,
      s1.addAlloc { id := id, die := v, pages := pages, who := who, tensor := t, minDist := minDist, granted := now, spills := [] })

/-! ### Costs and choice (R293, R295) -/

/-- Whether a tensor may be a victim. -/
def State.eligible (s : State) (t : Nat) (r : Rec) : Bool :=
  r.live && (r.st == .near || r.st == .resH || r.st == .compH) && r.pin == 0 && r.busy == 0 && !r.ver && !r.msa &&
  !s.ms.heldSegs.any fun k => k.1 == t

def State.recipeInputs (s : State) (q : Recipe) : List Word :=
  ((s.stream? q.sid).bind fun x => (x.frames.find q.frame).map (·.inputs)).getD []

/-- The chain depth of a tensor's recipe (R295), up to a bound on the search. -/
def State.chainDepth (s : State) : Nat → Nat → Nat
  | 0, _ => 9
  | fuel + 1, t =>
    match (s.rec? t).bind (·.recipe) with
    | none => 9
    | some q =>
      if !s.recipeValid q then 9
      else 1 + (s.recipeInputs q).foldl (fun m h =>
        match s.live? h with
        | some r => if r.st = .drop then max m (s.chainDepth fuel (handleKey h)) else m
        | none => m) 0

inductive Victim where
  | compress | spill | drop
  deriving DecidableEq, Repr

/-- The available options of a tensor with their costs in 1/256 cycle (Table 19.3). -/
def State.options (s : State) (t : Nat) (r : Rec) : List (Nat × Victim) :=
  let d := s.die (t / 2 ^ 20)
  let size := r.pages * 64
  (if r.st != .compH && r.hint != 4 && d.floor.toNat * 256 ≤ size * (256 - r.comp) then
    [(size * d.comp.toNat * 256, Victim.compress)] else []) ++
  (if r.hint != 5 && r.pages ≤ s.availL then [(size * d.spill.toNat * 256, Victim.spill)] else []) ++
  (if r.hint != 3 && s.validRecipe r && s.chainDepth 10 t ≤ d.depth then [(r.est * d.rcmp.toNat, Victim.drop)] else [])

/-- The cheapest option; compress, spill, drop on a tie. -/
def cheapest : List (Nat × Victim) → Option (Nat × Victim)
  | [] => none
  | o :: os => match cheapest os with
    | some p => some (if p.1 < o.1 then p else o)
    | none => some o

/-- A tensor leaves H for DROP at once (R293). -/
def State.dropTensor (s : State) (t : Nat) : State := (s.releaseStorage t).modRec t fun r => { r with st := .drop }

/-- A spill begins: the tensor is in MOVING and its segments are held. -/
def State.startSpill (s : State) (t : Nat) : State :=
  match s.rec? t with
  | none => s
  | some r =>
    let s1 := if r.st = .near then s.demote t else s
    (s1.holdTensor t r.pages).modRec t fun q => { q with st := .moving, toL := true }

/-- H that the spills of a selection will release. -/
def State.inFlight (s : State) (ts : List Nat) : Nat :=
  sumNats (ts.map fun t => ((s.rec? t).map fun r => if r.st = .moving && r.toL then (s.framesOf t r.pages).length else 0).getD 0)

/-- Takes victims in order until free H, with the spills started, covers the request. -/
def State.takeVictims (s : State) (v pages : Nat) : List Nat → List Nat → State × List Nat
  | spills, [] => (s, spills)
  | spills, t :: ts =>
    if pages ≤ s.availH v + s.inFlight spills then (s, spills)
    else
      match s.rec? t with
      | none => s.takeVictims v pages spills ts
      | some r =>
        if (s.distance r).isNone then (s.dropTensor t).takeVictims v pages spills ts
        else
          match cheapest (s.options t r) with
          | none => s.takeVictims v pages spills ts
          | some (_, .compress) =>
            ((if r.st = .near then s.demote t else s).compressStorage t).takeVictims v pages spills ts
          | some (_, .spill) => (s.startSpill t).takeVictims v pages (t :: spills) ts
          | some (_, .drop) => (s.dropTensor t).takeVictims v pages spills ts

/-- The eligible tensors of a die in order (R293), those beyond a distance only when one is given (R291). -/
def State.victimOrder (s : State) (v : Nat) (beyond : Option Nat) : List Nat :=
  let es := (s.recsOn v).filter fun p => s.eligible p.1 p.2
  let dead := es.filterMap fun p => if (s.distance p.2).isNone then some p.1 else none
  let rest := es.filterMap fun p => (s.distance p.2).bind fun d =>
    if (beyond.map fun b => decide (b < d)).getD true then some (d, p.1) else none
  dead ++ (sortBy farFirst rest).map Prod.snd

/-! ### Replays that fail (R298) -/

/-- Whether a running operation has a tensor among its parameters. -/
def State.opUses (s : State) (t : Nat) : Bool :=
  s.sq.ops.any fun o => !o.done && o.params.any fun p => !isDiscard p.1 && handleKey p.1 == t

/-- Releases what a record no longer needs: a freed record's storage at busy count 0 (R119), and a dropped tensor's that a failed
replay left to running operations. -/
def State.settle (s : State) (t : Nat) : State :=
  match s.rec? t with
  | none => s
  | some r =>
    let used := s.opUses t || s.sq.replays.any fun q => q.bound_.contains t
    if r.stored && !used && ((!r.live && r.busy == 0) || r.st == .drop) then s.releaseStorage t else s

def State.raiseBusy (s : State) (t : Nat) : State := s.modRec t fun r => { r with busy := r.busy + 1 }
def State.lowerBusy (s : State) (t : Nat) : State := (s.modRec t fun r => { r with busy := r.busy - 1 }).settle t
def State.lowerAll (s : State) (ts : List Nat) : State := ts.foldl State.lowerBusy s

def State.replay? (s : State) (id : Nat) : Option ReplayRun := s.sq.replays.find? fun r => r.id == id
def State.modReplay (s : State) (id : Nat) (f : ReplayRun → ReplayRun) : State :=
  { s with sq := { s.sq with replays := s.sq.replays.map fun r => if r.id = id then f r else r } }

/-- A suspended stream instruction learns that its wait has failed, and with what code and value. -/
def State.failStreams (s : State) (w : SWait) (code value : Nat) : State :=
  { s with sq := { s.sq with streams := s.sq.streams.map fun p =>
      (p.1, if p.2.st == .blocked && p.2.wait == w then { p.2 with failed := some (code, value) } else p.2) } }

/-- A replay fails, with every caller of its chain: what they had set to REBUILD returns to DROP, and the originating
instruction or context takes the fault. fuel bounds the chain by R297's depth. -/
def State.failReplay (s : State) : Nat → Nat → Nat → Nat → State
  | 0, _, _, _ => s
  | fuel + 1, id, code, value =>
    match s.replay? id with
    | none => s
    | some r =>
      let s1 : State := { s with sq := { s.sq with replays := s.sq.replays.filter fun q => q.id != id } }
      let s2 := ((s1.dropAllocsOf (.replay id)).lowerAll r.raised)
      let s3 := r.bound_.foldl (fun u t => (u.modRec t fun q => if q.st = .rebuild then { q with st := .drop } else q).settle t) s2
      match r.parent, r.ctx with
      | some p, _ => s3.failReplay fuel p code value
      | none, some c => s3.resolved c false
      | none, none => s3.failStreams (.replay id) code value

/-! ### VICTIM_SELECTION -/

def maxChain : Nat := 16

/-- An error record of a stream's operation, which stops nothing (R124, R130). -/
def State.streamNote (s : State) (sid pc cls code value : Nat) : State :=
  s.post (streamRecord sid pc { cls := cls, code := code, flags := flSequencer + flRecord, slot := 0xff, subcode := 0, bno := pc,
                                value := value }) .nothing

/-- A task on a core or a die that is lost ends, with its store gate discarded and a POISON record posted (R379, R380). -/
def State.endTask (s : State) (core pid : Nat) : State :=
  match s.member? pid with
  | none => s
  | some x =>
    if x.halted then s
    else
      let f : FaultInfo :=
        { cls := 11, code := 0xb0, flags := flRecord, slot := 0xff, subcode := 1, bno := x.r.pc, value := core }
      (((s.post (s.recordOf pid x.r.pc f) .nothing).endMember pid).modMember pid fun y => { y with gate := [] })

/-- Ends every task of a barge. -/
def State.endBarge (s : State) (b : Barge) : State :=
  (List.range b.ctxs.length).foldl (fun t i => t.endTask (coreOf (b.ctxs.getD i 0)) (b.id * 2 ^ 10 + i)) s

/-- Whether a virtual die is moving off a fenced stack (R380). -/
def State.moving (s : State) (v : Nat) : Bool := (s.pkg.copying.find v).isSome

/-- A request that victim selection cannot cover fails with TIER_FULL (R293); an abandoned fetch leaves the tensor where it is
(R291), and a save area is given up or, for a suspension by the host, tried again later (R312). -/
def State.failAlloc (s : State) (q : AllocReq) : State :=
  let s1 := s.dropAlloc q.id
  let bytes := q.pages * pageBytes
  match q.who with
  | .stream sid => s1.modStream sid fun x => { x with failed := some (0x91, bytes) }
  | .replay id => s1.failReplay maxChain id 0x91 bytes
  | .fetch t => s1.failStreams (.fetch t) 0x91 bytes
  | .op id => s1.modOp id fun o => { o with tierFull := some bytes }
  | .reserve => s1
  | .save b =>
    let s2 := s1.modBarge b fun g => { g with saveBy := none }
    match s.barge? b with
    | none => s2
    | some g =>
      if s.moving g.die then s2.endBarge g
      else if (((s.op? g.op).bind fun o => s.stream? o.sid).map (·.susp)).getD false then
        { s2 with sq := { s2.sq with retryList := s2.sq.retryList ++ [(b, false)] } } else s2

/-- One selection for a request: it is granted, or waits for its spills, or fails. -/
def State.select (s : State) (q : AllocReq) : State :=
  let covered (t : State) : Bool := decide (q.pages ≤ t.availH q.die)
  if covered s then s.modAlloc q.id fun a => { a with granted := true }
  else if q.pages ≤ s.availH q.die + s.inFlight q.spills then s
  else
    let p := s.takeVictims q.die q.pages q.spills (s.victimOrder q.die q.minDist)
    let s1 := p.1.modAlloc q.id fun a => { a with spills := p.2 }
    if covered s1 then s1.modAlloc q.id fun a => { a with granted := true }
    else if q.pages ≤ s1.availH q.die + s1.inFlight p.2 then s1
    else s1.failAlloc q

/-- VICTIM_SELECTION: the earliest request of a die that is not granted is served. -/
def execVictimSelection (v : Nat) (s : State) : Out :=
  match s.sq.allocs.find? fun q => q.die == v && !q.granted with
  | some q => .next (s.select q)
  | none => .next s

/-- SPILL_COPY_COMPLETE: once no access and no other table update is under way the copy is complete, the H storage is released and the tensor is in
SPILL_L. -/
def execSpillCopyComplete (t : Nat) (s : State) : Out :=
  match s.rec? t with
  | some r =>
    if r.stored ∧ r.st = .moving ∧ r.toL ∧ !s.tensorBusy t ∧ s.updateFree then
      .next (((s.moveStorage t true).unholdTensor t).modRec t fun q => { q with st := .spillL, toL := false })
    else .next s
  | none => .next s

/-! ### Fetches (R291) -/

/-- Asks for the H storage of a fetch: by distance or notification it takes only victims farther than the tensor; a tpin
takes any. -/
def State.askFetch (s : State) (t : Nat) (pin : Bool) : State :=
  match s.rec? t with
  | none => s
  | some r =>
    if r.st ≠ .spillL then s
    else
      match s.allocOf (.fetch t) (some t) with
      | some q => if pin then s.modAlloc q.id fun a => { a with minDist := none } else s
      | none => (s.askH (t / 2 ^ 20) r.pages (.fetch t) (some t) (if pin then none else some ((s.distance r).getD noUse))).2

/-- The fetches that a dispatch of a stream starts among its tensors. -/
def State.fetchNear (s : State) (sid : Nat) : State :=
  s.sq.recs.foldl (fun u p =>
    if p.2.live && p.2.st == .spillL && (p.2.use.map fun x => x.sid == sid).getD false &&
        ((u.distance p.2).map fun d => decide (d ≤ (u.die (p.1 / 2 ^ 20)).fetchd.toNat)).getD false then u.askFetch p.1 false
    else u) s

/-- FETCH: a tensor in SPILL_L whose H storage is granted is in MOVING, and its copy begins. -/
def execFetch (t : Nat) (s : State) : Out :=
  match s.rec? t, s.allocOf (.fetch t) (some t) with
  | some r, some q =>
    if !q.granted then .next s
    else if r.st = .spillL then
      .next (((s.dropAlloc q.id).holdTensor t r.pages).modRec t fun x => { x with st := .moving, toL := false })
    else .next (s.dropAlloc q.id)
  | _, _ => .next s

/-- FETCH_COPY_COMPLETE: once no access and no other table update is under way the tensor is in RES_H. -/
def execFetchCopyComplete (t : Nat) (s : State) : Out :=
  match s.rec? t with
  | some r =>
    if r.stored ∧ r.st = .moving ∧ !r.toL ∧ !s.tensorBusy t ∧ s.updateFree then
      .next (((s.modRec t fun q => { q with st := .resH }).moveStorage t false).unholdTensor t)
    else .next s
  | none => .next s

/-! ### The overflow reserve (R340) -/

/-- The reserve pages of a die that the register names and the reserve lacks. -/
def State.lackingReserve (s : State) (v : Nat) : List Nat :=
  (List.range (s.die v).cmResv).filter fun k => (s.reserveFrame v k).isNone

def State.addReserve (s : State) (v k : Nat) : State :=
  match s.takeFrame v 3 with
  | some (f, s1) => { s1 with ms := { s1.ms with reserve := s1.ms.reserve ++ [(v, k, f)] } }
  | none => s

/-- OVERFLOW_RESERVE_REFILL: the engine adds a page that the reserve lacks, by victim selection when free H is short. -/
def execOverflowReserveRefill (v : Nat) (s : State) : Out :=
  if 8 ≤ v ∨ !s.mapped v then .next s
  else
    match s.lackingReserve v with
    | [] => .next s
    | k :: _ =>
      let p := s.askH v 1 .reserve (some (v * 16 + k)) none
      match p.1, p.2.allocOf .reserve (some (v * 16 + k)) with
      | none, some q => .next ((p.2.dropAlloc q.id).addReserve v k)
      | _, _ => .next p.2

/-- CM_RESV_WRITE: the reserve is resized; lowering moves no block, raising adds slots as free H allows. -/
def execCmResvWrite (v : Nat) (val : BitVec 32) (s : State) : Out :=
  if s.pkg.recovery ∨ 8 ≤ v then .next s
  else
    let s1 := (s.modDie v fun d => { d with cmResv := val.toNat % 16 }).trimReserve v
    let gone (q : AllocReq) : Bool := q.who == .reserve && q.die == v && decide (val.toNat % 16 ≤ q.tensor.getD 0 % 16)
    .next { s1 with sq := { s1.sq with allocs := s1.sq.allocs.filter fun q => !gone q } }

end Sys2Proof.Machine
end

