-- ==== Sys2Proof/Machine/Stream.lean ====
section
/-! DEFINITION. Stream instructions but for the launching ones (R110 to R123, R137, R139 to R143): register arithmetic, control,
tensors, brackets, counters, ends; and how parameters are made ready (R126). -/
namespace Sys2Proof.Machine
open Sys2Proof

/-! ### The frame of every stream instruction (R111, R137, R143) -/

/-- The upper half of the word at the PC: the value of SQ_ILLEGAL (Table 7.6). -/
def Stream.upper (x : Stream) : Nat := (x.image.words.getD x.pc 0).toNat / 2 ^ 32

/-- The lowest frame of the pool that is free, none when all 4096 are taken. -/
def freeFrame (m : Map RFrame) : Option Nat := (List.range 4096).find? fun k => (m.find k).isNone

/-- A record gets back the recipe that it had; a frame that returned to its pool meanwhile is taken again, at its own place or, if that is
taken, at the lowest free one. -/
def State.undoRecipe (s : State) (u : Undo) : State :=
  match u.was.recipe, u.frame with
  | some q, some f =>
    let frames : Map RFrame := ((s.stream? q.sid).map (·.frames)).getD []
    let set (s : State) (r : Option Recipe) : State := s.modRec u.tensor fun y => { y with recipe := r, est := u.was.est }
    let take (k : Nat) : State :=
      set (s.modStream q.sid fun y => { y with frames := y.frames.put k f }) (some { q with frame := k })
    match frames.find q.frame with
    | none => take q.frame
    | some (g : RFrame) => if g.bracket = q.bracket then set s (some q)
                else match freeFrame frames with
                  | some k => take k
                  | none => set s none
  | r, _ => s.modRec u.tensor fun y => { y with recipe := r, est := u.was.est }

/-- A tensor's record returns to what it was before an instruction that has no effect (R111): its recipe, estimate and state, with the
contents that had been discarded. -/
def State.undo (s : State) (u : Undo) : State :=
  let t := u.tensor
  let r0 := u.was
  match s.rec? t with
  | none => s
  | some r =>
    if r.gen != r0.gen then s
    else
      let s1 := s.undoRecipe u
      let fresh := r.st == .resH || r.st == .near
      match r0.st with
      | .drop => if fresh then s1.dropTensor t else s1
      | .compH => if fresh then ((s1.demote t).homeStore u.bytes u.poi).compressStorage t else s1
      | .spillL =>
        if fresh then ((((s1.demote t).homeStore u.bytes u.poi).writeBackAll t).moveStorage t true).modRec t fun q => { q with st := .spillL }
        else s1
      | .resH => if r.st == .near then s1.demote t else s1
      | _ => s1

/-- A sequencer fault: the instruction has no effect (R111), so busy counts that it raised are restored, what it asked for is given up
(R126), and storage that it renewed is given back. -/
def State.sqFault (s : State) (sid cls code subcode value : Nat) : State :=
  let raised := ((s.stream? sid).map (·.raised)).getD []
  let s1 := (s.lowerAll raised).dropAllocsOf (.stream sid)
  let s2 := (((s.stream? sid).map (·.undo)).getD []).foldl State.undo s1
  (s2.modStream sid fun y => { y with raised := [], failed := none, bound := none, undo := [] }).streamFault sid cls code subcode value

def State.illegal (s : State) (sid : Nat) (x : Stream) : State := s.sqFault sid 2 0x20 0 x.upper
def State.stale (s : State) (sid : Nat) (h : Word) : State := s.sqFault sid 9 0x92 0 h.toNat

/-- The stream goes on at a PC. -/
def State.goTo (s : State) (sid pc : Nat) (f : Stream → Stream) : State :=
  s.modStream sid fun y => { f y with st := .ready, wait := .none, failed := none, raised := [], bound := none, undo := [], pc := pc }
def State.advance (s : State) (sid : Nat) (f : Stream → Stream) : State :=
  s.goTo sid (((s.stream? sid).map (·.pc)).getD 0 + 1) f
/-- The stream is BLOCKED at its PC until a condition clears (Table 7.1). -/
def State.block (s : State) (sid : Nat) (w : SWait) : State := s.modStream sid fun y => { y with st := .blocked, wait := w }

/-- Runs a stream instruction: one that may not stand in an open bracket faults there with SQ_RECIPE and its opcode. -/
def streamOp (inBracket : Bool) (opcode : Nat) (f : State → Nat → Stream → State) (s : State) : Out :=
  onStream s fun sid x => if x.bracket.isSome && !inBracket then s.sqFault sid 2 0x22 0 opcode else f s sid x

/-! ### Register arithmetic (R88, R115) -/

def gGet (g : Vector DWord 32) (i : BitVec 5) : DWord := if i = 0 then 0 else vget g i.toNat 0
/-- A write to g0 is discarded. -/
def gPut (g : Vector DWord 32) (i : BitVec 5) (v : DWord) : Vector DWord 32 := if i = 0 then g else vset g i.toNat v
def Stream.setG (x : Stream) (i : BitVec 5) (v : DWord) : Stream := { x with g := gPut x.g i v }
def Stream.handle (x : Stream) (i : Nat) : Word := vget x.t i 0

/-- The registers after a register-arithmetic instruction, none for any other. -/
def arith (g : Vector DWord 32) : Instr → Option (Vector DWord 32)
  | .li a imm => some (gPut g a (imm.signExtend 64))
  | .addi a b imm => some (gPut g a (gGet g b + imm.signExtend 64))
  | .add a b c => some (gPut g a (gGet g b + gGet g c))
  | .sub a b c => some (gPut g a (gGet g b - gGet g c))
  | .mul a b c => some (gPut g a (gGet g b * gGet g c))
  | .sll a b c => some (gPut g a (gGet g b <<< ((gGet g c).toNat % 64)))
  | .srl a b c => some (gPut g a (gGet g b >>> ((gGet g c).toNat % 64)))
  | _ => none

def arithOp (opcode : Nat) (i : Instr) (s : State) : Out :=
  streamOp true opcode (fun s sid _ => s.advance sid fun y => { y with g := (arith y.g i).getD y.g }) s

def execLi (a : BitVec 5) (imm : BitVec 32) (s : State) : Out := arithOp 0x01 (.li a imm) s
def execAddi (a b : BitVec 5) (imm : BitVec 32) (s : State) : Out := arithOp 0x02 (.addi a b imm) s
def execAdd (a b c : BitVec 5) (s : State) : Out := arithOp 0x03 (.add a b c) s
def execSub (a b c : BitVec 5) (s : State) : Out := arithOp 0x04 (.sub a b c) s
def execMul (a b c : BitVec 5) (s : State) : Out := arithOp 0x05 (.mul a b c) s
def execSll (a b c : BitVec 5) (s : State) : Out := arithOp 0x06 (.sll a b c) s
def execSrl (a b c : BitVec 5) (s : State) : Out := arithOp 0x07 (.srl a b c) s

/-! ### Control (R116) -/

/-- Jumps to a target within the code, after a register write; else SQ_PC with the target, and no register is written. -/
def State.jump (s : State) (sid : Nat) (x : Stream) (target : Int) (f : Stream → Stream) : State :=
  if 0 ≤ target ∧ target < x.image.words.length then s.goTo sid target.toNat f
  else s.sqFault sid 2 0x21 0 (BitVec.ofInt 64 target).toNat

def Stream.relative (x : Stream) (imm : BitVec 32) : Int := (x.pc : Int) + 1 + imm.toInt

def branchOp (opcode : Nat) (imm : BitVec 32) (taken : Vector DWord 32 → Bool) (s : State) : Out :=
  streamOp false opcode (fun s sid x => if taken x.g then s.jump sid x (x.relative imm) id else s.advance sid id) s

def execB (imm : BitVec 32) (s : State) : Out := branchOp 0x10 imm (fun _ => true) s
def execBeq (a b : BitVec 5) (imm : BitVec 32) (s : State) : Out := branchOp 0x11 imm (fun g => gGet g a == gGet g b) s
def execBne (a b : BitVec 5) (imm : BitVec 32) (s : State) : Out := branchOp 0x12 imm (fun g => gGet g a != gGet g b) s
def execBlt (a b : BitVec 5) (imm : BitVec 32) (s : State) : Out := branchOp 0x13 imm (fun g => (gGet g a).slt (gGet g b)) s
def execCall (a : BitVec 5) (imm : BitVec 32) (s : State) : Out :=
  streamOp false 0x14 (fun s sid x => s.jump sid x (x.relative imm) fun y => y.setG a (BitVec.ofNat 64 (x.pc + 1))) s
def execRet (a : BitVec 5) (s : State) : Out :=
  streamOp false 0x15 (fun s sid x => s.jump sid x (gGet x.g a).toNat id) s

/-! ### Recipes of records and frames (R131, R137) -/

/-- Frames that neither a record nor an open bracket refers to return to their pools. -/
def State.gcFrames (s : State) : State :=
  let used (sid k : Nat) (f : RFrame) : Bool :=
    ((s.stream? sid).bind (·.bracket)).any (fun b => b.id == f.bracket) ||
    s.sq.recs.any fun p => p.2.recipe.any fun q => q.sid == sid && q.frame == k && q.bracket == f.bracket
  { s with sq := { s.sq with streams := s.sq.streams.map fun p =>
      (p.1, { p.2 with frames := p.2.frames.filter fun f => used p.1 f.1 f.2 }) } }

/-- Releases a tensor as tfree does (R119). -/
def State.freeTensor (s : State) (t : Nat) : State :=
  let s1 := (s.modRec t fun r => { r with gen := r.gen % 511 + 1, live := false, pin := 0, recipe := none }).dropAllocsOf (.fetch t)
  (s1.settle t).gcFrames

/-! ### Making parameters ready (R126) -/

/-- Ready to go on; or blocked on a condition; or a fault with its code, whose upper digit is its class (Table 21.6), and its value. -/
inductive Ready where
  | go (s : State)
  | wait (s : State) (w : SWait)
  | fail (s : State) (code value : Nat)

/-- Asks for the storage of write-only outputs one by one; gives the ticket of a request that waits. -/
def State.askAll (s : State) (sid : Nat) : List Nat → Option Nat × State
  | [] => (none, s)
  | t :: ts =>
    match s.askH (t / 2 ^ 20) (((s.rec? t).map (·.pages)).getD 0) (.stream sid) (some t) none with
    | (some id, s1) => (some id, s1)
    | (none, s1) => s1.askAll sid ts

/-- A write-only output receives the storage granted to it: its old contents are discarded and it is in RES_H. -/
def State.freshOutput (s : State) (t : Nat) : State :=
  ((s.releaseStorage t).allocStorage t).modRec t fun r => { r with st := .resH }

def State.stateOf (s : State) (t : Nat) : RState := ((s.rec? t).map (·.st)).getD .drop

/-- Whether a handle may stand as a parameter (R117). -/
def State.paramOk (s : State) (p : Word × Bool) : Bool := (p.2 && isDiscard p.1) || (s.live? p.1).isSome

def keysOf (ps : List (Word × Bool)) : List Nat := (ps.filter fun p => !isDiscard p.1).map fun p => handleKey p.1

/-- A tensor in MOVING or REBUILD. -/
def State.onTheMove (s : State) (t : Nat) : Bool := s.stateOf t == .moving || s.stateOf t == .rebuild

/-- Whether the storage of a tensor in DROP still serves operations of a failed replay (R298). Its fresh storage waits for them (DEDUCED,
log entry 109). -/
def State.servesOld (s : State) (t : Nat) : Bool := s.stateOf t == .drop && ((s.rec? t).map (·.stored)).getD false

/-- Write-only outputs that need fresh storage. -/
def State.needFresh (s : State) (ps : List (Word × Bool)) : List Nat :=
  ((keysOf (ps.filter fun p => p.2)).eraseDups).filter fun t =>
    ((s.rec? t).map fun r => r.pin == 0 && r.st != .resH && r.st != .near).getD false

/-- What a launching instruction gives back if it faults: the records of its parameters with the frames of their recipes, and the contents
that fresh storage discards. -/
def State.undoOf (s : State) (ps : List (Word × Bool)) : List Undo :=
  (keysOf ps).eraseDups.filterMap fun t => (s.rec? t).map fun r =>
    let lost := if (s.needFresh ps).contains t && r.stored then (List.range r.bytes).map (storeAddr t) else []
    { tensor := t, was := r, frame := r.recipe.bind fun q => (s.stream? q.sid).bind fun x => x.frames.find q.frame,
      bytes := (lost.map fun a => (a, (s.homeByte a).1)).filter fun c => c.2 != 0 || (s.homeByte c.1).2,
      poi := lost.filter fun a => (s.homeByte a).2 }

/-- The same when the instruction has waited since its outputs got fresh storage: what they held is what was noted then. -/
def State.undoNow (s : State) (x : Stream) (ps : List (Word × Bool)) : List Undo :=
  (s.undoOf ps).map fun u =>
    match x.undo.find? fun w => w.tensor == u.tensor with
    | some w => { u with was := { u.was with st := w.was.st }, bytes := w.bytes, poi := w.poi }
    | none => u

/-- The steps of R126 up to the recipes; run again after a wait, it goes on where it stopped. An output in DROP whose old storage still
serves operations of a failed replay (R298) receives its fresh storage once they have completed (log entry 109). -/
def State.prepare (s : State) (sid : Nat) (x : Stream) (ps : List (Word × Bool)) : Ready :=
  match x.failed, ps.find? fun p => !s.paramOk p with
  | some f, _ => .fail s f.1 f.2
  | none, some p => .fail s 0x92 p.1.toNat
  | none, none =>
    let keys := keysOf ps
    let s1 := if x.raised.isEmpty then (keys.foldl State.raiseBusy s).modStream sid fun y => { y with raised := keys } else s
    let moving := keys.filter s1.onTheMove
    if !moving.isEmpty then .wait s1 (.moving moving)
    else
      match (keysOf (ps.filter fun p => !p.2)).find? fun t => s1.stateOf t == .drop with
      | some t =>
        let bound := x.bound.getD (s1.die (sid / 16)).depth
        if bound < 1 then .fail s1 0x90 1
        else if !((s1.rec? t).map s1.validRecipe).getD false then .fail s1 0x90 0
        else
          let r := s1.startReplay t 1 bound none none
          .wait r.2 (.replay r.1)
      | none =>
        let need := s1.needFresh ps
        match s1.askAll sid need with
        | (some id, s2) => .wait s2 (.alloc id)
        | (none, s2) =>
          if need.isEmpty then .go s2
          else
            let old := need.filter s2.servesOld
            if old.isEmpty then .go (need.foldl State.freshOutput (s2.dropAllocsOf (.stream sid))) else .wait s2 (.moving old)

/-- Goes on with ready parameters, blocks, or faults. -/
def State.whenReady (s : State) (sid : Nat) (x : Stream) (ps : List (Word × Bool)) (f : State → State) : State :=
  match s.prepare sid x ps with
  | .go s1 => f s1
  | .wait s1 w => s1.block sid w
  | .fail s1 code value => s1.sqFault sid (code / 16) code 0 value

/-! ### Tensors (R117 to R123) -/

/-- The mapped die with the most free H, the lowest on a tie. -/
def State.roomiest (s : State) : Option Nat :=
  ((List.range 8).filter s.mapped).foldl (fun b v =>
    match b with
    | some w => if s.availH w < s.availH v then some v else some w
    | none => some v) none

/-- The lowest index of a die whose record is free, from i on. -/
def State.freeIndex (s : State) (v : Nat) : Nat → Nat → Nat
  | 0, i => i
  | fuel + 1, i =>
    match s.rec? (v * 2 ^ 20 + i) with
    | some r =>
      if r.live || r.stored || r.busy != 0 || s.sq.replays.any (fun q => q.bound_.contains (v * 2 ^ 20 + i)) then
        s.freeIndex v fuel (i + 1)
      else i
    | none => i

/-- The record of a new tensor (R118). -/
def Desc.newRec (d : Desc) (pages gen : Nat) : Rec where
  d0 := d.d0
  d1 := d.d1
  d2 := d.d2
  d3 := d.d3
  fmt := d.fmt
  linear := d.linear
  attrs := d.attrs
  intByte := d.intByte
  pad := d.pad
  pages := pages
  st := .resH
  hint := 0
  comp := 255
  nextUse := none
  use := none
  recipe := none
  gen := gen
  est := 0xffffffff
  pin := 0
  busy := 0
  live := true
  stored := false
  toL := false

def Desc.bytes (d : Desc) : Nat :=
  let w := if d.intByte.getLsbD 1 then 4 else 8
  storageBytes d.d0 d.d1 d.d2 d.d3 d.fmt (elemWidth d.fmt w w) d.linear

/-- The home of a new tensor; a request that waits keeps the die it was made to. -/
def State.homeOf (s : State) (sid : Nat) (d : Desc) : Option Nat :=
  match s.allocOf (.stream sid) none with
  | some q => some q.die
  | none => if d.home = 0xff then s.roomiest else some d.home

/-- Defines a tensor whose storage is granted. -/
def State.define (s : State) (v : Nat) (d : Desc) (pages : Nat) : Nat × State :=
  let i := s.freeIndex v (2 ^ 20) 0
  let t := v * 2 ^ 20 + i
  let gen := ((s.rec? t).map (·.gen)).getD 1
  (t, ({ s with sq := { s.sq with recs := s.sq.recs.put t (d.newRec pages gen) } }).allocStorage t)

/-- tdef (R118). Its request covers the tensor's storage and its version store (R332); TIER_FULL reports the tensor's size. A die none of
whose record indices is free finds no place for the tensor: TIER_FULL (DESIGN CHOICE, log entry 108). -/
def execTdef (a : BitVec 5) (imm : BitVec 32) (s : State) : Out :=
  streamOp false 0x20 (fun s sid x =>
    match x.image.descs[imm.toNat]?, x.failed with
    | none, _ => s.illegal sid x
    | some d, some f => s.sqFault sid 9 f.1 0 (ceilDiv d.bytes pageBytes * pageBytes)
    | some d, none =>
      match s.homeOf sid d with
      | none => s.sqFault sid 10 0xa1 0 d.home
      | some v =>
        let pages := ceilDiv d.bytes pageBytes
        if !s.mapped v then s.sqFault sid 10 0xa1 0 v
        else if 2 ^ 45 < d.bytes ∨ s.freeIndex v (2 ^ 20) 0 = 0xfffff then s.sqFault sid 9 0x91 0 (pages * pageBytes)
        else
          match s.askH v (pages + (d.newRec pages 0).versionPages) (.stream sid) none none with
          | (some id, s1) => s1.block sid (.alloc id)
          | (none, s1) =>
            let p := (s1.dropAllocsOf (.stream sid)).define v d pages
            p.2.advance sid fun y => { y with t := vset y.t a.toNat (makeHandle p.1 (((p.2.rec? p.1).map (·.gen)).getD 1)) }) s

/-- Runs an instruction on the live record that t names. -/
def onTensor (opcode : Nat) (a : BitVec 5) (f : State → Nat → Stream → Nat → Rec → State) (s : State) : Out :=
  streamOp false opcode (fun s sid x =>
    let h := x.handle a.toNat
    match s.live? h with
    | none => s.stale sid h
    | some r => f s sid x (handleKey h) r) s

def execTfree (a : BitVec 5) (s : State) : Out :=
  onTensor 0x21 a (fun s sid _ t _ => (s.freeTensor t).advance sid id) s

/-- tpin: makes the tensor ready as an input, under the replay depth in force when it began, fetches and expands it, then counts the pin
(R120). -/
def execTpin (a : BitVec 5) (s : State) : Out :=
  onTensor 0x23 a (fun s sid x t r =>
    if r.pin = 65535 then s.illegal sid x
    else
    let depth := x.bound.getD (s.die (sid / 16)).depth
    (s.modStream sid fun y => { y with bound := some depth }).whenReady sid { x with bound := some depth } [(x.handle a.toNat, false)] fun s1 =>
      let pinned (u : State) : State := ((u.modRec t fun q => { q with pin := q.pin + 1 }).lowerAll [t]).advance sid id
      match s1.stateOf t with
      | .spillL => (s1.askFetch t true).block sid (.fetch t)
      | .compH =>
        match s1.askH (t / 2 ^ 20) (s1.expandNeed t r.pages) (.stream sid) (some t) none with
        | (some id, s2) => s2.block sid (.alloc id)
        | (none, s2) => pinned ((s2.dropAllocsOf (.stream sid)).expandStorage t)
      | _ => pinned s1) s

def execTunpin (a : BitVec 5) (s : State) : Out :=
  onTensor 0x24 a (fun s sid x t r =>
    if r.pin = 0 then s.illegal sid x else (s.modRec t fun q => { q with pin := q.pin - 1 }).advance sid id) s

/-- tuse: attaches a use list of the stream's image; ordinals below the stream's ordinal are passed over (R122). A stale handle is reported
before a list out of range (DESIGN CHOICE, log entry 126). -/
def execTuse (a : BitVec 5) (imm : BitVec 32) (s : State) : Out :=
  onTensor 0x22 a (fun s sid x t _ =>
    match x.image.uses with
    | none => s.illegal sid x
    | some ls =>
      if ls.length ≤ imm.toNat then s.illegal sid x
      else (s.modRec t fun q =>
        { q with use := some { sid := sid, list := imm.toNat, pos := 0 } }.advanceUse ls x.ordinal).advance sid id) s

/-- thint: a hint out of range is reported before a stale handle (DESIGN CHOICE, log entry 126). -/
def execThint (a : BitVec 5) (hint : BitVec 4) (s : State) : Out :=
  streamOp false 0x25 (fun s sid x =>
    if 6 ≤ hint.toNat then s.illegal sid x
    else match s.live? (x.handle a.toNat) with
    | none => s.stale sid (x.handle a.toNat)
    | some _ => (s.modRec (handleKey (x.handle a.toNat)) fun q => { q with hint := hint.toNat }).advance sid id) s

/-- The state code of a record (Table 7.3, selector 0): a pinned tensor shows as PINNED (R286). -/
def Rec.stateCode (r : Rec) : Nat :=
  if r.pin != 0 then 7
  else match r.st with
    | .near => 0
    | .resH => 1
    | .compH => 2
    | .spillL => 3
    | .drop => 4
    | .moving => 5
    | .rebuild => 6

/-- The value that a tstat selector reads (Table 7.3). -/
def State.tstatValue (s : State) (t : Nat) (r : Rec) (sel : Nat) : Nat :=
  match sel with
  | 0 => r.stateCode
  | 1 => r.sizeBytes
  | 2 => t / 2 ^ 20
  | 3 => r.nextUse.getD noUse
  | 4 => r.pin
  | 5 => r.busy
  | _ => if s.validRecipe r then 1 else 0

def execTstat (a b : BitVec 5) (sel : BitVec 4) (s : State) : Out :=
  streamOp false 0x26 (fun s sid x =>
    if 8 ≤ sel.toNat then s.illegal sid x
    else if sel = 7 then s.advance sid fun y => y.setG a (BitVec.ofNat 64 x.ordinal)
    else
      let h := x.handle b.toNat
      match s.live? h with
      | none => s.stale sid h
      | some r => s.advance sid fun y => y.setG a (BitVec.ofNat 64 (s.tstatValue (handleKey h) r sel.toNat))) s

/-! ### Brackets (R137, R285, R295) -/

def execRcpb (s : State) : Out :=
  streamOp false 0x38 (fun s sid x =>
    let (id, s1) := s.ticket
    let f := freeFrame x.frames
    s1.advance sid fun y =>
      { y with bracket := some { id := id, startPc := x.pc, frame := f, inputs := [], written := [] },
               frames := match f with
                 | some k => y.frames.put k { bracket := id, g := y.g, t := y.t, inputs := [], outs := [] }
                 | none => y.frames }) s

/-- Writes an estimate into every record that received a recipe, by the handles that the bracket's operations named (R285). -/
def State.estimate (s : State) (outs : List Word) (est : Nat) : State :=
  let got (t : Nat) (r : Rec) : Bool := outs.any fun h => handleKey h == t && handleGen h == r.gen
  { s with sq := { s.sq with recs := s.sq.recs.map fun p => (p.1, if got p.1 p.2 then { p.2 with est := est } else p.2) } }

/-- The write-only outputs of an operation that are tensors. -/
def outputsOf (ps : List (Word × Bool)) : List Word := (ps.filter fun p => p.2 && !isDiscard p.1).map Prod.fst

/-- When every operation of a closed bracket has completed, the engine measures it (R285). -/
def State.finishBracket (s : State) (b : Nat) : State :=
  let ops := s.sq.ops.filter fun o => o.bracket == some b && o.replay.isNone
  let open_ := s.sq.streams.any fun p => p.2.bracket.any fun q => q.id == b
  match ops with
  | [] => s
  | o :: os =>
    if open_ || ops.any (fun p => !p.done) then s
    else
      let first := os.foldl (fun m p => min m p.tick) o.tick
      let last := os.foldl (fun m p => max m p.since) o.since
      let est := min 0xffffffff ((last - first) * 14)
      { s with sq := { s.sq with ops := s.sq.ops.filter fun p => !(p.bracket == some b && p.replay.isNone) } }.estimate
        (ops.flatMap fun (p : Op) => outputsOf p.params) est

/-- The operations of a bracket whose outputs keep no recipe are not measured. -/
def State.unmeasured (s : State) (b : Nat) : State :=
  let mine (o : Op) : Bool := o.bracket == some b
  let left := s.sq.ops.filter fun o => !(mine o && o.done)
  { s with sq := { s.sq with ops := left.map fun o => if mine o then { o with bracket := none } else o } }

/-- rcpe: the recipe's length is known, and its inputs; more than 16 inputs leave the outputs no recipe. -/
def execRcpe (s : State) : Out :=
  streamOp true 0x39 (fun s sid x =>
    match x.bracket with
    | none => s.sqFault sid 2 0x22 0 0x39
    | some b =>
      let inputs := b.inputs.eraseDups
      let set (r : Rec) : Rec :=
        match r.recipe with
        | some q => if q.bracket = b.id then
            { r with recipe := if inputs.length ≤ 16 then some { q with len := x.pc + 1 - b.startPc } else none } else r
        | none => r
      let s1 : State := { s with sq := { s.sq with recs := s.sq.recs.map fun p => (p.1, set p.2) } }
      let s2 := s1.advance sid fun y =>
        { y with bracket := none,
                 frames := match b.frame with
                   | some k => y.frames.mod k fun f => { f with inputs := inputs }
                   | none => y.frames }
      ((if inputs.length ≤ 16 then s2 else s2.unmeasured b.id).finishBracket b.id).gcFrames) s

/-! ### Counters (R139) -/

def Stream.ctr (x : Stream) (c : Nat) : Word := vget x.ctrs c 0

def execDepset (a : BitVec 5) (ctr : BitVec 6) (s : State) : Out :=
  streamOp false 0x41 (fun s sid x =>
    if ctr = 0 then s.illegal sid x
    else s.advance sid fun y => { y with ctrs := vset y.ctrs ctr.toNat ((gGet y.g a).extractLsb' 0 32) }) s

def execDepw (ctr : BitVec 6) (s : State) : Out :=
  streamOp false 0x40 (fun s sid x =>
    if ctr = 0 then s.illegal sid x
    else if x.ctr ctr.toNat = 0 then s.advance sid id
    else s.block sid (.depw ctr.toNat)) s

/-! ### Order (R140, R141) -/

/-- Whether an operation has any barge, engine work or destination on a die (R141). An opr counts by its barges alone: its outputs are
destinations of its tasks' stores, not of the operation (DESIGN CHOICE, log entry 107). -/
def State.opOnDie (s : State) (o : Op) (v : Nat) : Bool :=
  let home (p : Word × Bool) : Bool := handleHome p.1 == v
  match o.kind with
  | .opr _ n .. => (List.range n).any fun g => s.bargeDie o g == v
  | .xform .. | .route .. => (o.params.take 1).any home || o.params.any fun p => p.2 && home p
  | .a2av .. | .coll .. => o.die == v || o.params.any fun p => p.2 && home p
  | .gop .. => o.params.any home

/-- A stream's dispatched operations that have not completed. -/
def State.running (s : State) (sid : Nat) : List Op := s.sq.ops.filter fun o => o.sid == sid && o.replay.isNone && !o.done

/-- Whether operations of a stream are outstanding at a scope. -/
def State.outstandingAt (s : State) (sid scope : Nat) : Bool :=
  (s.running sid).any fun o => scope != 3 || s.opOnDie o (sid / 16)

/-- fence and phase block until the operations in scope have completed. Their completion has performed their stores at their
homes, where the host and the guest read them (R140, R141). -/
def orderOp (opcode : Nat) (scope : BitVec 3) (s : State) : Out :=
  streamOp false opcode (fun s sid x =>
    if scope.toNat < 3 ∨ 5 < scope.toNat then s.illegal sid x
    else if s.outstandingAt sid scope.toNat then s.block sid (.ops scope.toNat)
    else s.advance sid id) s

def execPhase (scope : BitVec 3) (s : State) : Out := orderOp 0x48 scope s
def execFence (scope : BitVec 3) (s : State) : Out := orderOp 0x49 scope s

/-! ### Ends (R142) -/

/-- The completion record of a stream (R356). -/
def completionRecord (sid : Nat) (x : Stream) : List Byte :=
  leBytes 4 0x20 ++ leBytes 4 sid ++ leBytes 4 x.haltPc ++ leBytes 4 0 ++ leBytes 8 x.ordinal ++ leBytes 8 0

/-- A halted stream whose last operation has completed posts its completion record, and is then DONE. -/
def State.finishStream (s : State) (sid : Nat) : State :=
  match s.stream? sid with
  | none => s
  | some x =>
    if x.st = .halted ∧ (s.running sid).isEmpty ∧ !(s.hs.cwWait.any fun w => w.2 == .streamDone sid) then s.post (completionRecord sid x) (.streamDone sid) else s

def execHalt (s : State) : Out :=
  streamOp false 0x50 (fun s sid x => (s.modStream sid fun y => { y with st := .halted, wait := .none, haltPc := x.pc }).finishStream sid) s
def execTrap (code : BitVec 32) (s : State) : Out :=
  streamOp false 0x51 (fun s sid _ => s.sqFault sid 7 0x71 0 code.toNat) s
def execNop (s : State) : Out := streamOp true 0x52 (fun s sid _ => s.advance sid id) s

end Sys2Proof.Machine
end

