-- ==== Sys2Proof/Machine/Launching.lean ====
section
/-! DEFINITION. The launching instructions (R112, R124 to R136): their checks, dispatch, and the bookkeeping of recipes, uses and
the near pool that goes with it. -/
namespace Sys2Proof.Machine
open Sys2Proof

/-! ### Dispatch (R112, R131, R287, R289, R291) -/

def State.queuedOn (s : State) (v : Nat) : Nat := (s.sq.ops.filter fun o => o.die == v && o.queued).length

/-- Whether an operation may stand in a bracket, and whether it may write its inputs (R131). -/
def OpKindOf.bracketed : OpKind → Bool
  | .opr .. => true
  | .xform .. => true
  | _ => false
def OpKindOf.writesInputs : OpKind → Bool
  | .opr .. => true
  | .xform k _ => k == 2 || k == 3
  | .gop _ => true
  | _ => false

/-- The recipes of the parameters after a dispatch (R131). -/
def State.bookRecipes (s : State) (sid : Nat) (b : Option Bracket) (kind : OpKind) (ps : List (Word × Bool)) : State :=
  let given : Option Recipe := if OpKindOf.bracketed kind then
      b.bind fun q => q.frame.map fun f => { sid := sid, start := q.startPc, len := 0, frame := f, bracket := q.id }
    else none
  let s0 := match given with
    | some q => s.modStream sid fun y => { y with frames := y.frames.mod q.frame fun f => { f with outs := f.outs ++ outputsOf ps } }
    | none => s
  (ps.foldl (fun u p =>
    if isDiscard p.1 then u
    else if p.2 then u.modRec (handleKey p.1) fun r =>
      { r with recipe := given, est := if given.isSome then 0xffffffff else r.est }
    else if OpKindOf.writesInputs kind then u.modRec (handleKey p.1) fun r => { r with recipe := none }
    else u) s0).gcFrames

/-- The bracket's inputs and outputs after a dispatch inside it (R295). -/
def Bracket.note (b : Bracket) (ps : List (Word × Bool)) : Bracket :=
  { b with inputs := b.inputs ++ ((ps.filter fun p => !p.2).map Prod.fst).filter fun h => !b.written.contains h,
           written := b.written ++ (ps.filter fun p => p.2).map Prod.fst }

/-- A new operation. Where the kernel image of an opr is resident in the launching die's L2, its first bundle is due within 600 ns of
that die's timer (R14); whether it is, is free (log entry 100). -/
def newOp (id sid die ordinal pc ctr : Nat) (kind : OpKind) (ps : List (Word × Bool)) (bracket replay : Option Nat) (tick : Nat) : Op where
  id := id
  sid := sid
  die := die
  ordinal := ordinal
  pc := pc
  ctr := ctr
  kind := kind
  params := ps
  bracket := bracket
  replay := replay
  tick := tick
  started := false
  queued := true
  gridG := match kind with
    | .opr _ n .. => n
    | _ => 0
  placed := 0
  retired := 0
  msgs := []
  out := none
  since := 0
  tierFull := none
  done := false
  launchBy := match kind with
    | .opr .. => if Config.imageInL2 id then some (tick + 60) else none
    | _ => none
  old := []
  undo := []

/-- Dispatches an operation whose parameters are ready, with what a late fault of it gives back. -/
def State.dispatch (s : State) (sid : Nat) (x : Stream) (kind : OpKind) (ps : List (Word × Bool)) (ctr : BitVec 6) (undo : List Undo) :
    State :=
  let v := sid / 16
  let (id, s1) := s.ticket
  let inside := x.bracket.isSome && OpKindOf.bracketed kind
  let op := newOp id sid v x.ordinal x.pc ctr.toNat kind ps (if inside then x.bracket.bind fun b => b.frame.map fun _ => b.id else none)
    none (s.dieTick v)
  let s2 : State := { s1 with sq := { s1.sq with ops := s1.sq.ops ++ [{ op with undo := undo }] } }
  let s3 := (s2.bookRecipes sid x.bracket kind ps).advance sid fun y =>
    { y with ordinal := (y.ordinal + 1) % 2 ^ 64, bracket := if inside then y.bracket.map fun b => b.note ps else y.bracket }
  ((keysOf ps).foldl State.promote (s3.advanceUses sid)).fetchNear sid

/-- Makes the parameters ready and goes on, or blocks on the full launch queue of the die, with what a fault there gives back (R111). -/
def State.launchWhen (s : State) (sid : Nat) (x : Stream) (ps : List (Word × Bool)) (go : State → List Undo → State) : State :=
  s.whenReady sid x ps fun s1 =>
    let us := s.undoNow x ps
    if 64 ≤ s1.queuedOn (sid / 16) then (s1.modStream sid fun y => { y with undo := us }).block sid .launchQueue else go s1 us

/-- Makes the parameters ready and dispatches. -/
def State.launch (s : State) (sid : Nat) (x : Stream) (kind : OpKind) (ps : List (Word × Bool)) (ctr : BitVec 6) : State :=
  s.launchWhen sid x ps fun s1 _ => s1.dispatch sid x kind ps ctr []

/-! ### opr (R128) -/

def BufEntry.overlaps (a b : BufEntry) : Bool :=
  a.bank == b.bank && a.off < b.off + b.size && b.off < a.off + a.size &&
  a.first ≤ a.last && b.first ≤ b.last && a.first ≤ b.last && b.first ≤ a.last

/-- The id of the first buffer, in the order of the plan, that runs past its bank or overlaps an earlier one (R104). Which buffer is reported
where several are at fault is a DESIGN CHOICE (log entry 124). -/
def planFault : List BufEntry → List BufEntry → Option Nat
  | _, [] => none
  | seen, b :: bs => if 2 ^ 18 < b.off + b.size || seen.any b.overlaps then some b.id else planFault (b :: seen) bs

/-- The first failing resource check of a kernel image for a grid of n tasks: subcode and value (R100). -/
def Kernel.resourceFault (k : Kernel) (n : Nat) : Option (Nat × Nat) :=
  if k.contexts = 0 ∨ 4 < k.contexts then some (1, k.contexts)
  else if 2 ^ 22 < k.scratch then some (2, k.scratch)
  else match planFault [] k.plan with
    | some id => some (3, id)
    | none =>
      if 192 < k.bargeMax ∨ k.bargeMax < n then some (4, k.bargeMax)
      else if 16 ≤ k.cbmask then some (5, k.cbmask)
      else none

/-- The parameters of an opr: handles, then the low halves of general registers (R91). -/
def Stream.tParams (x : Stream) (b : BitVec 5) (nt : Nat) : List Word := (List.range nt).map fun i => x.handle (b.toNat + i)
def Stream.gParams (x : Stream) (c : BitVec 5) (ng : Nat) : List Word :=
  (List.range ng).map fun i => (gGet x.g (BitVec.ofNat 5 (c.toNat + i))).extractLsb' 0 32

def launchFault (s : State) (sid sub value : Nat) : State := s.sqFault sid 10 0xa0 sub value

/-- opr: the checks of R128 in order, then dispatch. -/
def execOpr (a b c : BitVec 5) (mode : BitVec 2) (fixDie : BitVec 3) (nt : BitVec 4) (kernel : BitVec 16) (ctr : BitVec 6)
    (ng : BitVec 5) (s : State) : Out :=
  streamOp true 0x30 (fun s sid x =>
    let g := gGet x.g a
    let grid := (g.extractLsb' 0 24).toNat
    let n := (g.extractLsb' 24 8).toNat
    let mask := (g.extractLsb' 32 32).toNat
    if !(Instr.opr a b c mode fixDie nt kernel ctr ng).wf then s.illegal sid x
    else match x.image.kernels[kernel.toNat]? with
    | none => s.illegal sid x
    | some (_, image) =>
      if grid = 0 ∨ n = 0 ∨ 2 ^ nt.toNat ≤ mask then launchFault s sid 6 (g.toNat % 2 ^ 32)
      else match s.kernel? image with
      | none => launchFault s sid 0 0
      | some k =>
        match k.resourceFault n with
        | some f => launchFault s sid f.1 f.2
        | none =>
          let ts := x.tParams b nt.toNat
          let ps := (List.range nt.toNat).map fun i => (ts.getD i 0, g.getLsbD (32 + i))
          match ps.find? fun p => !s.paramOk p with
          | some p => s.stale sid p.1
          | none =>
            if mode = 1 && !s.mapped fixDie.toNat then s.sqFault sid 10 0xa1 0 fixDie.toNat
            else s.launch sid x (.opr image grid n mode.toNat fixDie.toNat (ts ++ x.gParams c ng.toNat)) ps ctr) s

/-! ### xform (R130) -/

def sameDims (a b : Rec) : Bool := a.d0 == b.d0 && a.d1 == b.d1 && a.d2 == b.d2 && a.d3 == b.d3

/-- The conditions of Table 7.5 on a destination, a source and the format field. -/
def xformOk (kind f : Nat) (dst src : Rec) : Bool :=
  match kind with
  | 0 => sameDims dst src && f == dst.fmt && f < 7
  | 1 => dst.d0 == src.d1 && dst.d1 == src.d0 && dst.d2 == src.d2 && dst.d3 == src.d3 && f == dst.fmt && f == src.fmt
  | _ => sameDims dst src && isMx f && f == dst.fmt && src.d0 % 32 == 0

def operandFault (s : State) (sid value : Nat) : State := s.sqFault sid 2 0x23 0 value

/-- xform. Kinds 2 and 3 compare the register numbers of A and B, and check the handle before that (DESIGN CHOICE, log entry 125). -/
def execXform (a b : BitVec 5) (kind fmt : BitVec 4) (ctr : BitVec 6) (s : State) : Out :=
  streamOp true 0x31 (fun s sid x =>
    let ha := x.handle a.toNat
    let hb := x.handle b.toNat
    if 5 ≤ kind.toNat ∨ 11 ≤ fmt.toNat then s.illegal sid x
    else if kind = 2 ∨ kind = 3 then
      if !s.paramOk (ha, false) then s.stale sid ha
      else if a ≠ b ∨ fmt ≠ 0 then operandFault s sid 0
      else s.launch sid x (.xform kind.toNat fmt.toNat) [(ha, false)] ctr
    else if !s.paramOk (hb, false) then s.stale sid hb
    else if !s.paramOk (ha, true) then s.stale sid ha
    else match s.live? ha, s.live? hb with
      | some dst, some src =>
        if xformOk kind.toNat fmt.toNat dst src then s.launch sid x (.xform kind.toNat fmt.toNat) [(hb, false), (ha, true)] ctr
        else operandFault s sid 0
      | _, _ => operandFault s sid 0) s

/-! ### route (R132) -/

/-- The operand conditions of route for E experts. -/
def routeOk (experts : Nat) (ids gates perm counts offsets : Rec) : Bool :=
  let raw (r : Rec) : Bool := r.linear && r.fmt == 0
  ids.linear && (ids.fmt == 1 || ids.fmt == 2) && 1 ≤ ids.d0 && ids.d0 ≤ 64 && ids.d2 == 1 && ids.d3 == 1 && ids.elems ≤ 2 ^ 24 &&
  raw gates && sameDims gates ids &&
  raw perm && perm.d0 == 2 && perm.rows == ids.elems &&
  raw counts && counts.elems == experts + 1 && raw offsets && offsets.elems == experts + 1

def execRoute (a b c : BitVec 5) (experts : BitVec 16) (ctr : BitVec 6) (s : State) : Out :=
  streamOp false 0x32 (fun s sid x =>
    if experts = 0 ∨ 30 ≤ c.toNat then s.illegal sid x
    else
      let ps := [(x.handle a.toNat, false), (x.handle b.toNat, false), (x.handle c.toNat, true), (x.handle (c.toNat + 1), true),
                 (x.handle (c.toNat + 2), true)]
      match ps.find? fun p => !s.paramOk p with
      | some p => s.stale sid p.1
      | none =>
        match ps.map fun p => s.live? p.1 with
        | [some ids, some gates, some perm, some counts, some offsets] =>
          if routeOk experts.toNat ids gates perm counts offsets then s.launch sid x (.route experts.toNat) ps ctr
          else operandFault s sid 0
        | _ => operandFault s sid 0) s

/-! ### a2av and coll (R133 to R135) -/

def State.group (s : State) (g : Nat) : List (BitVec 16) := s.sq.groups.get g []
/-- The first rank of a group that is a local virtual die. -/
def State.rankOf (s : State) (g v : Nat) : Option Nat :=
  (List.range (s.group g).length).find? fun i => (s.group g).getD i 0 == BitVec.ofNat 16 v
/-- The count of a group's collectives that a die has dispatched. -/
def State.groupNth (s : State) (g v : Nat) : Nat := s.sq.groupSeq.get (g * 8 + v) 0

/-- Dispatches a collective: it is the next of its group on this rank. -/
def State.launchColl (s : State) (sid : Nat) (x : Stream) (g : Nat) (kind : Nat → OpKind) (ps : List (Word × Bool)) (ctr : BitVec 6) :
    State :=
  let v := sid / 16
  s.launchWhen sid x ps fun s1 us =>
    let n := s1.groupNth g v
    ({ s1 with sq := { s1.sq with groupSeq := s1.sq.groupSeq.set (g * 8 + v) (n + 1) 0 } }).dispatch sid x (kind n) ps ctr us

def execA2av (a b c : BitVec 5) (group : BitVec 16) (ctr : BitVec 6) (s : State) : Out :=
  streamOp false 0x33 (fun s sid x =>
    let g := group.toNat
    let ps := [(x.handle a.toNat, false), (x.handle b.toNat, false), (x.handle c.toNat, true)]
    match ps.find? fun p => !s.paramOk p, (s.live? (x.handle b.toNat)) with
    | some p, _ => s.stale sid p.1
    | none, none => operandFault s sid 0
    | none, some counts =>
      if (s.rankOf g (sid / 16)).isNone || !counts.linear || counts.width != 32 || counts.elems != (s.group g).length ||
          (s.live? (x.handle c.toNat)).isNone then operandFault s sid 0
      else s.launchColl sid x g (OpKind.a2av g) ps ctr) s

/-- The shape conditions of coll for a group of q ranks (R135). -/
def collShape (kind q : Nat) (src dst : Rec) : Bool :=
  match kind with
  | 0 => sameDims src dst
  | 1 => dst.d1 == q * src.d1 && dst.d0 == src.d0 && dst.d2 == src.d2 && dst.d3 == src.d3
  | _ => src.d1 == q * dst.d1 && dst.d0 == src.d0 && dst.d2 == src.d2 && dst.d3 == src.d3

def execColl (a b : BitVec 5) (kind : BitVec 2) (group : BitVec 16) (ctr : BitVec 6) (s : State) : Out :=
  streamOp false 0x35 (fun s sid x =>
    let g := group.toNat
    let ps := [(x.handle a.toNat, false), (x.handle b.toNat, true)]
    if kind = 3 then s.illegal sid x
    else match ps.find? fun p => !s.paramOk p with
    | some p => s.stale sid p.1
    | none =>
      match s.live? (x.handle a.toNat), s.live? (x.handle b.toNat) with
      | some src, some dst =>
        if (s.rankOf g (sid / 16)).isNone || !collShape kind.toNat (s.group g).length src dst then operandFault s sid 0
        else s.launchColl sid x g (OpKind.coll kind.toNat g) ps ctr
      | _, _ => operandFault s sid 0) s

/-! ### gop (R136) -/

def execGop (a : BitVec 5) (countM1 : BitVec 2) (opcode : BitVec 16) (ctr : BitVec 6) (s : State) : Out :=
  streamOp false 0x34 (fun s sid x =>
    if 32 < a.toNat + countM1.toNat + 1 then s.illegal sid x
    else if !s.hs.guest.st.usable then s.sqFault sid 12 0xc0 0 s.hs.guest.st.code
    else
      let ps := (x.tParams a (countM1.toNat + 1)).map fun h => (h, false)
      match ps.find? fun p => !s.paramOk p with
      | some p => s.stale sid p.1
      | none => s.launch sid x (.gop opcode.toNat) ps ctr) s

end Sys2Proof.Machine
end

