-- ==== Sys2Proof/Machine/Replay.lean ====
section
/-! DEFINITION. Replays of dropped tensors (R138, R297 to R299): REPLAY takes one step of a replay, REPLAY_COMPLETE ends one. -/
namespace Sys2Proof.Machine
open Sys2Proof

/-- The discard handle of a die (R117). -/
def discardOf (v : Nat) : Word := BitVec.ofNat 32 (v % 8 * 2 ^ 29 + 0xfffff)

def State.failRun (s : State) (r : ReplayRun) (code value : Nat) : State := s.failReplay maxChain r.id code value

/-- Whether a replay requested from outside may start: eight run on a sequencer at once, in arrival order (R297). A request for a tensor
that another replay is rebuilding takes no place of the eight: it waits for that replay (R299). -/
def State.mayStart (s : State) (r : ReplayRun) : Bool :=
  let roots := s.sq.replays.filter fun q => q.parent.isNone && q.tensor / 2 ^ 20 == r.tensor / 2 ^ 20
  let ready (q : ReplayRun) : Bool := !q.started && !s.onTheMove q.tensor && !s.servesOld q.tensor
  r.parent.isSome || ((roots.filter (·.started)).length < 8 && !roots.any fun q => ready q && q.id < r.id)

/-- The end of a replay that a context or another replay waits for. -/
def State.endRun (s : State) (r : ReplayRun) : State :=
  let s1 : State := { s with sq := { s.sq with replays := s.sq.replays.filter fun q => q.id != r.id } }
  match r.ctx with
  | some c => s1.resolved c true
  | none => s1

/-- The first step of rebuild(X, d, b): its checks, REBUILD, and the registers of the frame. -/
def State.startRun (s : State) (r : ReplayRun) : State :=
  if !s.mayStart r then s
  else if r.bound < r.depth then s.failRun r 0x90 r.depth
  else
    match s.rec? r.tensor with
    | none => s.failRun r 0x90 0
    | some x =>
      match x.st, x.recipe with
      | .moving, _ => s
      | .rebuild, _ => s
      | .drop, some q =>
        match (s.stream? q.sid).bind fun y => y.frames.find q.frame with
        | some f =>
          if !s.recipeValid q then s.failRun r 0x90 0
          else if s.servesOld r.tensor then s
          else (s.modRec r.tensor fun y => { y with st := .rebuild }).modReplay r.id fun y =>
            { y with started := true, sid := q.sid, start := q.start, stop := q.start + q.len - 1, at_ := q.start + 1, g := f.g, t := f.t,
                     bound_ := [r.tensor], outs := f.outs }
        | none => s.failRun r 0x90 0
      | .drop, none => s.failRun r 0x90 0
      | _, _ => s.endRun r

/-- The tensors in REBUILD for a replay's request chain: its own and its callers'. -/
def State.chainBound (s : State) : Nat → ReplayRun → List Nat
  | 0, r => r.bound_
  | fuel + 1, r =>
    r.bound_ ++ ((r.parent.bind s.replay?).map (s.chainBound fuel)).getD []

/-- Moves past a word. -/
def ReplayRun.past (r : ReplayRun) : ReplayRun := { r with at_ := r.at_ + 1, word := none, nextIn := 0, ready := false }

/-- Binds the write-only outputs of a replayed word in order: the tensor being rebuilt as itself, a dropped one is rebuilt with it, and any
other, one already in REBUILD included, as the discard handle of its home. Gives the parameters and the tensors that leave DROP. -/
def State.bindOutputs (s : State) (x : Nat) (ps : List (Word × Bool)) : List (Word × Bool) × List Nat :=
  ps.foldl (fun b p =>
    let t := handleKey p.1
    let dropped := ((s.live? p.1).map fun q => q.st == .drop).getD false && !b.2.contains t
    if !p.2 || isDiscard p.1 || t = x then (b.1 ++ [p], b.2)
    else if dropped then (b.1 ++ [p], b.2 ++ [t])
    else (b.1 ++ [(discardOf (handleHome p.1), true)], b.2)) ([], [])

/-- The next input of a replayed word: its handle, its busy count, and a nested replay when it is in DROP; the replay waits while it is in
MOVING or REBUILD. -/
def State.runInput (s : State) (r : ReplayRun) (p : Word × Bool) : State :=
  let t := handleKey p.1
  if !s.paramOk p then s.failRun r 0x92 p.1.toNat
  else
    let s1 := if r.ready then s else
      (s.raiseBusy t).modReplay r.id fun y => { y with raised := y.raised ++ [t], ready := true }
    if (s.chainBound maxChain r).contains t then s1.failRun r 0x90 r.depth
    else if s1.stateOf t = .drop then
      if s1.sq.replays.any fun q => q.parent == some r.id then s1
      else if r.bound < r.depth + 1 then s1.failRun r 0x90 (r.depth + 1)
      else if !((s1.rec? t).map s1.validRecipe).getD false then s1.failRun r 0x90 0
      else (s1.startReplay t (r.depth + 1) r.bound (some r.id) none).2
    else if s1.onTheMove t then s1
    else s1.modReplay r.id fun y => { y with nextIn := y.nextIn + 1, ready := false }

/-- A launching word of a replay: outputs bound, inputs ready in order, then a dispatch with no ordinal, counter, recipe or use step. -/
def State.runLaunch (s : State) (r : ReplayRun) (kind : List Word → OpKind) (ps0 : List (Word × Bool)) : State :=
  match r.word with
  | none =>
    let b := s.bindOutputs r.tensor ps0
    if b.2.any s.servesOld then s
    else (b.2.foldl (fun u t => u.modRec t fun q => { q with st := .rebuild }) s).modReplay r.id fun y =>
      { y with word := some b.1, bound_ := y.bound_ ++ b.2 }
  | some ps =>
    match (ps.filter fun p => !p.2)[r.nextIn]? with
    | some p => s.runInput r p
    | none =>
      let v := r.tensor / 2 ^ 20
      if 64 ≤ s.queuedOn v then s
      else
        let (id, s1) := s.ticket
        let op := newOp id r.sid v 0 r.at_ 0 (kind (ps.map Prod.fst)) ps none (some r.id) (s.dieTick v)
        let s2 := ({ s1 with sq := { s1.sq with ops := s1.sq.ops ++ [op] } }).modReplay r.id fun y =>
          { y.past with tick := y.tick.orElse fun _ => some (s.dieTick v) }
        (keysOf ps).foldl State.promote s2

/-- One word of a replay. An opr in mode fix whose die is not mapped faults the launch that waits for it (R20). DESIGN CHOICE (log entry 123):
an opr whose kernel-table entry names no image by then fails the replay with RECIPE_DEPTH and the value 0, and the resource checks of R100
are not repeated. -/
def State.runWord (s : State) (r : ReplayRun) (x : Stream) (i : Instr) : State :=
  match arith r.g i with
  | some g => s.modReplay r.id fun y => { y.past with g := g }
  | none =>
    let h (k : BitVec 5) : Word := vget r.t k.toNat 0
    match i with
    | .opr a b c mode fixDie nt kernel _ ng =>
      let g := gGet r.g a
      match (x.image.kernels[kernel.toNat]?).bind fun k => (s.kernel? k.2).map fun _ => k.2 with
      | none => s.failRun r 0x90 0
      | some image =>
        if mode = 1 && !s.mapped fixDie.toNat then s.failRun r 0xa1 fixDie.toNat else
        let ps := (List.range nt.toNat).map fun k => (vget r.t (b.toNat + k) 0, g.getLsbD (32 + k))
        let gs := (List.range ng.toNat).map fun k => (gGet r.g (BitVec.ofNat 5 (c.toNat + k))).extractLsb' 0 32
        s.runLaunch r (fun ts => .opr image (g.extractLsb' 0 24).toNat (g.extractLsb' 24 8).toNat mode.toNat fixDie.toNat (ts ++ gs)) ps
    | .xform a b kind fmt _ =>
      s.runLaunch r (fun _ => .xform kind.toNat fmt.toNat)
        (if kind = 2 ∨ kind = 3 then [(h a, false)] else [(h b, false), (h a, true)])
    | _ => s.modReplay r.id ReplayRun.past

/-- The storage of the tensors that a replay has bound: asks for it one by one; true when all of it is there. -/
def State.runStorage (s : State) (r : ReplayRun) : List Nat → Bool × State
  | [] => (true, s)
  | t :: ts =>
    if ((s.rec? t).map (·.stored)).getD true then s.runStorage r ts
    else
      match s.askH (t / 2 ^ 20) (((s.rec? t).map (·.pages)).getD 0) (.replay r.id) (some t) none with
      | (some _, s1) => (false, s1)
      | (none, s1) => (((s1.dropAllocsOf (.replay r.id)).allocStorage t).modRec t fun q => { q with st := .rebuild }).runStorage r ts

/-- REPLAY: the next step of a replay. -/
def execReplay (id : Nat) (s : State) : Out :=
  match s.replay? id with
  | none => .next s
  | some r =>
    if !r.started then .next (s.startRun r)
    else
      match s.runStorage r r.bound_ with
      | (false, s1) => .next s1
      | (true, s1) =>
        if r.stop ≤ r.at_ then .next s1
        else match s1.stream? r.sid with
        | none => .next (s1.failRun r 0x90 0)
        | some x =>
          match x.image.words[r.at_]? with
          | none => .next (s1.failRun r 0x90 0)
          | some w =>
            match decodeStream w with
            | .ok i => .next (s1.runWord r x i)
            | .error _ => .next (s1.failRun r 0x90 0)

/-- REPLAY_COMPLETE: every dispatched operation has completed: busy counts are restored, the bound tensors are in RES_H, and the
estimate is measured again (R285). -/
def execReplayComplete (id : Nat) (s : State) : Out :=
  match s.replay? id with
  | none => .next s
  | some r =>
    let ops := s.sq.ops.filter fun o => o.replay == some id
    if !r.started || r.at_ < r.stop || ops.any (fun o => !o.done) || r.bound_.any fun t => !((s.rec? t).map (·.stored)).getD true then
      .next s
    else
      let last := ops.foldl (fun m o => max m o.since) 0
      let est := min 0xffffffff ((last - r.tick.getD last) * 14)
      let s0 : State := { s with sq := { s.sq with
        ops := s.sq.ops.filter fun o => o.replay != some id,
        replays := s.sq.replays.map fun q => if q.id = id then { q with bound_ := [] } else q } }
      let s1 := if ops.isEmpty then s0 else s0.estimate r.outs est
      let s2 := r.bound_.foldl (fun u t => (u.modRec t fun q => { q with st := .resH }).settle t) (s1.lowerAll r.raised)
      .next (s2.endRun r)

end Sys2Proof.Machine
end

