-- ==== Sys2Proof/Machine/Launch.lean ====
section
/-! DEFINITION. Barges (R20 to R23, R102, R129, R197): placement on contexts, task start, retirement; and the completion of an operation
(R124, R139, R285). -/
namespace Sys2Proof.Machine
open Sys2Proof

/-! ### Placement (R21, R22, R129) -/

/-- The priority of a stream, and whether the host has suspended it (Table 25.4). -/
def State.prioOf (s : State) (sid : Nat) : Nat := ((s.stream? sid).map (·.prio)).getD 0
def State.suspended (s : State) (sid : Nat) : Bool := ((s.stream? sid).map (·.susp)).getD false

def clusterKey (p cl : Nat) : Nat := p * 6 + cl

/-- The usable contexts of a cluster in core-major order: at most C for each core that is in service, free or among those that
a pre-emption would free. -/
def State.usable (s : State) (p cl c : Nat) (freed : List Nat) : List Nat :=
  (List.range 48).flatMap fun i =>
    let core := coreKey p cl i
    if (s.core core).fenced then []
    else (((List.range 4).map (ctxOf core)).filter fun x => (s.ctx? x).isNone || freed.contains x).take c

/-- The cluster of a stack with the most usable free contexts, n or more, the lowest on a tie. -/
def State.bestCluster (s : State) (p c n : Nat) : Option Nat :=
  (List.range 6).foldl (fun b cl =>
    let u := (s.usable p cl c []).length
    if s.pkg.fencedClusters.contains (clusterKey p cl) || u < n then b
    else match b with
      | some d => if (s.usable p d c []).length < u then some cl else b
      | none => some cl) none

/-- The placement list of a die in order: launches whose next barge goes to it, by priority, then in dispatch order. -/
def State.placeList (s : State) (v : Nat) : List Op :=
  let os := s.sq.ops.filter fun o => !o.done && o.placed < o.gridG && s.bargeDie o o.placed == v && !s.suspended o.sid
  sortBy (fun a b => s.prioOf b.sid < s.prioOf a.sid || (s.prioOf a.sid == s.prioOf b.sid && a.id < b.id)) os

/-- The resume list of a die in order: by priority, then as the barges were suspended. -/
def State.resumeList (s : State) (v : Nat) : List Barge :=
  let bs := s.sq.barges.filter fun b => b.die == v && b.st == .suspended && !s.suspended (((s.op? b.op).map (·.sid)).getD 0)
  sortBy (fun a b => b.prio < a.prio || (a.prio == b.prio && a.since < b.since)) bs

def Op.image (o : Op) : Nat :=
  match o.kind with
  | .opr k .. => k
  | _ => 0
def Op.args (o : Op) : List Word :=
  match o.kind with
  | .opr _ _ _ _ _ as => as
  | _ => []

/-- The registers of a task at its start (Table 9.1, Table 15.1, R102). -/
def Regs.start (entry p : Nat) (args : List Word) : Regs where
  sr := Vector.ofFn fun i => PW.of (if i.val < p then args.getD i.val 0 else 0)
  vr := Vector.replicate 32 PV.zero
  ar := Vector.replicate 16 PW.zero
  nr := Vector.replicate 16 PW.zero
  br := Vector.replicate 16 PW.zero
  kr := Vector.replicate 16 PW.zero
  pr := 1
  flags := 0
  binds := Vector.replicate 8 none
  fmt := fmtReset
  fmtPend := []
  opnd := Vector.replicate 31 PV.zero
  res := Vector.replicate 19 PV.zero
  pend := Vector.replicate 19 none
  pc := entry
  redirect := none
  rep := none
  rbs := 0
  rbv := 0
  loops := []
  calld := 0
  shape := 0x00012020#32
  ring := 0
  vlist := []
  vover := false
  fprs := Vector.replicate 8 Fpr.zero
  tlimit := 32

/-- A context at the start of task k of a barge. -/
def Ctx.start (barge task : Nat) (r : Regs) : Ctx where
  barge := barge
  task := task
  r := r
  flights := []
  acc := []
  accPoi := 0
  rmax := []
  rsum := []
  prio := false
  gate := []
  region := 0
  issued := 0
  shadow := none
  marked := false
  waited := 0
  last := 0
  halted := false
  stop := none
  resolving := none
  later := []
  needMark := false
  lastArr := []
  snap := []

/-- The codebook image of a bank as the contents of a save area (R106, R189). -/
def CbImage.book (b : CbImage) : Book where
  entries := (List.range b.entries.length).foldl (fun m i => m.set i (b.entries.getD i 0) 0) []
  valid := BitVec.ofNat 256 (2 ^ b.entries.length - 1)
  poi := 0

/-- The save areas of a barge's banks on the cores it occupies. -/
def Kernel.startBooks (k : Kernel) (cores : List Nat) : Map Book :=
  cores.foldl (fun m core => k.books.foldl (fun m b =>
    if k.cbmask / 2 ^ b.bank % 2 = 1 then m.put (core * 4 + b.bank) b.book else m) m) []

/-- The granules of a kernel's plan on a core, as physical addresses. -/
def Kernel.planGranules (k : Kernel) (core : Nat) : List Nat :=
  k.plan.flatMap fun e =>
    (granules (coreIdx core * 2 ^ 22 + e.bank * 2 ^ 18 + e.off) e.size).map (physAt k.bankMap (core / 48 * 48))

/-- Starts the tasks of a barge on its contexts, in order (R102). -/
def State.startTasks (s : State) (barge : Nat) (r : Regs) : Nat → List Nat → State
  | _, [] => s
  | k, c :: cs => (s.putCtx c (Ctx.start barge k r)).startTasks barge r (k + 1) cs

/-- Places the next barge of a launch on contexts of a cluster: its plan's granules are empty (R197), its rings at slot 0, its
tasks start. -/
def State.place (s : State) (o : Op) (k : Kernel) (v cl : Nat) (ctxs : List Nat) : State :=
  let (id, s1) := s.ticket
  let cores := (ctxs.map coreOf).eraseDups
  let b : Barge :=
    { id := id, op := o.id, g := o.placed, die := v, cluster := cl, prio := s.prioOf o.sid, st := .placed, ctxs := ctxs, seq := id,
      save := none, books := k.startBooks cores, ringPos := [], since := 0, saveBy := none }
  let s2 : State := { s1 with sq := { s1.sq with barges := s1.sq.barges ++ [b] } }
  let s3 := s2.modOp o.id fun p => { p with placed := p.placed + 1, started := true, queued := decide (p.placed + 1 < p.gridG) }
  (cores.foldl (fun t c => t.setFs (k.planGranules c) false) s3).startTasks id (Regs.start k.entry k.params o.args) 0 ctxs

/-- Whether a barge that waits to resume goes before launches of a priority (R313). -/
def State.resumeFirst (s : State) (v prio : Nat) : Bool := (s.resumeList v).any fun b => prio ≤ b.prio

/-- PLACE_BARGE: the launch that is first on a die's placement list places its next barge. -/
def execPlaceBarge (v : Nat) (s : State) : Out :=
  match s.stackOfDie v, s.placeList v with
  | some p, o :: _ =>
    match s.kernel? o.image with
    | none => .next s
    | some k =>
      match s.bestCluster p k.contexts o.tasks with
      | none => .next s
      | some cl =>
        if s.resumeFirst v (s.prioOf o.sid) || s.moving v then .next s
        else .next (s.place o k v cl ((s.usable p cl k.contexts []).take o.tasks))
  | _, _ => .next s

/-! ### Completion of an operation (R124, R139, R142, R285) -/

/-- The compressibility of a tensor from the granules that an operation wrote (R285). -/
def State.measure (s : State) (op t : Nat) : State :=
  let gs := (s.sq.wrote.filter fun w => w.1 == op && storeTensor (w.2 * 128) == t).map Prod.snd
  let size (g : Nat) : Nat := tagSize (granuleTag ((List.range 128).map fun i => (s.homeByte (g * 128 + i)).1))
  if gs.isEmpty then s else s.modRec t fun r => { r with comp := min 255 (256 * sumNats (gs.map size) / (128 * gs.length)) }

/-- The decrement of the dependency counter that an operation names: it reaches the counter at the end of the tick, after every depset
of that tick (R139). -/
def State.decrement (s : State) (o : Op) : State :=
  if o.replay.isSome || o.ctr == 0 then s
  else { s with sq := { s.sq with decs := s.sq.decs ++ [(o.sid, o.ctr, o.pc)] } }

/-- A decrement takes effect; a counter that is 0 stays, and an error record says so (R124). -/
def State.decrementNow (s : State) (d : Nat × Nat × Nat) : State :=
  match s.stream? d.1 with
  | none => s
  | some x =>
    if !s.mapped (d.1 / 16) then s
    else if x.ctr d.2.1 = 0 then s.streamNote d.1 d.2.2 13 0xd0 d.2.1
    else s.modStream d.1 fun y => { y with ctrs := vset y.ctrs d.2.1 (y.ctr d.2.1 - 1) }

/-- The decrements of some streams' completions take effect, in the order of the completions. -/
def State.applyDecsOf (s : State) (mine : Nat → Bool) : State :=
  (s.sq.decs.filter fun d => mine d.1).foldl State.decrementNow { s with sq := { s.sq with decs := s.sq.decs.filter fun d => !mine d.1 } }

/-- The decrements of a tick of die v take effect. -/
def State.applyDecs (s : State) (v : Nat) : State := s.applyDecsOf fun sid => sid / 16 == v

/-- Forgets an operation, its barges and its barrier rounds. -/
def State.forgetOp (s : State) (id : Nat) : State :=
  { s with sq := { s.sq with ops := s.sq.ops.filter fun o => o.id != id } }

/-- An operation completes: its stores have been performed at their homes (R140), the tensors it wrote are measured, its counter falls,
its parameters' busy counts fall (R126), its bracket or replay may end, and a halted stream may be done. -/
def State.completeOp (s : State) (id : Nat) : State :=
  match s.op? id with
  | none => s
  | some o =>
    let tensors := ((s.sq.wrote.filter fun w => w.1 == id).map fun w => storeTensor (w.2 * 128)).eraseDups
    let s1 := tensors.foldl (fun u t => u.measure id t) s
    let s2 : State := { s1 with
      sq := { s1.sq with wrote := s1.sq.wrote.filter fun w => w.1 != id,
                         barges := s1.sq.barges.filter fun b => b.op != id },
      wk := { s1.wk with rounds := s1.wk.rounds.filter fun r => r.op != id } }
    let s3 := (s2.modOp id fun p => { p with done := true, queued := false, since := s.dieTick o.die }).decrement o
    let s4 := if o.replay.isNone then s3.lowerAll (keysOf o.params) else (keysOf o.params).foldl State.settle s3
    let s5 :=
      match o.replay, o.bracket with
      | some r, _ => if (s4.replay? r).isSome then s4 else s4.forgetOp id
      | none, some b => s4.finishBracket b
      | none, none => s4.forgetOp id
    s5.finishStream o.sid

/-! ### Retirement (R23) -/

def State.bargeSid (s : State) (b : Barge) : Nat := ((s.op? b.op).map (·.sid)).getD 0

/-- Whether a barge of a stream runs or is being saved. -/
def State.bargesRun (s : State) (sid : Nat) : Bool :=
  s.sq.barges.any fun b => s.bargeSid b == sid && (b.st == .placed || b.st == .saving)

/-- SUSPEND is done once every barge of the stream is saved (Table 25.5). -/
def State.settleSuspend (s : State) (sid : Nat) : State :=
  match s.stream? sid with
  | some x => if x.cmdst = 3 && !s.bargesRun sid then s.modStream sid fun y => { y with cmdst := 0 } else s
  | none => s

/-- Whether a halted task's scratchpad operation may be abandoned: one that is performed and owes no fault (R163), or a remote wait or
bar.wait, whose result no one reads. -/
def LsOp.idle (o : LsOp) : Bool := (o.done.isSome && o.late.isNone) || (lsWaits o.code).isSome || o.code == 27

/-- Whether no port of a context buffers a write that still has to be made: its F/E pushes may be abandoned. -/
def Ctx.buffersIdle (x : Ctx) : Bool := (List.range 4).all fun j =>
  match vget x.r.binds (4 + j) none with
  | some b => b.buf.all (·.fe)
  | none => true

/-- Whether every engine command of a context has completed, and its stores may be settled. -/
def State.ctxQuiet (s : State) (c : Nat) : Bool :=
  !(s.wk.tiles.any fun k => k.ctx == c) && !(s.wk.mx.any fun o => o.ctx == c) && !(s.wk.rw.any fun r => r.ctx == c) &&
  !(s.wk.guestCmds.any fun g => !g.isStream && some g.src == (s.ctx? c).map Ctx.pid) && !(s.wk.cbLoads.any fun l => l.ctx == c) &&
  !(s.wk.gv.any fun o => o.ctx == c) && !(s.wk.pubs.any fun p => p.ctx == c) &&
  (s.wk.ls.filter fun o => o.ctx == c).all LsOp.idle &&
  match s.ctx? c with
  | some x => (x.gate.all fun g => g.released && !s.msaHeld c g) && x.buffersIdle
  | none => true

/-- Performs what is left in the gate of a task that has ended. -/
def State.flushGate (s : State) (c : Nat) : State :=
  match s.ctx? c with
  | none => s
  | some x =>
    let s1 := s.putCtx c { x with gate := [] }
    x.gate.foldl (fun t g => if g.isGlobal then t.performGlobal c x g else t.scratchStore g.cells g.poi) s1

/-- Frees contexts. -/
def State.freeCtxs (s : State) (cs : List Nat) : State :=
  { s with ctxs := s.ctxs.filter fun p => !cs.contains p.1,
           wk := { s.wk with ls := s.wk.ls.filter fun o => !cs.contains o.ctx,
                             fprWaits := s.wk.fprWaits.filter fun f => !cs.contains f.ctx } }

/-- Releases the row slots of a barge on every core (R260). -/
def State.freeRows (s : State) (b : Barge) : State :=
  ((b.ctxs.map coreOf).eraseDups).foldl (fun t core => t.modCore core fun k =>
    { k with slotOwner := k.slotOwner.filter fun p => p.2.1 != b.id }) s

/-- Publishes and drains every store that a barge still holds (R229, R273, R279). -/
def State.drainBarge (s : State) (b : Nat) : State :=
  ((s.publishVer (fun h => h.barge == b) fun _ => true)).drainWhere fun h => h.barge == b

/-- The replicas that a barge placed are dropped (R331). -/
def State.dropReplicas (s : State) (b : Nat) : State :=
  { s with ms := { s.ms with replicas := s.ms.replicas.filter fun r => r.2.2 != b } }

/-- Whether other barges of the same kernel image are on the barge's die (R324). -/
def State.lastOfKernel (s : State) (b : Barge) (image : Nat) : Bool :=
  !s.sq.barges.any fun c => c.id != b.id && c.die == b.die && c.st != .retired && ((s.op? c.op).map fun o => o.image == image).getD false

/-- What a barge's tasks have stored leaves for its home; a suspended barge holds no contexts, and nothing of it is in a store gate. -/
def State.settleStores (s : State) (b : Barge) : State :=
  (if b.save.isSome then s else b.ctxs.foldl State.flushGate s).drainBarge b.id

/-- Retires a barge whose stores have been performed: its contexts are free together, its slots, replicas and save areas are released, and with the last barge its
operation completes. -/
def State.retire (s : State) (b : Barge) : State :=
  let s1 := s.freeRows b
  let s2 := if b.save.isSome then s1 else s1.freeCtxs b.ctxs
  let s3 := s2.dropReplicas b.id
  let s4 := if s3.lastOfKernel b (((s3.op? b.op).map Op.image).getD 0) then
      s3.cleanTlb (fun core _ => some (stackOf core) == s3.stackOfDie b.die) false else s3
  let s5 := (s4.modBarge b.id fun g => { g with st := .retired, save := none, books := [] }).modOp b.op fun o =>
    { o with retired := o.retired + 1 }
  let s6 := if b.save.isSome then s5.noteRelease b.die else s5
  let s7 := s6.settleSuspend (s.bargeSid b)
  if ((s7.op? b.op).map fun o => o.retired == o.gridG).getD false then s7.completeOp b.op else s7

/-- Whether a suspended barge has nothing left to run. -/
def Save.quiet (w : Save) : Bool :=
  w.ctxs.all (fun p => p.2.halted && p.2.gate.isEmpty && p.2.buffersIdle) && w.ls.all LsOp.idle && w.gv.isEmpty && w.pubs.isEmpty &&
  w.tiles.isEmpty && w.mx.isEmpty && w.rw.isEmpty && w.pushes.isEmpty

/-- The barge retires once its last stores are performed (R140): some may still be held at their homes or on their way (R340, R345). -/
def State.retireWhenDrained (s : State) (b : Barge) : State :=
  let s1 := s.settleStores b
  if s1.ms.held.any fun h => h.barge == b.id then s1 else s1.retire b

/-- BARGE_RETIRE: every task of the barge has halted and every engine command of its tasks has completed. -/
def execBargeRetire (id : Nat) (s : State) : Out :=
  match s.barge? id with
  | none => .next s
  | some b =>
    if s.moving (s.bargeSid b / 16) then .next s else
    match b.st, b.save with
    | .placed, _ =>
      if b.ctxs.all fun c => ((s.ctx? c).map (·.halted)).getD true && s.ctxQuiet c then .next (s.retireWhenDrained b) else .next s
    | .suspended, some w =>
      if w.quiet && !(s.wk.guestCmds.any fun g => !g.isStream && g.src / 2 ^ 10 == b.id) then .next (s.retireWhenDrained b) else .next s
    | _, _ => .next s

/-! ### COMPLETION_RECORD_POST (R355) -/

/-- COMPLETION_RECORD_POST: the first waiting record is posted once the window has room. -/
def execCompletionRecordPost (s : State) : Out :=
  match s.hs.cwWait with
  | [] => .next s
  | (r, after) :: rest =>
    if windowFull s.hs then .next s
    else .next ((({ s with hs := { s.hs with cwWait := rest } }).writeRecord r after).afterRecord after)

end Sys2Proof.Machine
end

