-- ==== Sys2Proof/Machine/Engines.lean ====
section
/-! DEFINITION. Operations without barges (R130, R132 to R136): their start, what the transfer engines compute, collectives, and their
completion. -/
namespace Sys2Proof.Machine
open Sys2Proof

/-! ### Elements at their homes -/

/-- An element as its home holds it. -/
def State.homeElem (s : State) (t : Nat) (r : Rec) (row col : Nat) : TElem :=
  let e := r.elemBit row col
  let bs := (List.range (ceilDiv r.width 8)).map fun i => s.homeByte (storeAddr t (e / 8 + i))
  let sc := if isMx r.fmt then s.homeByte (storeAddr t (r.scaleByte row col)) else (127, false)
  { row := row, col := col, bits := bitsOf (bs.map Prod.fst) (e % 8) r.width, scale := sc.1.toNat, bad := bs.any Prod.snd || sc.2 }

/-- What an operation reads of the tensors that others have written since its start: any mix of old and new elements (R127). The state is
only read from. -/
def State.mixed (s : State) (o : Op) : State :=
  let w (t : Nat) : Nat := max 1 (((s.rec? t).map (·.width)).getD 8 / 8)
  o.old.foldl (fun u c =>
    if Config.freeBit (s.freeNo + storeOff c.1 / w (storeTensor c.1)) then u.homeSet c.1 c.2 else u) s

/-- Stores elements of a tensor at their homes for an operation: a byte that a poisoned element shares is poisoned (R376). On a VER page
the store is one event, which raises the version of each line once (R229, R279, log entry 68); at an MSA page each line's request is
counted (R341). -/
def State.putElems (s : State) (op t : Nat) (r : Rec) (es : List TElem) : State :=
  let cs := elemCells t r (fun off => (s.homeByte (storeAddr t off)).1) es
  let as := cs.1.map Prod.fst
  let s1 := (s.noteWriteOp op as).homeStore cs.1 cs.2
  let lines := (as.map lineOf).eraseDups
  let s2 := if r.msa then s1.countLines as else s1
  if r.ver then s2.bumpLines lines else s2

/-- The places of a tensor's view. -/
def Rec.places (r : Rec) : List (Nat × Nat) := (List.range r.rows).flatMap fun i => (List.range r.d0).map fun j => (i, j)

/-- The requests for the lines of a tensor. -/
def State.touchTensor (s : State) (t : Nat) (r : Rec) : State :=
  s.touch ((List.range (ceilDiv r.bytes 64)).map fun k => storeAddr t (64 * k))

/-! ### xform (R130) -/

def TElem.value (r : Rec) (e : TElem) : FV := elemValueScaled r.fmt r.intFmt e.scale e.bits

/-- The elements of the destination of kinds 0, 1 and 4. A value that the manual does not state is free, counted from n: the
scales of a transposed MX tensor, and bits copied between integer widths that differ. -/
def State.xformElems (s : State) (kind n a : Nat) (dst src : Rec) : List TElem :=
  match kind with
  | 0 => src.places.map fun p =>
      let e := s.homeElem a src p.1 p.2
      { e with bits := elemBits dst.fmt dst.intFmt .rne (e.value src) }
  | 1 => dst.places.map fun p =>
      let outer := p.1 / dst.d1
      let e := s.homeElem a src (outer * src.d1 + p.2) (p.1 % dst.d1)
      { row := p.1, col := p.2, bad := e.bad,
        bits := if dst.width = src.width then e.bits else (Config.freeWord (n + 2 * (p.1 * dst.d0 + p.2))).toNat,
        scale := if isMx dst.fmt then (Config.freeWord (n + 2 * dst.scaleByte p.1 p.2 + 1)).toNat % 256 else 127 }
  | _ => (List.range src.rows).flatMap fun i =>
      let es := (List.range src.d0).map fun j => s.homeElem a src i j
      let q := mxRow dst.fmt true (es.map fun e => e.value src)
      (List.range src.d0).map fun j =>
        { row := i, col := j, bits := q.1.getD j 0, scale := q.2.getD (j / 32) 0,
          bad := (List.range 32).any fun k => ((es[j / 32 * 32 + k]?).map (·.bad)).getD false }

/-- An operation has read its inputs: what it has still to store. -/
def State.fixOut (s : State) (op : Nat) (es : List (Nat × TElem)) : State := s.modOp op fun x => { x with out := some es }

/-- Converts, transposes or requantises (kinds 0, 1, 4). -/
def State.transform (s : State) (op : Op) (kind : Nat) (hs hd : Word) : State :=
  match s.rec? (handleKey hs), s.rec? (handleKey hd) with
  | some src, some dst =>
    let es := (s.mixed op).xformElems kind (s.freeNo + 2 ^ 50) (handleKey hs) dst src
    ({ s with freeNo := s.freeNo + 2 ^ 51 }.touchTensor (handleKey hs) src).fixOut op.id
      (if isDiscard hd then [] else es.map fun e => (handleKey hd, e))
  | _, _ => s.fixOut op.id []

/-- Kind 2: a tensor in RES_H, neither pinned nor VER nor MSA, is compressed (R130, R338). -/
def State.compressOp (s : State) (t : Nat) : State :=
  match s.rec? t with
  | none => s
  | some r => if r.st = .resH ∧ r.pin = 0 ∧ !r.ver ∧ !r.msa then s.compressStorage t else s

/-- Kind 3: a tensor in COMP_H is expanded once its pages are granted; when they cannot be, an error record says so. -/
def State.expandOp (s : State) (o : Op) (t : Nat) : State :=
  match s.rec? t with
  | none => s.completeOp o.id
  | some r =>
    match o.tierFull with
    | some bytes => (s.streamNote o.sid o.pc 9 0x91 bytes).completeOp o.id
    | none =>
      if r.st ≠ .compH then (s.dropAllocsOf (.op o.id)).completeOp o.id
      else
        match s.askH (t / 2 ^ 20) (s.expandNeed t r.pages) (.op o.id) (some t) none with
        | (some _, s1) => s1
        | (none, s1) => ((s1.dropAllocsOf (.op o.id)).expandStorage t).completeOp o.id

/-! ### route (R132) -/

/-- Zero or NaN, of either sign. -/
def gateOut (w : Nat) : Bool := w % 2 ^ 31 == 0 || 0x7f800000 < w % 2 ^ 31

/-- The outputs of route for ids (flat, signed) and gates: permutation rows, counts, offsets. -/
def routeRows (experts : Nat) (ids : List Int) (gates : List Nat) : List Nat × List Nat × List Nat :=
  let xs := List.range ids.length
  let inc (x : Nat) : Bool := 0 ≤ ids.getD x 0 && ids.getD x 0 < experts && !gateOut (gates.getD x 0)
  let of_ (e : Nat) : List Nat := xs.filter fun x => inc x && ids.getD x 0 == (e : Int)
  let out := xs.filter fun x => !inc x
  let counts := ((List.range experts).map fun e => (of_ e).length) ++ [out.length]
  let offsets := (List.range (experts + 1)).map fun e => sumNats (counts.take e)
  ((List.range experts).flatMap of_ ++ out, counts, offsets)

/-- Elements of a linear tensor by flat index, with their marks. -/
def flatElems (r : Rec) (xs : List (Nat × Bool)) : List TElem :=
  (List.range xs.length).map fun i =>
    let x := xs.getD i (0, false)
    { row := i / r.d0, col := i % r.d0, bits := x.1, scale := 127, bad := x.2 }

/-- route: an output word is poisoned when an assignment that it lists or counts has a poisoned id or gate (R376, log entry 128). -/
def State.route (s : State) (op : Op) (experts : Nat) (hs : List Word) : State :=
  match hs.map fun h => (handleKey h, s.rec? (handleKey h), isDiscard h) with
  | [(ti, some ids, _), (tg, some gates, _), (tp, perm, dp), (tc, counts, dc), (tf, offsets, df)] =>
    let m := s.mixed op
    let ie := ids.places.map fun p => m.homeElem ti ids p.1 p.2
    let ge := gates.places.map fun p => m.homeElem tg gates p.1 p.2
    let bad (x : Nat) : Bool := ((ie[x]?).map (·.bad)).getD false || ((ge[x]?).map (·.bad)).getD false
    let gb := ge.map (·.bits)
    let r := routeRows experts (ie.map fun e => (BitVec.ofNat 16 e.bits).toInt) gb
    let at_ (e : Nat) : Nat := r.2.2.getD e 0
    let out (t : Nat) (q : Option Rec) (d : Bool) (xs : List (Nat × Bool)) : List (Nat × TElem) :=
      match q with
      | some x => if d then [] else (flatElems x xs).map fun e => (t, e)
      | none => []
    ((({ s with freeNo := s.freeNo + 2 ^ 50 } : State).touchTensor ti ids).touchTensor tg gates).fixOut op.id
      (out tp perm dp (r.1.flatMap fun x => [(x, bad x), (gb.getD x 0, bad x)]) ++
       out tc counts dc ((List.range (experts + 1)).map fun e =>
         (r.2.1.getD e 0, ((r.1.drop (at_ e)).take (r.2.1.getD e 0)).any bad)) ++
       out tf offsets df ((List.range (experts + 1)).map fun e => (at_ e, (r.1.take (at_ e)).any bad)))
  | _ => s.fixOut op.id []

/-! ### Collectives (R133 to R135, R359) -/

/-- The group and the place in its sequence of a collective. -/
def Op.collective (o : Op) : Option (Nat × Nat) :=
  match o.kind with
  | .a2av g n => some (g, n)
  | .coll _ g n => some (g, n)
  | _ => none

/-- What paired instructions must agree in: the instruction and its kind. -/
def Op.collKind (o : Op) : Nat :=
  match o.kind with
  | .coll k _ _ => k
  | _ => 3

/-- A rank of a group: a local die or a peer port. -/
def rankLocal (e : BitVec 16) : Option Nat := if e.getLsbD 15 then none else some (e.toNat % 8)
def rankPort (e : BitVec 16) : Nat := e.toNat / 2 ^ 12 % 8

/-- The operation of the same collective on a die. -/
def State.partner (s : State) (g n v : Nat) : Option Op :=
  s.sq.ops.find? fun o => o.collective == some (g, n) && o.die == v && o.replay.isNone && !o.done

/-- One rank's part of a collective. src and dst are none for a peer; its message is then msg, as each local rank received
it. -/
structure Part where
  rank : Nat
  op : Option Op
  deriving DecidableEq, Repr

def Op.srcKey (o : Op) : Nat := handleKey ((o.params.getD 0 (0, false)).1)
def Op.dstKey (o : Op) : Nat := handleKey ((o.params.getLastD (0, false)).1)
def Op.countsKey (o : Op) : Nat := handleKey ((o.params.getD 1 (0, false)).1)

/-- The local ranks of a group with their operations of the collective, none when one has not been started. -/
def State.localParts (s : State) (g n : Nat) : List (Nat × Nat) → Option (List Part)
  | [] => some []
  | (i, v) :: rest =>
    match s.partner g n v, s.localParts g n rest with
    | some o, some ps => if o.started then some ({ rank := i, op := some o } :: ps) else none
    | _, _ => none

def State.localRanks (s : State) (g : Nat) : List (Nat × Nat) :=
  (List.range (s.group g).length).filterMap fun i => (rankLocal ((s.group g).getD i 0)).map fun v => (i, v)
def State.peerRanks (s : State) (g : Nat) : List Nat :=
  (List.range (s.group g).length).filter fun i => (rankLocal ((s.group g).getD i 0)).isNone

/-- Q raw int32 counts of a rank, with their marks. -/
def State.countsOf (s : State) (o : Op) (q : Nat) : List (Int × Bool) :=
  match s.rec? o.countsKey with
  | some r => (List.range q).map fun i =>
      let e := s.homeElem o.countsKey r (i / r.d0) (i % r.d0)
      ((BitVec.ofNat 32 e.bits).toInt, e.bad)
  | none => []

def sumInts (xs : List Int) : Int := xs.foldl (· + ·) 0

/-- Whether a rank's own source and destination agree as its instruction requires (R134, R135). -/
def formatsOk (kind : Nat) (src dst : Rec) : Bool :=
  match kind with
  | 3 => src.d0 == dst.d0 && src.fmt == dst.fmt && src.width == dst.width
  | 1 => src.fmt == dst.fmt && src.width == dst.width && src.linear == dst.linear
  | _ => src.fmt < 2 && dst.fmt < 2

/-- Whether two ranks' instructions pair (R133, R135). -/
def pairsWith (a b : Op) (ra rb da db : Rec) : Bool :=
  a.collKind == b.collKind && ra.fmt == rb.fmt && da.fmt == db.fmt && ra.d0 == rb.d0 && ra.width == rb.width &&
  (a.collKind == 3 || (sameDims ra rb && sameDims da db))

/-- The counts that each rank of an a2av sends, by rank: its own for a local rank, its message for a peer. -/
def State.countTable (s : State) (q : Nat) (ps : List Part) (o : Op) : List (List (Int × Bool)) :=
  (List.range q).map fun i =>
    match (ps.find? fun p => p.rank == i).bind (·.op) with
    | some w => s.countsOf w q
    | none => ((o.msgs.find? fun m => m.rank == i).map (·.counts)).getD []

/-- The offending total of a local rank in an a2av, none when it does not fail. -/
def State.a2avFail (s : State) (q : Nat) (table : List (List (Int × Bool))) (i : Nat) (o : Op) : Option Int :=
  let tab := table.map fun c => c.map Prod.fst
  match s.rec? o.srcKey, s.rec? o.dstKey with
  | some src, some dst =>
    let mine := tab.getD i []
    let coming := sumInts (tab.map fun c => c.getD i 0)
    if !formatsOk 3 src dst then some 0
    else if mine.any (fun c => decide (c < 0)) || (src.d1 : Int) < sumInts mine then some (sumInts mine)
    else if (dst.d1 : Int) < coming then some coming else none
  | _, _ => some (q : Int)

/-- A late fault of a collective: the operation ends with no data moved and no decrement, and its stream stops with SQ_OPERAND at
the instruction (R133), which has had no effect (R111, R143): the ordinal, and the records of its parameters, are as before (log
entry 111). -/
def State.failColl (s : State) (o : Op) (value : Int) : State :=
  let s1 := o.undo.foldl State.undo ((s.forgetOp o.id).lowerAll (keysOf o.params))
  let s2 := s1.modStream o.sid fun y => { y with pc := o.pc, ordinal := y.ordinal - 1 }
  let lists := ((s2.stream? o.sid).bind (·.image.uses)).getD []
  let back (r : Rec) : Rec := match r.use with
    | some w => if w.sid = o.sid then { r with use := some { w with pos := 0 } }.advanceUse lists (s2.ordinalOf o.sid) else r
    | none => r
  { s2 with sq := { s2.sq with recs := s2.sq.recs.map fun (p : Nat × Rec) => (p.1, back p.2) } }.sqFault o.sid 2 0x23 0
    (BitVec.ofInt 64 value).toNat

/-- Every local rank of a collective faults. -/
def State.failAll (s : State) (ps : List Part) (value : Nat → Int) : State :=
  ps.foldl (fun u p => match p.op with
    | some o => u.failColl o (value p.rank)
    | none => u) s

/-- The elements of n rows of a tensor from a row on. -/
def State.rowElems (s : State) (t : Nat) (r : Rec) (row n : Nat) : List TElem :=
  (List.range n).flatMap fun i => (List.range r.d0).map fun j => s.homeElem t r (row + i) j

/-- An element as peer messages carry it: its bits in whole bytes, then its scale byte in an MX format (log entry 40). -/
def unpackElems (r : Rec) (bs : List (Byte × Bool)) : List TElem :=
  let w := ceilDiv r.width 8
  let n := w + (if isMx r.fmt then 1 else 0)
  (List.range (bs.length / n)).map fun i =>
    let e := (bs.drop (i * n)).take n
    { row := 0, col := 0, bits := leNat ((e.map Prod.fst).take w) % 2 ^ r.width, scale := ((e.map Prod.fst).getD w 127).toNat,
      bad := e.any Prod.snd }

/-- Lays elements out in rows of a tensor from a row on. -/
def layRows (r : Rec) (row : Nat) (es : List TElem) : List TElem :=
  (List.range es.length).map fun i =>
    { (es.getD i { row := 0, col := 0, bits := 0, scale := 127, bad := false }) with row := row + i / r.d0, col := i % r.d0 }

/-- What rank i of an a2av receives, in ascending sender (R134). Rows that a poisoned count picks are poisoned (R376, log entry 128). -/
def State.a2avRows (s : State) (q : Nat) (ps : List Part) (tab : List (List (Int × Bool))) (i : Nat) (o : Op) (dst : Rec) : List TElem :=
  (List.range q).flatMap fun k =>
    let row := tab.getD k []
    let n := ((row.map Prod.fst).getD i 0).toNat
    let bad := (row.take (i + 1)).any Prod.snd
    List.map (fun e : TElem => { e with bad := e.bad || bad }) <|
    match (ps.find? fun p => p.rank == k).bind (·.op) with
    | some w =>
      match s.rec? w.srcKey with
      | some src => s.rowElems w.srcKey src (sumInts ((row.map Prod.fst).take i)).toNat n
      | none => []
    | none => ((((o.msgs.find? fun m => m.rank == k).map fun m => unpackElems dst m.data).getD []).take (n * dst.d0))

/-- The elements of a rank's whole source in row order. -/
def State.sourceOf (s : State) (ps : List Part) (o : Op) (src : Rec) (k : Nat) : List TElem :=
  match (ps.find? fun p => p.rank == k).bind (·.op) with
  | some w => match s.rec? w.srcKey with
    | some r => s.rowElems w.srcKey r 0 r.rows
    | none => []
  | none => ((o.msgs.find? fun m => m.rank == k).map fun m => unpackElems src m.data).getD []

/-- Adds words in an order that is free: each step takes two of what is left, picked by the count n (R135, R283). -/
def freeSum : Nat → Nat → List Word → Word
  | 0, _, xs => xs.headD 0
  | fuel + 1, n, xs =>
    match xs with
    | [] => 0
    | [x] => x
    | _ =>
      let i := (Config.freeWord n).toNat % xs.length
      let rest := xs.eraseIdx i
      let j := (Config.freeWord (n + 1)).toNat % rest.length
      freeSum fuel (n + 2) (rest.eraseIdx j ++ [addF32 (xs.getD i 0) (rest.getD j 0)])

/-- The destination elements of a local rank i in a coll (R135). The order of the additions of an element is free, and one order serves all
local ranks, so that their results agree (DESIGN CHOICE, log entry 110). -/
def State.collElems (s : State) (kind q : Nat) (ps : List Part) (i : Nat) (o : Op) (src dst : Rec) : List TElem :=
  let all := (List.range q).map (s.sourceOf ps o src)
  match kind with
  | 1 => (List.range q).flatMap fun k =>
      let es := all.getD k []
      (List.range es.length).map fun x =>
        let row := x / src.d0
        { (es.getD x { row := 0, col := 0, bits := 0, scale := 127, bad := false }) with
            row := row / src.d1 * dst.d1 + k * src.d1 + row % src.d1, col := x % src.d0 }
  | _ => dst.places.map fun p =>
      let row := if kind = 2 then p.1 / dst.d1 * src.d1 + i * dst.d1 + p.1 % dst.d1 else p.1
      let es := all.map fun xs => xs.getD (row * src.d0 + p.2) { row := 0, col := 0, bits := 0, scale := 127, bad := false }
      let sum := freeSum q (s.freeNo + 2 * q * (row * src.d0 + p.2)) (es.map fun e => f32 (elemValue src.fmt src.intFmt e.bits))
      { row := p.1, col := p.2, bits := elemBits dst.fmt dst.intFmt .rne (ofF32 sum), scale := 127, bad := es.any (·.bad) }

/-- What a collective stores on one local rank, as the sources of u stood. -/
def State.moveOne (s u : State) (kind q : Nat) (ps : List Part) (tab : List (List (Int × Bool))) (p : Part) : State :=
  match p.op with
  | none => s
  | some o =>
    match u.rec? o.srcKey, u.rec? o.dstKey with
    | some src, some dst =>
      let es := if kind = 3 then layRows dst 0 (u.a2avRows q ps tab p.rank o dst) else u.collElems kind q ps p.rank o src dst
      (s.touchTensor o.srcKey src).fixOut o.id (es.map fun e => (o.dstKey, e))
    | _, _ => s

/-- Whether the instructions of the local ranks pair and every rank's own operands are fit. -/
def State.collAgrees (s : State) (o : Op) (ps : List Part) : Bool :=
  match s.rec? o.srcKey, s.rec? o.dstKey with
  | some ra, some da =>
    ps.all fun p => match p.op with
      | some w => match s.rec? w.srcKey, s.rec? w.dstKey with
        | some rb, some db => pairsWith o w ra rb da db && (w.collKind == 3 || formatsOk w.collKind rb db)
        | _, _ => false
      | none => false
  | _, _ => false

/-- One attempt of a collective: it waits for every local rank and for the messages of every peer, fails on every rank, or reads
its data for all local ranks at once. -/
def State.collective (s : State) (o : Op) (g n : Nat) : State :=
  let q := (s.group g).length
  match s.localParts g n (s.localRanks g) with
  | none => s
  | some ps =>
    let peers := s.peerRanks g
    if peers.any (fun i => vget s.pkg.peers (rankPort ((s.group g).getD i 0)) 0 != 2) then s.failAll ps fun _ => 0
    else if !s.collAgrees o ps || ps.any (fun p => (p.op.map fun w => w.msgs.any fun m => !m.ok).getD false) then s.failAll ps fun _ => 0
    else if ps.any fun p => peers.any fun i => !(p.op.map fun w => w.msgs.any fun m => m.rank == i).getD false then s
    else
      let tab := if o.collKind = 3 then s.countTable q ps o else []
      let bad (p : Part) : Option Int := if o.collKind = 3 then p.op.bind fun w => s.a2avFail q tab p.rank w else none
      let peerBad := o.collKind == 3 && peers.any fun i => (tab.getD i []).any fun c => decide (c.1 < 0)
      if peerBad || ps.any fun p => (bad p).isSome then
        s.failAll ps fun i => ((ps.find? fun p => p.rank == i).bind bad).getD 0
      else
        let v := ps.foldl (fun u p => (p.op.map u.mixed).getD u) s
        let s1 := ps.foldl (fun u p => u.moveOne { v with freeNo := s.freeNo + 2 ^ 50 } o.collKind q ps tab p) s
        { s1 with freeNo := s.freeNo + 2 ^ 51 }

/-! ### gop (R136, R362) -/

/-- The first 52 bytes of the packet of a gop; the site adds the identity block. -/
def gopPacket (opcode : Nat) (hs : List Word) : List Byte :=
  leBytes 2 opcode ++ leBytes 1 hs.length ++ leBytes 1 0 ++ (List.range 4).flatMap (fun i => wordBytes (hs.getD i 0)) ++
  (List.range 4).flatMap fun i => List.replicate 8 (if i < hs.length then 0xff#8 else 0#8)

/-- A packet that the device completes itself, with a status. -/
def madePacket (seq : Word) (status : Nat) (opcode : BitVec 16) : GuestPacket where
  seq := seq
  status := BitVec.ofNat 16 status
  opcode := opcode
  count0 := 0
  count1 := 0
  count2 := 0
  count3 := 0
  value := 0

/-- Hands the packet of a gop to the guest queue; a guest that has been fenced meanwhile completes it at once (R368). -/
def State.startGop (s : State) (o : Op) (opcode : Nat) : State :=
  let (id, s1) := s.ticket
  let fenced := !s.hs.guest.st.usable
  let g : GuestCmd :=
    { id := id, src := o.id, isStream := true, core := 0, addr := 0, bno := o.pc, pkt := gopPacket opcode (o.params.map Prod.fst), comp := 0,
      flag := o.ctr, seq := none, ingress := false, accepted := false, checkpointed := false,
      done := if fenced then some (madePacket 0 0x8002 (BitVec.ofNat 16 opcode)) else none }
  { s1 with wk := { s1.wk with guestCmds := s1.wk.guestCmds ++ [g] } }

/-- A gop whose completion packet has arrived completes; a status other than success is an error record (R136). -/
def State.finishGop (s : State) (o : Op) : State :=
  match s.wk.guestCmds.find? fun g => g.isStream && g.src == o.id with
  | none => s
  | some g =>
    match g.done with
    | none => s
    | some p =>
      let s1 : State := { s with wk := { s.wk with guestCmds := s.wk.guestCmds.filter fun h => h.id != g.id } }
      (if p.status = 0 then s1 else s1.streamNote o.sid o.pc 12 0xc0 p.status.toNat).completeOp o.id

/-! ### The two events -/

/-- LAUNCHED_OP_START: an operation without barges starts on its engines and leaves the launch queue (R112). The gops of a stream start in
the order of their dispatch, so that their packets reach the guest in it (R364). -/
def execLaunchedOpStart (id : Nat) (s : State) : Out :=
  match s.op? id with
  | none => .next s
  | some o =>
    if o.started || o.done then .next s
    else
      let s1 := s.modOp id fun p => { p with started := true, queued := false, since := s.pkg.ioTick }
      match o.kind with
      | .opr .. => .next s
      | .gop opcode =>
        let isGop (p : Op) : Bool := match p.kind with
          | .gop _ => true
          | _ => false
        if s.sq.ops.any fun p => p.sid == o.sid && p.id < id && isGop p && !p.started then .next s else .next (s1.startGop o opcode)
      | _ => .next s1

/-- Whether a request of an operation is behind a retried request to the same sector (R335, R346). -/
def State.opRetried (s : State) (o : Op) : Bool :=
  s.retrying.any fun r => (keysOf o.params).contains (storeTensor (r.sector * 64))

/-- Whether a transfer engine may work at an operation. -/
def State.engineFree (s : State) (o : Op) : Bool := o.started && !o.done && !s.moving (o.sid / 16) && !s.opRetried o

/-- An operation of the transfer engines reads its inputs, once; a collective as soon as all of its ranks are there. -/
def State.readInputs (s : State) (o : Op) : State :=
  let h (i : Nat) : Word := (o.params.getD i (0, false)).1
  if o.out.isSome then s
  else match o.kind with
    | .xform k _ => if k = 2 ∨ k = 3 then s else s.transform o k (h 0) (h 1)
    | .route e => s.route o e (o.params.map Prod.fst)
    | .a2av g n => s.collective o g n
    | .coll _ g n => s.collective o g n
    | _ => s

/-- Stores some of an operation's elements at their homes. -/
def State.landElems (s : State) (op : Nat) (es : List (Nat × TElem)) : State :=
  ((es.map Prod.fst).eraseDups).foldl (fun u t =>
    match u.rec? t with
    | some r => u.putElems op t r ((es.filter fun e => e.1 == t).map Prod.snd)
    | none => u) s

/-- Stores what an operation has still to store, and completes it. -/
def State.landAll (s : State) (op : Nat) : State :=
  match (s.op? op).bind (·.out) with
  | some es => ((s.landElems op es).fixOut op []).completeOp op
  | none => s

/-- The transfer engines store one element of an operation, or in an MX tensor the 32 that share its scale, before the others: an agent that
reads the tensor meanwhile meets any mix of old and new elements, and two operations that write it leave each element from either (R127). -/
def State.landOne (s : State) (id n : Nat) : State :=
  match s.op? id with
  | none => s
  | some o =>
    if !s.engineFree o then s
    else
      let s1 := s.readInputs o
      match (s1.op? id).bind (·.out) with
      | none => s1
      | some es =>
        match es[n % es.length]? with
        | none => s1
        | some u =>
          let mx := ((s1.rec? u.1).map fun r => isMx r.fmt).getD false
          let with_ (e : Nat × TElem) : Bool := e.1 == u.1 && sameRun mx u.2 e.2
          (s1.landElems id (es.filter with_)).fixOut id (es.filter fun e => !with_ e)

/-- LAUNCHED_OP_COMPLETE: a started operation has its effect and completes. -/
def execLaunchedOpComplete (id : Nat) (s : State) : Out :=
  match s.op? id with
  | none => .next s
  | some o =>
    if !s.engineFree o then .next s
    else
      let h : Word := (o.params.getD 0 (0, false)).1
      match o.kind with
      | .opr .. => .next s
      | .xform 2 _ => .next ((s.compressOp (handleKey h)).completeOp id)
      | .xform 3 _ => .next (s.expandOp o (handleKey h))
      | .gop _ => .next (s.finishGop o)
      | _ => .next ((s.readInputs o).landAll id)

end Sys2Proof.Machine
end

