-- ==== Sys2Proof/Machine/Sched.lean ====
section
/-! DEFINITION. Pre-emption and resume of barges (R27, R190, R200, R208, R258, R260, R307 to R313, Table 21.1). -/
namespace Sys2Proof.Machine
open Sys2Proof

/-! ### Which barges are pre-empted (R307) -/

/-- The contexts of a cluster that pre-emptions under way will free. -/
def State.savingOn (s : State) (v cl : Nat) : List Nat :=
  (s.sq.barges.filter fun b => b.die == v && b.cluster == cl && b.st == .saving).flatMap (·.ctxs)

/-- Takes barges in order until n contexts are usable; none when they do not suffice. -/
def State.enoughVictims (s : State) (p cl c n : Nat) : List Nat → List Barge → Option (List Barge)
  | freed, [] => if n ≤ (s.usable p cl c freed).length then some [] else none
  | freed, b :: bs =>
    if n ≤ (s.usable p cl c freed).length then some []
    else (s.enoughVictims p cl c n (freed ++ b.ctxs) bs).map (b :: ·)

/-- The barges of a cluster below a priority, in the order in which they are pre-empted. -/
def State.below (s : State) (v cl prio : Nat) : List Barge :=
  sortBy (fun a b => a.prio < b.prio || (a.prio == b.prio && b.seq < a.seq))
    (s.sq.barges.filter fun b => b.die == v && b.cluster == cl && b.st == .placed && b.prio < prio)

def Barge.cost (bs : List Barge) : Nat := sumNats (bs.map fun b => b.ctxs.length)

/-- The barges to pre-empt for the first launch of a die's placement list, when no cluster qualifies for it. -/
def State.victims (s : State) (v : Nat) : List Barge :=
  match s.stackOfDie v, s.placeList v with
  | some p, o :: _ =>
    match s.kernel? o.image with
    | none => []
    | some k =>
      if (s.bestCluster p k.contexts o.tasks).isSome then []
      else
        let choice := (List.range 6).foldl (fun (b : Option (List Barge)) cl =>
          if s.pkg.fencedClusters.contains (clusterKey p cl) then b
          else match s.enoughVictims p cl k.contexts o.tasks (s.savingOn v cl) (s.below v cl (s.prioOf o.sid)), b with
            | some bs, some cs => if Barge.cost bs < Barge.cost cs then some bs else b
            | some bs, none => some bs
            | none, _ => b) none
        choice.getD []
  | _, _ => []

/-! ### The save area (R311, R312) -/

/-- The live buffers of a barge on a core. -/
def State.liveBufs (s : State) (b : Barge) (k : Kernel) (core : Nat) : List BufEntry :=
  let pcs := (b.ctxs.filter fun c => coreOf c == core).filterMap fun c => (s.ctx? c).map fun x => x.r.pc
  k.plan.filter fun e => pcs.any fun pc => e.first ≤ pc && pc ≤ e.last

def Barge.cores (b : Barge) : List Nat := (b.ctxs.map coreOf).eraseDups

def CoreState.rowsOf (k : CoreState) (barge : Nat) : List (Nat × Nat) :=
  (k.slotOwner.filter fun p => p.2.1 == barge).map fun p => (p.1, p.2.2)

/-- The pages of a barge's save area. -/
def State.savePages (s : State) (b : Barge) (k : Kernel) : Nat :=
  let live := sumNats (b.cores.map fun c => sumNats ((s.liveBufs b k c).map (·.size)))
  let rows := sumNats (b.cores.map fun c => ((s.core c).rowsOf b.id).length)
  b.ctxs.length + ceilDiv (live + 4096 * rows) pageBytes

/-! ### PREEMPT (R308) -/

/-- Catches the results in flight of a context that stops, with their remaining counts; its pending format writes are what a resumed
context sees (R310, R147). -/
def Ctx.freeze (x : Ctx) : Ctx :=
  let y := x.land (x.last + 1)
  { y with flights := [], snap := y.inFlight, r := { y.r with fmt := applyFmt y.r.fmt y.r.fmtPend, fmtPend := [] }, marked := false }

/-- A core's part in the stop of a barge: a codebook take that has not happened is given up, and the codebook writes of the barge are
complete (R192). -/
def CoreState.stopped (k : CoreState) (b : Barge) : CoreState :=
  { k with take := if k.take.any fun q => b.ctxs.contains q.1 then none else k.take,
           banks := k.banks.map fun q => if q.owner = some b.id then q.settled else q }

/-- Issue stops for the contexts of a barge at their boundary. -/
def State.stopBarge (s : State) (b : Barge) : State :=
  let s1 := b.ctxs.foldl (fun t c => t.modCtx c Ctx.freeze) s
  let s2 := b.cores.foldl (fun t core => t.modCore core fun k => k.stopped b) s1
  s2.modBarge b.id fun g => { g with st := .saving, since := s.nextId }

/-- The request to pre-empt a barge is made: its save is due 20 µs of the die's timer later (R309). -/
def State.startSave (s : State) (b : Barge) : State :=
  s.modBarge b.id fun g => { g with saveBy := g.saveBy.orElse fun _ => some (s.dieTick b.die + 2000) }

/-- Whether a barge is to be pre-empted: for a launch of higher priority, because its stream is suspended, or because its stack is lost
(R307, R380). -/
def State.toPreempt (s : State) (b : Barge) : Bool :=
  b.st == .placed &&
  (s.moving b.die || (s.suspended (s.bargeSid b) && !s.sq.retryList.any fun e => e.1 == b.id) ||
   (s.victims b.die).any fun v => v.id == b.id)

/-- A barge that is to be pre-empted asks for its save area, and once that is granted stops. -/
def State.preempt (s : State) (id : Nat) : State :=
  match s.barge? id with
  | none => s
  | some b =>
    match s.kernel? (((s.op? b.op).map Op.image).getD 0) with
    | none => s
    | some k =>
      if !s.toPreempt b then
        (if b.st = .placed then (s.dropAllocsOf (.save id)).modBarge id fun g => { g with saveBy := none } else s)
      else
        let need := s.savePages b k
        let s1 := match s.allocOf (.save id) none with
          | some q => if q.granted && q.pages != need then s.dropAlloc q.id else s
          | none => s
        match (s1.startSave b).askH b.die need (.save id) none none with
        | (some _, s2) => s2
        | (none, s2) => s2.stopBarge b

/-- PREEMPT: a barge that is to be pre-empted asks for its save area, and once that is granted stops. -/
def execPreempt (id : Nat) (s : State) : Out := .next (s.preempt id)

/-! ### What remains outstanding at a save (Table 21.1) -/

/-- A matrix operation that a save withdraws: it, or an earlier one of its barge on the core, has not started and waits for a ring slot
(R258). -/
def State.mxWithdrawn (s : State) (barge : Nat) (o : MxOp) : Bool :=
  o.start.isNone && ((s.mxOf o.core).any fun e => e.id ≤ o.id && e.start.isNone &&
    match s.ctx? e.ctx with
    | some x => x.barge == barge && !s.slotsFull e
    | none => false)

/-- Whether everything that a context has outstanding is settled or may be withdrawn. -/
def State.ctxSettled (s : State) (c : Nat) : Bool :=
  match s.ctx? c with
  | none => true
  | some x =>
    ((s.wk.ls.filter fun o => o.ctx == c).all fun o => s.lsWithdrawn x o) &&
    ((s.wk.gv.filter fun o => o.ctx == c).all fun o => s.behind c o.id && !s.gvMay x o) &&
    ((s.wk.pubs.filter fun p => p.ctx == c).all fun p => s.behind c p.id && !s.pubReady x p) &&
    ((s.wk.tiles.filter fun k => k.ctx == c).all fun k => !k.started) &&
    !(s.wk.rw.any fun r => r.ctx == c) &&
    ((s.wk.mx.filter fun o => o.ctx == c).all (s.mxWithdrawn x.barge)) &&
    !(s.wk.cbLoads.any fun l => l.ctx == c) && !((s.core (coreOf c)).div.any fun d => d.1 == c) &&
    (match x.gate with
     | [] => true
     | g :: _ => g.released && !(s.mayDrain c x g && !(g.isGlobal && s.heldByPub c g.opId)))

/-- Whether a tile command has requests on their way: a load's next granule, a store's data once its source is read, a copy's or a
prefetch's lines. -/
def State.tileFlies (s : State) (k : TileCmd) : Bool :=
  k.sent.isSome && (if k.code ≤ 1 then s.mayLand k else k.code != 2 || s.allTaken k)

/-- Whether requests that left a die before ticket n are still outstanding (R27). -/
def State.crossDie (s : State) (v n : Nat) : Bool :=
  (s.wk.gv.any fun o => o.id < n && o.sent.isSome && s.dieOf o.ctx == v) ||
  (s.wk.tiles.any fun k => k.id < n && s.dieOf k.ctx == v && s.tileFlies k) ||
  (s.ms.held.any fun h => h.id < n && h.sent.isSome && h.die == v) ||
  s.ctxs.any fun e => s.dieOf e.1 == v && e.2.gate.any fun g => g.opId < n && g.sent.isSome

/-! ### SAVE_COMPLETE (R308 to R312) -/

/-- Takes the implicit marks of contexts whose earlier translations are done; a halted task takes its last. -/
def State.saveMarks (s : State) (b : Barge) : State :=
  b.ctxs.foldl (fun t c =>
    if ((t.ctx? c).map fun x => !x.marked).getD false && !t.untranslated c then t.takeMark c else t) s

def State.allMarked (s : State) (b : Barge) : Bool := b.ctxs.all fun c => ((s.ctx? c).map (·.marked)).getD true

/-- A withdrawn bar.wait gives up its place among the waiters, and keeps the rest of its timeout (R208). -/
def State.withdrawWait (s : State) (o : LsOp) : State × LsOp :=
  match o.arrived with
  | some a =>
    if o.code = 27 ∧ o.done.isNone then
      let bar := s.bar o
      (s.setBar o { bar with waiters := bar.waiters - 1 },
        { o with arrived := none, o := PV.ofWord (BitVec.ofNat 32 (a + o.o.scalar.toNat - s.holderCyc o)) o.o.bad })
    else (s, o)
  | none => (s, o)

def State.withdrawWaits (s : State) : List LsOp → State × List LsOp
  | [] => (s, [])
  | o :: os =>
    let p := s.withdrawWait o
    let q := p.1.withdrawWaits os
    (q.1, p.2 :: q.2)

/-- An address in the scratchpad of a cluster, from its first byte. -/
def localAddr (p : Nat) : Nat := p % (48 * 2 ^ 22)
def clusterAddr (core : Nat) : Nat := core / 48 * 48 * 2 ^ 22

/-- The physical addresses of a barge's live buffers. -/
def State.liveAddrs (s : State) (b : Barge) (k : Kernel) : List Nat :=
  b.cores.flatMap fun core => (s.liveBufs b k core).flatMap fun e =>
    (List.range e.size).map fun i => physAt k.bankMap (core / 48 * 48) (coreIdx core * 2 ^ 22 + e.bank * 2 ^ 18 + e.off + i)

/-- The words of a row slot with their marks. -/
def CoreState.rowWords (k : CoreState) (p : Nat) : List (Nat × Word × Bool) :=
  (List.range 1024).filterMap fun w =>
    let v := k.rowAt p w
    if v.1 == 0 && !v.2 then none else some (w, v.1, v.2)

/-- The contents of a barge's banks that the incoming kernel claims and whose generation has moved on go to their save areas (R190). -/
def State.saveBanks (s : State) (b : Barge) (mask : Nat) : State :=
  b.cores.foldl (fun t core => (List.range 4).foldl (fun u j =>
    let k := u.bank core j
    if mask / 2 ^ j % 2 = 1 ∧ k.owner = some b.id ∧ k.gen ≠ k.saved then
      (u.modBank core j fun q => { q with saved := q.gen }).modBarge b.id fun g =>
        { g with books := g.books.put (core * 4 + j) k.settled.book }
    else u) t) s

/-- Writes what a barge keeps into its save area and frees its contexts. -/
def State.saveBarge (s : State) (b : Barge) (k : Kernel) (pages mask : Nat) : State :=
  let mine (c : Nat) : Bool := b.ctxs.contains c
  let w := s.withdrawWaits (s.wk.ls.filter fun o => mine o.ctx)
  let s1 := w.1.saveBanks b mask
  let addrs := s1.liveAddrs b k
  let grains := (addrs.map (· / 32)).eraseDups
  let save : Save :=
    { ctxs := (List.range b.ctxs.length).filterMap fun i => (s1.ctx? (b.ctxs.getD i 0)).map fun x => (i, x),
      bytes := addrs.map fun p => (localAddr p, s1.byte p),
      full := (grains.filter fun g => s1.fbit (32 * g)).map fun g => localAddr (32 * g),
      marks := (grains.filter fun g => s1.poisonAt (32 * g)).map fun g => localAddr (32 * g),
      rows := b.cores.flatMap fun core => ((s1.core core).rowsOf b.id).map fun r => (coreIdx core, r.2, (s1.core core).rowWords r.1),
      ls := w.2,
      tiles := (s1.wk.tiles.filter fun t => mine t.ctx).map fun t => { t with listed := false, started := false, todo := [], sent := none, gated := [], got := [], out := none },
      fpr := s1.wk.fprWaits.filter fun f => mine f.ctx,
      mx := s1.wk.mx.filter fun o => mine o.ctx,
      rw := s1.wk.rw.filter fun o => mine o.ctx,
      gv := s1.wk.gv.filter fun o => mine o.ctx,
      pubs := s1.wk.pubs.filter fun o => mine o.ctx,
      pushes := (s1.wk.guestCmds.filter fun g => !g.isStream && g.src / 2 ^ 10 == b.id && !g.accepted && g.done.isNone).map fun g =>
        { g with seq := none, ingress := false },
      pages := pages, refused := false }
  let kept := save.pushes.map (·.id)
  let lost := (s1.wk.guestCmds.filter fun g => kept.contains g.id).filterMap (·.seq)
  let s2 : State := { s1 with
    wk := { s1.wk with
      tiles := s1.wk.tiles.filter fun t => !mine t.ctx,
      mx := s1.wk.mx.filter fun o => !mine o.ctx,
      rw := s1.wk.rw.filter fun o => !mine o.ctx,
      gv := s1.wk.gv.filter fun o => !mine o.ctx,
      pubs := s1.wk.pubs.filter fun o => !mine o.ctx,
      guestCmds := s1.wk.guestCmds.filter fun g => !kept.contains g.id },
    hs := { s1.hs with guest := { s1.hs.guest with lost := s1.hs.guest.lost ++ lost } } }
  let (n, s3) := ((s2.freeRows b).freeCtxs b.ctxs).ticket
  (s3.dropAllocsOf (.save b.id)).modBarge b.id fun g => { g with st := .suspended, save := some save, since := n, saveBy := none }

/-- SAVE_COMPLETE: one step of the save of a barge: its marks; then, with everything settled and the cross-die requests of the die
drained (R27), the save itself. -/
def execSaveComplete (id : Nat) (s0 : State) : Out :=
  match s0.barge? id with
  | none => .next s0
  | some b =>
    match s0.kernel? (((s0.op? b.op).map Op.image).getD 0), s0.allocOf (.save id) none with
    | some k, some q =>
      let s := if b.st = .saving then b.ctxs.foldl State.startTiles s0 else s0
      if b.st ≠ .saving then .next s
      else if !s.allMarked b then .next (s.saveMarks b)
      else if !b.ctxs.all s.ctxSettled || s.crossDie b.die b.since then .next s
      else
        let mask := if s.suspended (s.bargeSid b) then 0
          else (((s.placeList b.die).head?.bind fun o => s.kernel? o.image).map (·.cbmask)).getD 0
        .next ((s.saveBarge b k q.pages mask).settleSuspend (s.bargeSid b))
    | _, _ => .next s0

/-- SAVE_AREA_RETRY: after a release of H storage on its die, the save areas of the barges that wait for one are asked for again, in the
order in which the barges were suspended (R312). -/
def execSaveAreaRetry (v : Nat) (s : State) : Out :=
  let due (e : Nat × Bool) : Bool := e.2 && ((s.barge? e.1).map fun g => g.die == v).getD true
  let s1 : State := { s with sq := { s.sq with retryList := s.sq.retryList.filter fun e => !due e } }
  .next ((s.sq.retryList.filter due).foldl (fun u e => u.preempt e.1) s1)

/-! ### RESUME_BARGE (R313) -/

/-- Whether a launch of higher priority is about to take contexts of the die. -/
def State.launchFirst (s : State) (v prio : Nat) : Bool :=
  match s.stackOfDie v, s.placeList v with
  | some p, o :: _ =>
    prio < s.prioOf o.sid &&
    (((s.kernel? o.image).map fun k => (s.bestCluster p k.contexts o.tasks).isSome).getD false ||
     s.sq.barges.any fun b => b.die == v && b.st == .saving)
  | _, _ => false

/-- Whether a core has free row slots for those that a save area holds. -/
def State.rowsFree (s : State) (base : Nat) (w : Save) : Bool :=
  (w.rows.map Prod.fst).eraseDups.all fun i =>
    (w.rows.filter fun r => r.1 == i).length + (s.core (base + i)).slotOwner.length ≤ 16

/-- Claims a row slot of a core under a barge's number and restores its words. -/
def CoreState.claimRow (k : CoreState) (barge n : Nat) (ws : List (Nat × Word × Bool)) : CoreState :=
  match k.freeRow with
  | none => k
  | some p => ws.foldl (fun q w => q.setRow p w.1 w.2.1 w.2.2) { k.clearRow p with slotOwner := k.slotOwner.put p (barge, n) }

/-- A fault record for each task of a barge that cannot resume: DIE_UNMAPPED (R27). -/
def State.refuse (s : State) (b : Barge) (w : Save) : State :=
  let info (pc : Nat) : FaultInfo :=
    { cls := 10, code := 0xa1, flags := 0, slot := 0xff, subcode := 0, bno := pc, value := b.die }
  (w.ctxs.foldl (fun t p => t.post (t.recordOf (b.id * 2 ^ 10 + p.1) p.2.r.pc (info p.2.r.pc)) .nothing) s).modBarge b.id fun g =>
    { g with save := g.save.map fun q => { q with refused := true } }

/-- Faults that reached a suspended task stop it at its boundary. -/
def State.lateFaults (s : State) (c : Nat) : State := s.takeLater c (((s.ctx? c).map fun x => x.r.pc).getD 0)

/-- Restores a barge on the stack p: contexts, scratchpad, rings, withdrawn work, row slots. -/
def State.restore (s : State) (b : Barge) (w : Save) (p : Nat) : State :=
  let old := stackOf (coreOf (b.ctxs.headD 0))
  let ctx (c : Nat) : Nat := c + p * 1152 - old * 1152
  let core (k : Nat) : Nat := k + p * 288 - old * 288
  let base := coreKey p b.cluster 0
  let addr (a : Nat) : Nat := clusterAddr base + a
  let cyc (c : Nat) : Nat := (s.core (coreOf (ctx c))).cyc
  let s1 := w.ctxs.foldl (fun t e => t.putCtx (ctx (b.ctxs.getD e.1 0)) e.2) s
  let grains := (w.bytes.map fun e => e.1 / 32).eraseDups
  let s2 := s1.setCells (w.bytes.map fun e => (addr e.1, e.2))
  let s3 := grains.foldl (fun t g => (t.setF (addr (32 * g)) (w.full.contains (32 * g))).setPoison (addr (32 * g)) (w.marks.contains (32 * g))) s2
  let s4 : State := { s3 with
    wk := { s3.wk with
      ls := s3.wk.ls ++ w.ls.map fun o => { o with ctx := ctx o.ctx, cyc := cyc o.ctx },
      tiles := s3.wk.tiles ++ w.tiles.map fun k => { k with ctx := ctx k.ctx, core := core k.core },
      fprWaits := s3.wk.fprWaits ++ w.fpr.map fun f => { f with ctx := ctx f.ctx },
      mx := s3.wk.mx ++ w.mx.map fun o => { o with ctx := ctx o.ctx, core := core o.core, trig := cyc o.ctx },
      rw := s3.wk.rw ++ w.rw.map fun o => { o with ctx := ctx o.ctx, core := core o.core, due := some (cyc o.ctx + o.cycles) },
      gv := s3.wk.gv ++ w.gv.map fun o => { o with ctx := ctx o.ctx },
      pubs := s3.wk.pubs ++ w.pubs.map fun o => { o with ctx := ctx o.ctx },
      guestCmds := s3.wk.guestCmds ++ w.pushes.map fun g => { g with core := core g.core } },
    ms := { s3.ms with held := s3.ms.held.map fun h => if h.barge = b.id then { h with ctx := ctx h.ctx } else h } }
  let s5 := w.rows.foldl (fun t r => t.modCore (base + r.1) fun k => k.claimRow b.id r.2.1 r.2.2) s4
  let s6 := s5.modBarge b.id fun g =>
    { g with st := .placed, save := none, saveBy := none, ctxs := g.ctxs.map ctx,
             books := g.books.map fun e => (e.1 + p * 1152 - old * 1152, e.2),
             ringPos := g.ringPos.map fun e => (e.1 + p * 4608 - old * 4608, e.2) }
  ((b.ctxs.map ctx).foldl State.lateFaults s6).noteRelease b.die

/-- Whether a suspended barge of a die on stack p may resume: its contexts and row slots are free there, no core that it needs is fenced,
and no launch goes first. -/
def State.mayResume (s : State) (b : Barge) (w : Save) (p : Nat) : Bool :=
  let old := stackOf (coreOf (b.ctxs.headD 0))
  let lost (c : Nat) : Bool := (s.core (coreOf c + p * 288 - old * 288)).fenced
  !s.suspended (s.bargeSid b) && !s.moving b.die &&
  (b.ctxs.all fun c => (s.ctx? (c + p * 1152 - old * 1152)).isNone) &&
  !s.pkg.fencedClusters.contains (clusterKey p b.cluster) && (w.ctxs.all fun e => e.2.halted || !lost (b.ctxs.getD e.1 0)) &&
  s.rowsFree (coreKey p b.cluster 0) w && !s.launchFirst b.die b.prio

/-- RESUME_BARGE: a barge of the resume list whose contexts are free resumes; on an unmapped die it faults and stays
suspended. -/
def execResumeBarge (id : Nat) (s : State) : Out :=
  match s.barge? id with
  | none => .next s
  | some b =>
    match b.st, b.save with
    | .suspended, some w =>
      if s.suspended (s.bargeSid b) || s.moving b.die then .next s
      else match s.stackOfDie b.die with
        | none => .next (if w.refused then s else s.refuse b w)
        | some p => if s.mayResume b w p then .next (s.restore b w p) else .next s
    | _, _ => .next s

end Sys2Proof.Machine
end

