-- ==== Sys2Proof/Machine/Migration.lean ====
section
/-! DEFINITION. Events of the memory system and its tables: table updates and shoot-downs (R323), dirty harvests (R324), segment
migration (R300, R322, R342), access notifications (R300, R341), refresh and retry (R335), cross-die timeouts (R345). -/
namespace Sys2Proof.Machine
open Sys2Proof

/-! ### TABLE_UPDATE (R323, R357) -/

/-- Reports a request: its status, then TU_DONE. -/
def State.tuReport (s : State) (status : Nat) : State :=
  let k := s.hs.tuDone.toNat % 64
  { s with hs := { s.hs with tu := s.hs.tu.put k { s.tuSlot with status := status }, tuDone := s.hs.tuDone + 1, tuBusy := false } }

/-- Every copy of the bytes of a page of a tensor's storage goes with the page. -/
def State.forgetPage (s : State) (t page : Nat) : State :=
  let mine (a : Nat) : Bool := storeTensor a == t && storeOff a / pageBytes == page
  { s with
    ms := { s.ms with
      l2 := s.ms.l2.filter fun e => !mine (e.1 * 256),
      held := s.ms.held.filterMap fun h =>
        let bs := h.bytes.filter fun c => !mine c.1
        if bs.isEmpty then none else some { h with bytes := bs } },
    memPoi := s.memPoi.filter fun e => !(isLogicalMark e.1 && mine ((e.1 - devBase) * 64 - 2 ^ 70)) }

/-- A page that an update has unmapped in every replica: its frame, or its compressed blocks, are released. -/
def State.unmapPage (s : State) (t : Nat) (p : Nat × DWord) : State :=
  if pteV p.2 then s
  else ((if pteC p.2 then s.dropPageBlocks t p.1 else s.releaseLeaf p.2).forgetPage t p.1).noteRelease (t / 2 ^ 20)

/-- The entry that an update writes into the replica of stack p for a page: one that stays present keeps its D bit (R323). -/
def State.newLeaf (s : State) (p t : Nat) (e : Nat × DWord) : DWord :=
  match s.leaf? p t (e.1 * pageBytes) with
  | some l => if pteV e.2 then e.2 ||| (l.1 &&& 0x80#64) else e.2
  | none => e.2

/-- The next replica write of an update (R323). An update of a tensor whose storage has gone is given up, with the frames it had taken. -/
def State.writeReplica (s : State) (u : TabUpdate) : State × TabUpdate :=
  if u.stack = 0 ∧ !((s.rec? u.tensor).map (·.stored)).getD false then
    (((u.pages.filter fun p => pteV p.2).map Prod.snd).foldl State.releaseLeaf s, { u with pages := [] })
  else (u.pages.foldl (fun v p => v.setLeafAt u.stack u.tensor p.1 (v.newLeaf u.stack u.tensor p)) s, { u with stack := u.stack + 1 })

/-- TABLE_UPDATE: the first pending update is written into the eight replicas in ascending stack order, one a step; then it is shot
down; and once the guest has acknowledged, it is complete, and with the last of a request the request is reported. An update begins when
the guest has acknowledged every shoot-down before it. Entries that a replica lost are rewritten from another (R372). -/
def execTableUpdate (s : State) : Out :=
  if !s.ms.broken.isEmpty then .next { s with ms := { s.ms with broken := [] } }
  else match s.hs.tuQueue with
  | [] => .next s
  | u :: rest =>
    let head (t : State) (w : TabUpdate) : State := { t with hs := { t.hs with tuQueue := w :: rest } }
    if u.stack = 0 ∧ !s.hs.guest.shoots.isEmpty then .next s
    else if u.pages.isEmpty then
      if !s.hs.guest.shoots.isEmpty then .next s
      else
        let s1 : State := { s with hs := { s.hs with tuQueue := rest } }
        .next (if u.last then s1.tuReport 0 else s1)
    else if u.stack < 8 then let w := s.writeReplica u; .next (head w.1 w.2)
    else
      let ps := u.pages.map Prod.fst
      .next (head ((u.pages.foldl (fun v p => v.unmapPage u.tensor p) s).shootDown u.tensor fun k => ps.contains k) { u with pages := [] })

/-! ### Harvests (R324) -/

/-- DIRTY_HARVEST: the harvest that the host started writes every dirty bit into the tables. -/
def execDirtyHarvest (s : State) : Out :=
  if s.pkg.harvest then
    let s1 := s.harvestAll
    .next { s1 with pkg := { s1.pkg with harvest := false } }
  else .next s

/-- FORCED_HARVEST: one is forced every 2 ms on the I/O die's timer. -/
def execForcedHarvest (s : State) : Out :=
  if s.pkg.harvestDue ≤ s.pkg.ioTick then
    let s1 := s.harvestAll
    .next { s1 with pkg := { s1.pkg with harvestDue := s.pkg.harvestDue + 200000 } }
  else .next s

/-! ### Segment migration (R322, R342) -/

/-- The device address of the page that a leaf maps. -/
def leafBase (e : DWord) : Nat := devBase + pteTgt e * 2 ^ 48 + ptePa e

/-- Copies the stored bytes and marks of a page to another address. -/
def State.copyRaw (s : State) (src dst : Nat) : State :=
  let s1 := s.setBytes dst (s.bytes src pageBytes)
  (List.range (pageBytes / 64)).foldl (fun u i => u.setPoison (dst + 64 * i) (s.poisonAt (src + 64 * i))) s1

/-- The device address of a place of a tensor's storage: page p's own place, or its retained frame p - pages (R338). -/
def State.placeBase? (s : State) (t pages p : Nat) : Option Nat :=
  if p < pages then (s.ownLeaf? t p).map leafBase else (s.packFrame t (p - pages)).map frameAddr

/-- The places of a tensor whose address passes a test. -/
def State.placesWhere (s : State) (t : Nat) (r : Rec) (test : Nat → Bool) : List Nat :=
  if r.stored then (List.range (2 * r.pages)).filter fun p => ((s.placeBase? t r.pages p).map test).getD false else []

/-- The page of a place, by which it belongs to a segment. -/
def Rec.placePage (r : Rec) (p : Nat) : Nat := if p < r.pages then p else p - r.pages

/-- Whether an address lies in a frame of a hot channel of a die. -/
def State.hotAddr (s : State) (v a : Nat) : Bool :=
  a < devBase + 2 ^ 52 && heatOf (s.die v) (frameChannel (frameOfAddr a)) == 2

/-- Whether an address lies in a frame that has been withdrawn with its channel (Table 27.3). -/
def State.outAddr (s : State) (a : Nat) : Bool := a < devBase + 2 ^ 52 && s.channelOut (frameChannel (frameOfAddr a))

/-- Moves a place of a tensor to a frame of its home die among channels of a class; it stays where it is when none is free. -/
def State.movePlace (s : State) (t pages p maxClass : Nat) : State :=
  match s.placeBase? t pages p, s.takeFrame (t / 2 ^ 20) maxClass with
  | some a, some (f, s1) =>
    let s2 := s1.copyRaw a (frameAddr f)
    if p < pages then
      let e := (s.pageLeaf? t p).getD 0
      (s2.setLeaf t p (movedLeaf e (f / 2 ^ 20) (f % 2 ^ 20 * pageBytes) false)).releaseLeaf e
    else
      { s2 with ms := { s2.ms with packs := s2.ms.packs.mod t fun l => l.set (p - pages) (some f) } }.dropFrame (frameOfAddr a)
  | _, _ => s

/-- Moves one page of a tensor to tier L; a compressed page is expanded there, and its blocks are dropped (R369). -/
def State.movePageL (s : State) (t k : Nat) : State :=
  match s.pageLeaf? t k, s.takeTl with
  | some e, some (p, s1) =>
    let base := devBase + 16 * 2 ^ 48 + p * pageBytes
    let new := movedLeaf e 16 (p * pageBytes) false
    let s2 :=
      if pteC e then ((s1.dropPageBlocks t k).writePage t k base (s.readPage t k)).setLeaf t k new
      else ((s1.copyRaw (leafBase e) base).setLeaf t k new).releaseLeaf e
    s2.noteRelease (t / 2 ^ 20)
  | _, _ => s

/-- A tensor in COMP_H with no compressed page left is in RES_H. -/
def State.settleComp (s : State) (t pages : Nat) : State :=
  if s.stateOf t = .compH ∧ (s.compPages t pages).isEmpty then s.modRec t fun q => { q with st := .resH } else s

/-- The hold of a segment that has moved ends, and what a thermal migration had noted for it is done. -/
def State.releaseSeg (s : State) (t : Nat) (r : Rec) (seg : Nat) : State :=
  ({ s with ms := { s.ms with hot := s.ms.hot.filter fun h => !(h.1 == t && r.placePage h.2 / 32 == seg) } } : State).releaseHolds [(t, seg)]

/-- The pages of a segment that the MIGRATE request names. -/
def State.asked (s : State) (t seg : Nat) (toL : Bool) : Option (List Nat) :=
  match s.migrating with
  | some (q, first, count, l) =>
    if q == t && l == toL then some (((List.range 32).map (32 * seg + ·)).filter fun k => first ≤ k && k < first + count) else none
  | none => none

/-- Moves the pages of a request: to tier L those in HBM, to H those in tier L. -/
def State.moveAsked (s : State) (t pages : Nat) (toL : Bool) (ks : List Nat) : State :=
  State.settleComp (ks.foldl (fun u k =>
    match u.pageLeaf? t k with
    | some e => if toL then (if pteTgt e < 16 then u.movePageL t k else u)
                else if pteTgt e = 16 then u.movePlace t pages k 3 else u
    | none => u) s) t pages

/-- The last segment of a request has moved: what remains is the guest's acknowledgement. -/
def State.migrated (s : State) (t : Nat) : State :=
  if s.ms.heldSegs.any fun h => h.1 == t && !s.releasing.contains h then s
  else { s with hs := { s.hs with tuQueue := s.hs.tuQueue ++ [{ tensor := t, pages := [], last := true, stack := 0 }] } }

/-- SEGMENT_MIGRATION: a held segment whose busy count is 0 moves, for the host's request, off withdrawn frames, or, in the region of a
notification, from hot channels to cool ones; the tables are updated, and the hold ends with the guest's acknowledgement. It begins when
no other update is under way (R323). -/
def execSegmentMigration (t seg : Nat) (toL : Bool) (s : State) : Out :=
  match s.rec? t with
  | none => .next s
  | some r =>
    if !s.ms.heldSegs.contains (t, seg) || s.releasing.contains (t, seg) || r.st == .moving || s.segBusy t seg || !s.updateFree then .next s
    else
      let hit (k : Nat) : Bool := k / 32 == seg
      match s.asked t seg toL with
      | some ks => .next ((((s.moveAsked t r.pages toL ks).shootDown t hit).releaseSeg t r seg).migrated t)
      | none =>
        if toL || (s.migrating.map fun m => m.1 == t).getD false then .next s
        else
          let mine (p : Nat) : Bool := r.placePage p / 32 == seg
          let s1 := ((s.placesWhere t r s.outAddr).filter mine).foldl (fun u p => u.movePlace t r.pages p 3) s
          let hot := (s1.placesWhere t r (s1.hotAddr (t / 2 ^ 20))).filter fun p => mine p && s1.ms.hot.contains (t, p)
          let s2 := hot.foldl (fun u p => u.movePlace t r.pages p 0) s1
          .next ((s2.shootDown t hit).releaseSeg t r seg)

/-! ### ACCESS_NOTIFICATION (R300, R341) -/

/-- The tensors with places in a 2 MiB region, and those places. -/
def State.inRegion (s : State) (x : Nat) : List (Nat × List Nat) :=
  s.sq.recs.filterMap fun p =>
    let ks := s.placesWhere p.1 p.2 fun a => regionOf a == x
    if ks.isEmpty then none else some (p.1, ks)

def Rec.resident (r : Rec) : Bool := r.st == .near || r.st == .resH || r.st == .compH

/-- The counter of a region counts again, and the pending region of longest standing takes the free entry of the die's queue (R341). -/
def State.rearm (s : State) (v x : Nat) : State :=
  let s1 : State := { s with ms := { s.ms with counters := s.ms.counters.erase x } }
  match sortBy (fun a b => a.2.since < b.2.since) (s1.ms.counters.filter fun c => c.2.st == .pending && c.2.die == v) with
  | [] => s1
  | (y, c) :: _ =>
    { s1 with ms := { s1.ms with counters := s1.ms.counters.put y { c with st := .queued }, notes := s1.ms.notes ++ [(v, y)] } }

/-- Holds segments of a tensor that are not held already. -/
def State.holdSegs (s : State) (t : Nat) (segs : List Nat) : State :=
  { s with ms := { s.ms with heldSegs := s.ms.heldSegs ++ (segs.eraseDups.map fun g => (t, g)).filter fun h => !s.ms.heldSegs.contains h } }

/-- Notes the hot places among some of a tensor for a thermal migration, and holds their segments. -/
def State.holdHot (s : State) (t : Nat) (r : Rec) (ks : List Nat) : State :=
  let hot := ks.filter fun p => ((s.placeBase? t r.pages p).map (s.hotAddr (t / 2 ^ 20))).getD false
  { s with ms := { s.ms with hot := s.ms.hot ++ (hot.map fun p => (t, p)).filter fun h => !s.ms.hot.contains h } }.holdSegs t
    (hot.map fun p => r.placePage p / 32)

/-- ACCESS_NOTIFICATION: the engine takes the first notification of its queue, fetches a spilled tensor, starts a thermal migration of
a resident one, or discards it; the counter is armed again. -/
def execAccessNotification (v : Nat) (s : State) : Out :=
  match s.ms.notes.find? fun n => n.1 == v with
  | none => .next s
  | some n =>
    let s1 : State := { s with ms := { s.ms with notes := s.ms.notes.erase n } }
    let s2 := (s.inRegion n.2).foldl (fun u p =>
      match u.rec? p.1 with
      | some r =>
        if r.st = .spillL then u.askFetch p.1 false
        else if r.resident && (u.die v).tmig && (u.nextFrame (p.1 / 2 ^ 20) 0).isSome then u.holdHot p.1 r p.2 else u
      | none => u) s1
    .next (s2.rearm v n.2)

/-! ### Refresh and retry (R335) -/

/-- REFRESH: a base die begins or ends the refresh of a bank. -/
def execRefresh (bank : Nat) (busy : Bool) (s : State) : Out :=
  let rest := s.ms.refreshing.filter (· != bank)
  .next { s with ms := { s.ms with refreshing := if busy then rest ++ [bank] else rest } }

/-- The store to an MSA page under a ticket that waits in a context's gate on its way to its unit (R336). -/
def State.gateStore? (s : State) (id : Nat) : Option (Nat × GStore) :=
  s.ctxs.findSome? fun e => ((e.2.gate.find? fun g => g.opId == id).filter fun g => s.msaStore g && s.drainTurn e.1 e.2 g).map fun g => (e.1, g)

/-- Whether a started tile command has requests for its tensor to send. -/
def State.tileAsks (s : State) (k : TileCmd) : Bool :=
  k.started && (if k.code ≤ 1 then s.mayLand k else k.code != 2 || k.out.isSome || s.allTaken k)

/-- The storage addresses of a request that goes to a base die: a gv access, a tile command, the drain of a held store, or a store to an
MSA page. -/
def State.sentAddrs (s : State) (id : Nat) : List Nat :=
  match s.wk.gv.find? (fun o => o.id == id), s.wk.tiles.find? (fun k => k.id == id), s.ms.held.find? (fun h => h.id == id), s.gateStore? id with
  | some o, _, _, _ => if o.listed && o.todo.isEmpty && !gvIsStore o.code then s.gvAddrs o else []
  | none, some k, _, _ => if s.tileAsks k then s.tileAddrs k else []
  | none, none, some h, _ => if s.mayLeave h then h.bytes.map Prod.fst else []
  | none, none, none, some g => g.2.cells.map Prod.fst
  | none, none, none, none => []

/-- RETRY_RESPONSE: a request reaches a bank under refresh; its sectors are reissued no earlier than its wait hint, in cycles of 1.6 GHz,
later. One that has been reissued may be answered so again, and keeps its place before later requests (R335). -/
def execRetryResponse (id hint : Nat) (s : State) : Out :=
  let sectors := ((s.sentAddrs id).map (· / 64)).eraseDups
  let due (x : Nat) : Nat := s.dieTick (storeTensor (x * 64) / 2 ^ 20) + ceilDiv hint 16 + (if hint = 0 then 0 else 1)
  let mine := s.retrying.filter fun r => r.id == id
  if s.ms.refreshing.isEmpty || mine.any fun r => !r.again then .next s
  else
    let rest := s.retrying.map fun r => if r.id = id then { r with due := due r.sector, again := false } else r
    let new := (sectors.filter fun x => !mine.any fun r => r.sector == x).map fun x => ({ id := id, sector := x, due := due x, again := false } : Retry)
    .next { s with ms := { s.ms with retries := rest ++ new } }

/-- RETRY_REISSUE: the wait hint is over and the request goes again; it stands before later ones until it is performed. What a command no
longer asks for holds nothing. -/
def execRetryReissue (id : Nat) (s : State) : Out :=
  let mine := s.ms.retries.filter fun r => r.id == id
  if (s.sentAddrs id).isEmpty then .next { s with ms := { s.ms with retries := s.ms.retries.filter fun r => r.id != id } }
  else if mine.all fun r => r.due ≤ s.dieTick (storeTensor (r.sector * 64) / 2 ^ 20) then
    .next { s with ms := { s.ms with retries := s.ms.retries.map fun r => if r.id = id then { r with again := true } else r } }
  else .next s

/-! ### CROSS_DIE_REQUEST_TIMEOUT (R345) -/

def timeoutInfo (h : Word) (page slot bno : Nat) : FaultInfo := laterFault 8 0x80 (h.toNat + 2 ^ 32 * page) slot bno

def State.lateBy (s : State) (v : Nat) (sent : Option Nat) : Bool :=
  (sent.map fun t => decide (t + 10000 ≤ s.dieTick v)).getD false

/-- CROSS_DIE_REQUEST_TIMEOUT: a request whose response has not arrived in tick 10 000 is given up, and its context takes TIMEOUT; the
store of a collector's drain, or to an MSA page, is lost. -/
def execCrossDieRequestTimeout (id : Nat) (s : State) : Out :=
  let page (as : List Nat) : Nat := storeOff (as.headD 0) / pageBytes
  match s.wk.gv.find? (fun o => o.id == id), s.wk.tiles.find? (fun k => k.id == id), s.ms.held.find? (fun h => h.id == id), s.gateStore? id with
  | some o, _, _, _ =>
    if s.lateBy (s.dieOf o.ctx) o.sent then .next ((s.dropGv id).imprecise o.ctx (timeoutInfo o.handle (page (s.gvAddrs o)) o.slot o.bno))
    else .next s
  | none, some k, _, _ =>
    if s.lateBy (s.dieOf k.ctx) k.sent then
      let h := if handleHome k.h ≠ s.dieOf k.ctx then k.h else k.h2
      let as := (s.tileAddrs k).filter fun a => storeTensor a == handleKey h
      .next (((s.dropTile id).fprDeliver).imprecise k.ctx (timeoutInfo h (page as) k.slot k.bno))
    else .next s
  | none, none, some h, _ => if s.lateBy h.die h.sent then .next ((s.dropHeld id).lostDrain h) else .next s
  | none, none, none, some (c, g) =>
    if s.lateBy (s.dieOf c) g.sent then
      .next ((s.dropGated c id).imprecise c (timeoutInfo g.handle (page (g.cells.map Prod.fst)) g.slot g.bno))
    else .next s
  | none, none, none, none => .next s

end Sys2Proof.Machine
end

