-- ==== Sys2Proof/Machine/External.lean ====
section
/-! DEFINITION. What the units beyond the cores share: the error log (R374), the record of a fence (R378, R381), and accesses through the
host's and the guest's coherent ports (R321, R331, R349, R365, R369). -/
namespace Sys2Proof.Machine
open Sys2Proof

/-! ### The error log (R374) -/

/-- The virtual die that maps to a stack. -/
def State.dieOfStack (s : State) (p : Nat) : Option Nat := (List.range 8).find? fun v => s.stackOfDie v == some p

/-- The 32 bytes of an error record (Table 27.2). Stack 8 is the I/O die. -/
def errorRecord (sev source stack vdie unit tick synd addr total : Nat) : List Byte :=
  leBytes 1 0x22 ++ leBytes 1 sev ++ leBytes 2 source ++ leBytes 1 stack ++ leBytes 1 vdie ++ leBytes 2 unit ++ leBytes 4 tick ++
  leBytes 4 synd ++ leBytes 8 addr ++ leBytes 8 total

/-- Logs an error: a record, or the source's summary counter while the log is full; vector 1 either way. -/
def State.logError (s : State) (sev source stack unit synd addr : Nat) : State :=
  let n := s.pkg.errTotal.get source 0 + 1
  let vdie := if stack < 8 then (s.dieOfStack stack).getD 0xff else 0xff
  let s1 : State := { s with pkg := { s.pkg with errTotal := s.pkg.errTotal.put source n } }
  let s2 : State :=
    if s1.pkg.log.length < 512 then
      { s1 with pkg := { s1.pkg with log := s1.pkg.log ++ [errorRecord sev source stack vdie unit s.pkg.ioTick synd addr n] } }
    else { s1 with pkg := { s1.pkg with summary := s1.pkg.summary.put source ((s1.pkg.summary.get source 0 + 1) % 2 ^ 32) } }
  s2.msix 1

/-! ### The record of a fence (R378, R381) -/

/-- The Replace Requested word after a fence (Table 27.4). -/
def replaceWord (old : Word) (kind reason index : Nat) : Word :=
  BitVec.ofNat 32 (2 ^ 31 + min 127 (field old 24 7 + 1) * 2 ^ 24 + kind % 16 * 2 ^ 20 + reason % 16 * 2 ^ 16 + index % 2 ^ 16)

/-- The stack that holds a unit, 8 for the I/O die's. -/
def unitStack (kind index : Nat) : Nat :=
  match kind with
  | 1 => stackOf index
  | 2 => index / 6
  | 3 => index / 128
  | 4 => index
  | _ => 8

/-- Sets Replace Requested, advances CAPGEN and logs a record of severity 2. -/
def State.fenceNote (s : State) (kind reason index : Nat) : State :=
  { s with pkg := { s.pkg with rr := replaceWord s.pkg.rr kind reason index, capgen := s.pkg.capgen + 1 } }.logError 2 13
    (unitStack kind index) index 0 0

/-! ### Coherent accesses -/

/-- The pages of a range of tensor offsets. -/
def pagesIn (off len : Nat) : List Nat := (List.range ((off % pageBytes + len + pageBytes - 1) / pageBytes)).map (off / pageBytes + ·)

/-- The checks of a page for an access that is not a core's (R321). -/
def State.extPageFault (s : State) (t page : Nat) (write : Bool) : Bool :=
  match s.pageLeaf? t page with
  | none => true
  | some e => 17 ≤ pteTgt e || (write && !pteW e)

def State.extCompressed (s : State) (t page : Nat) : Bool := ((s.pageLeaf? t page).map pteC).getD false

/-- Why an access through a coherent port is turned away (R349): 2 STALE, 3 RANGE, 1 COMPRESSED for a raw access, 4 PAGE. -/
def State.extFault (s : State) (h : Word) (off len : Nat) (raw write : Bool) : Option Nat :=
  match s.live? h with
  | none => some 2
  | some r =>
    let t := handleKey h
    if r.sizeBytes < off + len then some 3
    else if raw && (pagesIn off len).any (s.extCompressed t) then some 1
    else if (pagesIn off len).any fun k => s.extPageFault t k write then some 4
    else none

def storeRange (t off len : Nat) : List Nat := (List.range len).map fun i => storeAddr t (off + i)

/-- Whether an access to a range waits on its way: no path joins the home to the I/O die (R344), a retried request stands before it
(R335), or a write finds no room at its home (R340). -/
def State.extBlocked (s : State) (h : Word) (off len : Nat) (write : Bool) : Bool :=
  let as := storeRange (handleKey h) off len
  !s.ioPathUp (handleHome h) || s.underRetry as || (write && !s.hasRoom as)

/-- Whether an access to a range waits: so, or for a migration that holds a page of it (R322). -/
def State.extHeld (s : State) (h : Word) (off len : Nat) (write : Bool) : Bool :=
  (pagesIn off len).any (fun k => s.segHeld (handleKey h) k) || s.extBlocked h off len write

/-- A coherent read: each byte, or none for poisoned data (R375). -/
def State.extRead (s : State) (t off len : Nat) : List (Option Byte) × State :=
  let as := storeRange t off len
  let s1 := s.touch as
  (as.map fun a => if (s1.homeByte a).2 then none else some (s1.homeByte a).1, s1)

/-- A raw read: the stored bytes, past the L2 (R369); an uncached access, which is counted (R341). -/
def State.rawRead (s : State) (t off len : Nat) : List (Option Byte) × State :=
  ((storeRange t off len).map fun a => if (s.memoryByte a).2 then none else some (s.memoryByte a).1, s.countLines (storeRange t off len))

/-- A coherent write: replicas of its lines are dropped (R331), the bytes are performed at their homes, and it is a version event on
VER lines (R229). Poison marks come with the bytes (R375). -/
def State.extWrite (s : State) (t off : Nat) (bytes : List (Byte × Bool)) : State :=
  let as := storeRange t off bytes.length
  let ls := (as.map lineOf).eraseDups
  let s1 : State := { s with ms := { s.ms with replicas := s.ms.replicas.filter fun r => !ls.contains r.2.1 } }
  let bad := ((as.zip bytes).filter fun c => c.2.2).map Prod.fst
  let s2 := s1.homeStore (listFrom (storeAddr t off) (bytes.map Prod.fst)) bad
  let s3 := if s2.isMsa (storeAddr t off) then s2.countLines as else s2
  if s3.isVer (storeAddr t off) then s3.bumpLines ls else s3

end Sys2Proof.Machine
end

