-- ==== Sys2Proof/Machine/Guest.lean ====
section
/-! DEFINITION. The Cracheral guest site (R239, R361 to R368): its queues and packets, its duties, its fence, and its coherent port. -/
namespace Sys2Proof.Machine
open Sys2Proof

def State.modGuest (s : State) (f : Guest → Guest) : State := { s with hs := { s.hs with guest := f s.hs.guest } }
def State.modPush (s : State) (id : Nat) (f : GuestCmd → GuestCmd) : State :=
  { s with wk := { s.wk with guestCmds := s.wk.guestCmds.map fun g => if g.id = id then f g else g } }
def State.push? (s : State) (id : Nat) : Option GuestCmd := s.wk.guestCmds.find? fun g => g.id == id

/-- A push's context while its barge is placed. -/
def State.pusher (s : State) (g : GuestCmd) : Option Nat :=
  if g.isStream then none
  else (s.barge? (g.src / 2 ^ 10)).bind fun b => if b.save.isSome then none else b.ctxs[g.src % 2 ^ 10]?

/-- The stream of a packet. -/
def State.pushSid (s : State) (g : GuestCmd) : Nat :=
  if g.isStream then ((s.op? g.src).map (·.sid)).getD 0
  else (((s.barge? (g.src / 2 ^ 10)).bind fun b => s.op? b.op).map (·.sid)).getD 0

/-- Gives a packet the next sequence number; a push's gq.q learns it with the packet's acceptance. -/
def State.numberPush (s : State) (g : GuestCmd) : Word × State :=
  let n := s.hs.guest.gseq
  (n, (s.modGuest fun x => { x with gseq := n + 1, wrapped := x.wrapped || n + 1 == 0, lost := x.lost.filter (· != n) }).modPush g.id
    fun p => { p with seq := some n })

/-- Delivers a push's sequence number to gq.q. -/
def State.deliverSeq (s : State) (g : GuestCmd) (seq : Word) : State :=
  if g.isStream then s else s.deliverPid g.src qGq g.id (PV.ofWord seq false)

/-- The first 52 bytes of a packet: those a push reads in the scratchpad, or those its gop built. -/
def State.packetBody (s : State) (g : GuestCmd) : List Byte :=
  match s.pusher g with
  | some c => (s.seenBytes c g.id (s.physList c g.addr 52)).1
  | none => g.pkt

/-- A packet that the device completes itself (R362, R368). -/
def State.completeSelf (s : State) (status : Nat) (g : GuestCmd) : State :=
  let (seq, s1) := match g.seq with
    | some q => (q, s)
    | none => s.numberPush g
  let s2 := if g.accepted then s1 else s1.deliverSeq g seq
  s2.modPush g.id fun p => { p with checkpointed := false, done := some (madePacket seq status (BitVec.ofNat 16 (leNat ((if g.pkt.isEmpty then s.packetBody g else g.pkt).take 2)))) }

/-! ### The fence (R368) -/

/-- Lines that the guest held modified are poisoned at their homes, and logged. -/
def State.poisonLines (s : State) : List Nat → State
  | [] => s
  | l :: ls =>
    let s1 := (List.range 4).foldl (fun u i => u.setPoison (logicalMark (l * 256 + 64 * i)) true) s
    (s1.logError 1 12 (s.homeStack (storeTensor (l * 256))) 0 0 (((s.place? (storeTensor (l * 256)) (storeOff (l * 256))).getD devBase) - devBase)).poisonLines ls

/-- Fences the guest with a site reason and the reason of Table 27.4. -/
def State.fenceGuest (s : State) (reason rr : Nat) : State :=
  if s.hs.guest.st.usable then
    let s1 := s.poisonLines s.hs.guest.modified
    let s2 := s1.shootsOver.modGuest fun g => { g with modified := [], cached := [], preemptBy := none }
    let open_ := s2.wk.guestCmds.filter fun g => g.done.isNone
    let s3 := open_.foldl (fun u g => u.completeSelf 0x8002 g) s2
    (s3.modGuest fun g => { g with st := .fenced, reason := reason }).fenceNote 5 rr 0
  else s

/-- A host write of 1 to bit b of the site's register 0x004 sets it (R6): 0 GPREEMPT, 1 GRESUME, 2 FENCE. Nothing that the spec states
clears it but reset (DEDUCED, log entry 116). -/
def State.setGuestCtl (s : State) (b : Nat) : State := s.modGuest fun g => { g with ctl := g.ctl ||| (1#3 <<< b) }

/-- SITE_FENCE: the host writes FENCE. -/
def execSiteFence (s : State) : Out := .next ((s.fenceGuest 6 4).setGuestCtl 2)

/-- GUEST_POWER_EXCEEDED: more than 150 W for 10 ms. -/
def execGuestPowerExceeded (s : State) : Out := .next (s.fenceGuest 5 5)

/-! ### Delivery (R239, R362, R364) -/

/-- The identity block that the device writes over a packet (R362). The bytes that name a core are free for a stream's packet. -/
def State.packetIdentity (s : State) (g : GuestCmd) (seq : Word) : List Byte × State :=
  let sid := s.pushSid g
  match s.pusher g with
  | some c =>
    (leBytes 1 0 ++ leBytes 1 sid ++ leBytes 1 (s.dieOf c) ++ leBytes 1 (clusterOf (coreOf c)) ++ leBytes 1 (coreIdx (coreOf c)) ++
      leBytes 1 (hctxOf c) ++ leBytes 2 g.flag ++ wordBytes seq, s)
  | none =>
    let (w, s1) := s.freeWord
    (leBytes 1 1 ++ leBytes 1 sid ++ leBytes 1 (sid / 16) ++ leBytes 3 w.toNat ++ leBytes 2 g.flag ++ wordBytes seq, s1)

/-- Whether the packet's turn has come: earlier ones of its core or stream are in, and a push's earlier stores and acquires are performed
(R239, R270). -/
def State.deliverable (s : State) (g : GuestCmd) : Bool :=
  g.done.isNone && !g.ingress &&
  !(s.wk.guestCmds.any fun p => p.id < g.id && p.done.isNone && !p.ingress && p.isStream == g.isStream &&
      (if g.isStream then s.pushSid p == s.pushSid g else p.core == g.core)) &&
  (g.isStream || match s.pusher g with
    | some c => ((s.ctx? c).map fun x => s.storesDone c x g.id && !s.acquiring x c g.id).getD false
    | none => false)

/-- Packets in the site's ingress queue. -/
def State.ingressCount (s : State) : Nat := (s.wk.guestCmds.filter fun g => g.ingress && !g.accepted && g.done.isNone).length

/-- A malformed packet: an opcode outside the guest's range, a nonzero reserved byte, or more than four handles. -/
def State.malformed (s : State) (pkt : List Byte) : Bool :=
  let op := leNat (pkt.take 2)
  op < s.hs.guest.firstOp || s.hs.guest.lastOp < op || 4 < (pkt.getD 2 0).toNat || pkt.getD 3 0 != 0

/-- GUEST_PACKET_DELIVERY: the site takes a packet into its ingress queue and gives it GSEQ; a malformed one is rejected at once. -/
def execGuestPacketDelivery (id : Nat) (s : State) : Out :=
  match s.push? id with
  | none => .next s
  | some g =>
    if s.hs.guest.st.usable && s.deliverable g && s.ingressCount < 256 then
      let body := s.packetBody g
      let (seq, s1) := s.numberPush g
      let (ident, s2) := s1.packetIdentity g seq
      let s3 := s2.modPush id fun p => { p with pkt := body ++ ident, ingress := true }
      .next (if s.malformed body then (match s3.push? id with
          | some p => s3.completeSelf 0x8003 p
          | none => s3) else s3)
    else .next s

/-- GQ_ACCEPT: the guest accepts the oldest delivered packet, and gq.q receives its sequence number. -/
def execGqAccept (id : Nat) (s : State) : Out :=
  match s.push? id with
  | none => .next s
  | some g =>
    let first := !s.wk.guestCmds.any fun p =>
      p.ingress && !p.accepted && p.done.isNone && p.id != id && ((p.seq.getD 0) - (g.seq.getD 0)).toNat ≥ 2 ^ 31
    if s.hs.guest.st == .present && !s.hs.guest.stopped && g.ingress && !g.accepted && g.done.isNone && first then
      .next ((s.modPush id fun p => { p with accepted := true }).deliverSeq g (g.seq.getD 0))
    else .next s

/-! ### Completion (R239, R363) -/

/-- COMPLETION_PACKET: a completion arrives. One that names no outstanding number fences the guest. -/
def execCompletionPacket (pkt : GuestPacket) (s : State) : Out :=
  if s.hs.guest.st.usable then
    match s.wk.guestCmds.find? fun g => g.seq == some pkt.seq && g.accepted && g.done.isNone with
    | none => .next (s.fenceGuest 3 5)
    | some g =>
      .next (s.modPush g.id fun p => if pkt.status = 0x8000 then { p with checkpointed := true }
        else { p with checkpointed := false, done := some pkt })
  else .next s

/-- The 32 bytes of a completion packet. -/
def packetBytes (p : GuestPacket) : List Byte :=
  wordBytes p.seq ++ leBytes 2 p.status.toNat ++ leBytes 2 p.opcode.toNat ++ wordBytes p.count0 ++ wordBytes p.count1 ++
  wordBytes p.count2 ++ wordBytes p.count3 ++ leBytes 8 p.value.toNat

/-- Writes bytes at scratchpad addresses of a participant: in the scratchpad, or in its save area while its barge is suspended. -/
def State.writePacket (s : State) (g : GuestCmd) (bytes : List Byte) : State :=
  match s.barge? (g.src / 2 ^ 10) with
  | none => s
  | some b =>
    let c := b.ctxs.getD (g.src % 2 ^ 10) 0
    match b.save with
    | none => s.scratchStore ((s.physList c g.comp.toNat 32).zip bytes) []
    | some w =>
      let map := (((s.op? b.op).bind fun o => s.kernel? o.image).map (·.bankMap)).getD 0
      let cells := ((List.range 32).map fun i => localAddr (physAt map (clusterBase c) (g.comp.toNat + i))).zip bytes
      let new (p : Nat × Byte) : Nat × Byte := (p.1, ((cells.find? fun q => q.1 == p.1).map Prod.snd).getD p.2)
      let grain := (cells.map fun q => q.1 / 32 * 32).headD 0
      s.modBarge b.id fun q => { q with save := some { w with bytes := w.bytes.map new, marks := w.marks.filter (· != grain) } }

/-- GQ_COMPLETION: the completion packet of a push is written at its completion address, and then its flag is set. -/
def execGqCompletion (id : Nat) (s : State) : Out :=
  match s.push? id with
  | none => .next s
  | some g =>
    match g.isStream, g.done with
    | false, some p =>
      let s1 := (s.writePacket g (packetBytes p)).modMember g.src fun x => { x with r := x.r.setFlag g.flag }
      .next { s1 with wk := { s1.wk with guestCmds := s1.wk.guestCmds.filter fun q => q.id != id } }
    | _, _ => .next s

/-- A GUEST fault with subcode 1 for the handle and page that the guest reports (R366). -/
def guestFault (handle page : Word) (bno : Nat) : FaultInfo :=
  { cls := 12, code := 0xc0, flags := 0, slot := 0xff, subcode := 1, bno := bno, value := handle.toNat + 2 ^ 32 * page.toNat }

/-- GUEST_FAULT_RECORD: a fault in the guest's own work: the pushing context's fault, or an error record of the stream. -/
def execGuestFaultRecord (seq : BitVec 32) (_code : BitVec 16) (_kind : BitVec 8) (handle page : BitVec 32) (s : State) : Out :=
  if s.hs.guest.st.usable then
    match s.wk.guestCmds.find? fun g => g.seq == some seq && g.accepted && g.done.isNone with
    | none => .next (s.fenceGuest 3 5)
    | some g =>
      if g.isStream then
        match s.op? g.src with
        | some o => .next (s.post (streamRecord o.sid o.pc
            { guestFault handle page o.pc with flags := flSequencer + flRecord }) .nothing)
        | none => .next s
      else .next (s.impreciseMember g.src (guestFault handle page g.bno))
  else .next s

/-! ### Duties (R366, R367) -/

/-- GUEST_SHOOTDOWN_ACK: the guest acknowledges its oldest shoot-down in time; an acknowledgement at a closed port is ignored. -/
def execGuestShootdownAck (s : State) : Out :=
  .next (if s.hs.guest.shoots.head?.any fun x => decide (s.pkg.ioTick ≤ x.due) then s.shootAcked else s)

/-- GUEST_SHOOTDOWN_TIMEOUT: the tick of expiry of a shoot-down ends with no acknowledgement. -/
def execGuestShootdownTimeout (s : State) : Out :=
  .next (if s.hs.guest.shoots.head?.any fun x => decide (x.due ≤ s.pkg.ioTick) then s.fenceGuest 1 5 else s)

/-- The site stops delivering packets and asks the guest to pre-empt (R367). -/
def State.askGuestPreempt (s : State) : State :=
  if s.hs.guest.st = .present ∧ !s.hs.guest.stopped then
    s.modGuest fun g => { g with stopped := true, preemptBy := some (s.pkg.ioTick + 5000) }
  else s

/-- GPREEMPT: the host requests pre-emption. -/
def execGpreempt (s : State) : Out := .next (s.askGuestPreempt.setGuestCtl 0)

/-- GUEST_PREEMPT_ACK: in time, and with every accepted packet completed or checkpointed, STATE becomes 3; otherwise the duty is missed. -/
def execGuestPreemptAck (s : State) : Out :=
  match s.hs.guest.preemptBy with
  | none => .next s
  | some d =>
    if d < s.pkg.ioTick then .next s
    else if s.wk.guestCmds.all fun g => !g.accepted || g.checkpointed || g.done.isSome then
      .next (s.modGuest fun g => { g with st := .preempted, preemptBy := none })
    else .next (s.fenceGuest 2 5)

/-- GUEST_PREEMPT_TIMEOUT: the tick of expiry ends with no acknowledgement. -/
def execGuestPreemptTimeout (s : State) : Out :=
  match s.hs.guest.preemptBy with
  | some d => .next (if d ≤ s.pkg.ioTick then s.fenceGuest 2 5 else s)
  | none => .next s

/-- GRESUME: the checkpointed packets go to the guest again with their numbers, and delivery resumes; ignored in P1 (R385). -/
def execGresume (s : State) : Out :=
  if s.pkg.p1 then .next s
  else if s.hs.guest.st = .preempted then
    let s1 : State := { s with wk := { s.wk with guestCmds := s.wk.guestCmds.map fun g => { g with checkpointed := false } } }
    .next ((s1.modGuest fun g => { g with st := .present, stopped := false }).setGuestCtl 1)
  else .next (s.setGuestCtl 1)

/-! ### The coherent port (R365, R369) -/

def State.answer (s : State) (code : Nat) (data : List (Option Byte)) (leaf : DWord) : State :=
  s.modGuest fun g => { g with reply := code, data := data, leaf := leaf }

/-- A translation as the guest receives it: TGT, PA, W, RO, VER, MSA and C of the leaf. -/
def guestLeaf (e : DWord) : DWord := e &&& 0xf800_ffff_ffff_007c#64

/-- The bytes that a request touches, and whether it is raw and whether it writes. -/
def askShape : GuestAsk → Nat × Bool × Bool
  | .read n => (n, false, false)
  | .rawRead n => (n, true, false)
  | .write bs _ => (bs.length, false, true)
  | .atomic .. => (4, false, true)
  | .translate => (1, false, false)

/-- A guest atomic: the word at the address is read and written in one step (R227, R336, R365), with the operations of Table 13.7 in
order, CAS last. -/
def State.guestAtomic (s : State) (t off code : Nat) (a b : Word) : State :=
  let old := (List.range 4).map fun i => s.homeByte (storeAddr t (off + i))
  let bad := old.any Prod.snd
  let w := gvAmoWord (9 + code) (BitVec.ofNat 32 (leNat (old.map Prod.fst))) a b
  ((s.touch (storeRange t off 4)).extWrite t off ((wordBytes w).map fun x => (x, bad))).answer 0
    (old.map fun e => if bad then none else some e.1) 0

/-- GUEST_COHERENT_REQUEST: a request of the guest is checked, translated and performed; the answer carries 0 or why it was refused. A
request that the guest has translated itself does not wait for a migration's hold, and may name only pages whose translation the guest
holds (R365, R366, log entry 133). -/
def execGuestCoherentRequest (req : GuestRequest) (s : State) : Out :=
  if !s.hs.guest.st.usable then .next s
  else
    let t := req.home.toNat * 2 ^ 20 + req.index.toNat
    let h := makeHandle t req.generation.toNat
    let off := req.offset.toNat
    let (len, raw, write) := askShape req.ask
    match s.extFault h off len raw write with
    | some why => .next (s.answer why [] 0)
    | none =>
      if req.translated && !(pagesIn off len).all fun k => s.hs.guest.cached.contains (t, k) then .next (s.answer 4 [] 0)
      else if (if req.translated then s.extBlocked h off len write else s.extHeld h off len write) then .next s
      else match req.ask with
        | .read n => let r := s.extRead t off n
                     .next (r.2.answer 0 r.1 0)
        | .rawRead n => let r := s.rawRead t off n
                        .next (r.2.answer 0 r.1 0)
        | .write bs keep =>
          let s1 := s.extWrite t off bs
          let ls := ((storeRange t off bs.length).map lineOf).eraseDups
          .next ((s1.answer 0 [] 0).modGuest fun g => if keep then { g with modified := g.modified ++ ls } else g)
        | .atomic code a b => .next (if code < 6 then s.guestAtomic t off code a b else s.answer 5 [] 0)
        | .translate =>
          let s1 := s.answer 0 [] (guestLeaf ((s.pageLeaf? t (off / pageBytes)).getD 0))
          .next (s1.modGuest fun g => { g with cached := g.cached ++ [(t, off / pageBytes)] })

end Sys2Proof.Machine
end

