-- ==== Sys2Proof/Machine/Reliability.lean ====
section
/-! DEFINITION. Detected errors and poison (R372 to R376), fences (R378 to R380), links, thermal events and bring-up (R386, R387). -/
namespace Sys2Proof.Machine
open Sys2Proof

/-! ### Where an error lies -/

/-- The mark of a 64-byte sector of a tensor's storage. -/
def State.poisonSector (s : State) (a : Nat) : State := s.setPoison (logicalMark (a / 64 * 64)) true

/-- The storage sectors whose stored bytes lie in a sector of device memory: those of an expanded page, and the granules of
compressed blocks. -/
def State.storageOf (s : State) (p : Nat) : List Nat :=
  s.sq.recs.flatMap fun e =>
    if !e.2.stored then []
    else
      ((s.compPages e.1 e.2.pages).flatMap fun k => (List.range 512).flatMap fun g =>
        let a := storeAddr e.1 (k * pageBytes + g * 128)
        let first := blockKey a * 32
        let at_ := s.packedBefore first (granuleKey a - first)
        let hit := (List.range (tagSize (s.tag (granuleKey a)))).any fun i => s.packedAddr a (at_ + i) / 64 == p / 64
        if hit then [a, a + 64] else []) ++
      (List.range e.2.pages).filterMap fun k =>
        match s.ownLeaf? e.1 k with
        | some l => if leafBase l ≤ p && p < leafBase l + pageBytes then some (storeAddr e.1 (k * pageBytes + (p - leafBase l))) else none
        | none => none

/-- Poisons a sector of HBM or tier L: the data it stores, or the sector itself outside every tensor. -/
def State.poisonDevice (s : State) (p : Nat) : State :=
  match s.storageOf p with
  | [] => s.setPoison p true
  | as => as.foldl (fun u a => if u.overwritten a then u else u.poisonSector a) s

def PV.markLane (v : PV) (j : Nat) : PV := { v with poi := v.poi ||| (1#64 <<< j) }
def PW.marked (x : PW) : PW := { x with poi := true }

/-- Marks the word of a register or result port of a source code (Table 5.2). Predicates and identities carry no mark. -/
def Regs.poisonSource (r : Regs) (src lane : Nat) : Regs :=
  if src < 0x40 then { r with sr := vset r.sr (r.sIndex src) (vget r.sr (r.sIndex src) PW.zero).marked }
  else if src < 0x60 then { r with vr := vset r.vr (r.vIndex (src - 0x40)) ((vget r.vr (r.vIndex (src - 0x40)) PV.zero).markLane lane) }
  else if src < 0xa0 then r.setAddr ((src - 0x60) / 16) (src % 16) (r.addr ((src - 0x60) / 16) (src % 16)).marked
  else if 0xb0 ≤ src ∧ src < 0xc3 then { r with res := vset r.res (src - 0xb0) ((vget r.res (src - 0xb0) PV.zero).markLane lane) }
  else r

def modNth {α : Type} (f : α → α) : Nat → List α → List α
  | _, [] => []
  | 0, x :: xs => f x :: xs
  | n + 1, x :: xs => x :: modNth f n xs

/-- The core in which an error lies. -/
def ErrorPlace.core : ErrorPlace → Option Nat
  | .granule a => some (coreOfPhys a)
  | .register c _ _ => some (coreOf c)
  | .operand c _ _ => some (coreOf c)
  | .snapshot c _ _ => some (coreOf c)
  | .gate c _ _ => some (coreOf c)
  | .result c _ _ => some (coreOf c)
  | .accum c _ => some (coreOf c)
  | .codebook k _ _ => some k
  | .rowSlot k _ _ => some k
  | _ => none

/-- The core whose VS or MX half an error counts against (Table 27.3); the scratchpad is in neither (R8). -/
def ErrorPlace.counted : ErrorPlace → Option Nat
  | .granule _ => none
  | e => ErrorPlace.core e

/-- The target of a device address: an HBM stack, or 16 for tier L. -/
def deviceTgt (a : Nat) : Nat := (a - devBase) / 2 ^ 48

/-- The pseudo-channel of an HBM address (R334, R380). -/
def pseudoChannel (a : Nat) : Nat := deviceTgt a * 64 + frameOfAddr a % 16 * 4 + a % pageBytes / 256 % 4

/-- The source code, the stack, the unit index and the address of an error's record (Table 27.2). -/
def State.errorSite (s : State) (e : ErrorPlace) : Nat × Nat × Nat × Nat :=
  let here (src : Nat) (a : Nat) : Nat × Nat × Nat × Nat :=
    match ErrorPlace.core e with
    | some k => (src, stackOf k, k, a)
    | none => (src, 8, 0, a)
  match e with
  | .granule a => here 1 a
  | .sector a =>
    if deviceTgt a < 16 then (4, deviceTgt a / 2, pseudoChannel a, a - devBase)
    else
      let k := (a - devBase) % 2 ^ 48 / pageBytes
      match (List.range 4).find? fun x => s.expanderFirst x ≤ k && k < s.expanderFirst x + s.expanderPages x with
      | some x => (6, 8, x, a - devBase)
      | none => (5, 8, 0, a - devBase)
  | .l2 a => (1, s.homeStack (storeTensor a), s.homeStack (storeTensor a), ((s.place? (storeTensor a) (storeOff a)).getD devBase) - devBase)
  | .l2Tag a => (1, s.homeStack (storeTensor a), s.homeStack (storeTensor a), ((s.place? (storeTensor a) (storeOff a)).getD devBase) - devBase)
  | .compTag a _ => (9, s.homeStack (storeTensor a), s.homeStack (storeTensor a), s.granuleAddr a 0 - devBase)
  | .register .. | .operand .. | .snapshot .. | .gate .. => here 2 0
  | .result .. | .accum .. => here 3 0
  | .codebook .. | .rowSlot .. => here 1 0
  | .tableEntry p k =>
    let t := k / 2 ^ 31
    let page := k % 2 ^ 29 * 2 ^ (levelShift (k / 2 ^ 29 % 4) - 16)
    (10, p, p, (((s.rec? t).map fun r => (makeHandle t r.gen).toNat).getD 0) + 2 ^ 32 * page)
  | .record t => (11, s.homeStack t, s.homeStack t, ((s.rec? t).map fun r => (makeHandle t r.gen).toNat).getD 0)
  | .streamWord sid _ | .streamState sid _ => (1, (s.stackOfDie (sid / 16)).getD 8, (s.stackOfDie (sid / 16)).getD 0, 0)

/-- Whether a compression tag of a stored granule is one of those that the base die never writes (R337). -/
def State.badTag (s : State) (a tag : Nat) : Bool :=
  6 ≤ tag && tag < 16 && s.extCompressed (storeTensor a) (storeOff a / pageBytes)

/-- Poisons what an error spoiled (Table 27.1). -/
def State.spoil (s : State) : ErrorPlace → State
  | .granule a => s.setPoison a true
  | .sector a => s.poisonDevice a
  | .l2 a => s.poisonSector a
  | .l2Tag a => (List.range 4).foldl (fun u i => u.poisonSector (lineOf a * 256 + 64 * i)) s
  | .compTag a tag => if s.badTag a tag then { s with ms := { s.ms with badTags := s.ms.badTags.put (granuleKey a) (BitVec.ofNat 4 tag) } } else s
  | .register c src lane => s.modRegs c fun r => r.poisonSource src lane
  | .operand c i lane => s.modRegs c fun r => { r with opnd := vset r.opnd i ((vget r.opnd i PV.zero).markLane lane) }
  | .snapshot c i lane => s.modCtx c fun x => { x with snap := modNth (fun f => { f with val := f.val.markLane lane }) i x.snap }
  | .gate c i w => s.modCtx c fun x =>
      { x with gate := modNth (fun g => { g with poi := g.poi ++ ((g.cells.drop (4 * w)).take 4).map Prod.fst }) i x.gate }
  | .result c i lane => s.modCtx c fun x =>
      { x with flights := x.flights.map fun f => if f.port = i then { f with val := f.val.markLane lane } else f,
               r := { x.r with res := vset x.r.res i ((vget x.r.res i PV.zero).markLane lane) } }
  | .accum c t => s.modCtx c fun x => { x with accPoi := x.accPoi ||| (1#8 <<< t) }
  | .codebook k j i => s.modBank k j fun b => { b with poi := b.poi ||| (1#256 <<< i) }
  | .rowSlot k p g => s.modCore k fun q => (List.range 8).foldl (fun u j => u.setRow p (8 * g + j) (u.rowAt p (8 * g + j)).1 true) q
  | .tableEntry p k => { s with ms := { s.ms with broken := if s.ms.broken.contains (p, k) then s.ms.broken else s.ms.broken ++ [(p, k)] } }
  | .record t => { s with sq := { s.sq with badRecs := if s.sq.badRecs.contains t then s.sq.badRecs else s.sq.badRecs ++ [t] } }
  | .streamState sid k =>
    { s with sq := { s.sq with badState := if s.sq.badState.contains (sid, k) then s.sq.badState else s.sq.badState ++ [(sid, k)] } }
  | .streamWord sid pc =>
    { s with sq := { s.sq with badWords := if s.sq.badWords.contains (sid, pc) then s.sq.badWords else s.sq.badWords ++ [(sid, pc)] } }

/-! ### Cores and clusters (R378, R379) -/

/-- Work in flight of a fenced core is lost with it. -/
def State.dropCoreWork (s : State) (k : Nat) : State :=
  let on (c : Nat) : Bool := coreOf c == k
  { s with wk := { s.wk with
      ls := s.wk.ls.filter fun o => !on o.ctx,
      gv := s.wk.gv.filter fun o => !on o.ctx,
      tiles := s.wk.tiles.filter fun o => o.core != k,
      fprWaits := s.wk.fprWaits.filter fun o => !on o.ctx,
      mx := s.wk.mx.filter fun o => o.core != k,
      rw := s.wk.rw.filter fun o => o.core != k,
      cbLoads := s.wk.cbLoads.filter fun o => o.core != k,
      pubs := s.wk.pubs.filter fun o => !on o.ctx,
      guestCmds := s.wk.guestCmds.filter fun g => g.isStream || g.core != k || g.ingress } }

/-- A core leaves service: its tasks end, its work in flight, codebook banks and row slots are lost. -/
def State.loseCore (s : State) (k : Nat) : State :=
  if (s.core k).fenced then s
  else
    let s1 := (List.range 4).foldl (fun t h =>
      match t.ctx? (ctxOf k h) with
      | some x => t.endTask k x.pid
      | none => t) s
    (s1.dropCoreWork k).modCore k fun q =>
      { q with fenced := true, banks := Vector.replicate 4 Bank.reset, take := none, div := none, slotOwner := [], slotMem := [],
               slotPoi := [] }

def State.fencedCoresOf (s : State) (ck : Nat) : Nat :=
  ((List.range 48).filter fun i => (s.core (ck * 48 + i)).fenced).length

/-! ### Stacks (R380) -/

/-- The stack that takes over from a fenced one: the lowest that no virtual die maps to, in service and not taken yet. -/
def State.spareStack (s : State) (p : Nat) : Option Nat :=
  (List.range 8).find? fun q => q != p && (s.dieOfStack q).isNone && !s.pkg.fencedStacks.contains q &&
    !s.pkg.copying.any fun c => c.2 == q

/-- A stream of a virtual die that is no longer mapped stops in FAULTED. -/
def State.strand (s : State) (v : Nat) : State :=
  s.sq.streams.foldl (fun t e =>
    if e.1 / 16 = v ∧ e.2.st ≠ .empty then t.streamFault e.1 10 0xa1 0 v else t) s

/-- The barges of a die that are running or being saved lose their tasks. -/
def State.endUnsaved (s : State) (v : Nat) : State :=
  (s.sq.barges.filter fun b => b.die == v && (b.st == .placed || b.st == .saving)).foldl (fun t b =>
    ((t.dropAllocsOf (.save b.id)).endBarge b).modBarge b.id fun g => { g with st := .placed }) s

/-- Virtual die v becomes unmapped with no spare: step 3 of R380. -/
def State.unmapDie (s : State) (v : Nat) : State :=
  let s1 := s.endUnsaved v
  let s2 : State := { s1 with pkg := { s1.pkg with vmap := vset s1.pkg.vmap v none, capgen := s1.pkg.capgen + 1 } }
  let s3 := s2.strand v
  (s3.sq.replays.filter fun r => r.tensor / 2 ^ 20 == v).foldl (fun t r =>
    t.failReplay maxChain r.id 0x92 (((t.rec? r.tensor).map fun q => (makeHandle r.tensor q.gen).toNat).getD 0)) s3

/-- Whether a barge of a die is being saved, or waits for its save area, within the bound (R309, R312). -/
def State.savesOpen (s : State) (v : Nat) : Bool :=
  s.sq.barges.any fun b => b.die == v && (b.st == .saving || (b.st == .placed && (s.allocOf (.save b.id) none).isSome)) &&
    (b.saveBy.map fun d => decide (s.dieTick v < d)).getD true

/-- Step 3 of the fence of a stack with no spare follows once the saves of its die are over; until then copying names the stack itself. -/
def State.endFence (s : State) (v : Nat) : State :=
  if (s.pkg.copying.find v).isSome ∧ s.pkg.copying.find v = s.stackOfDie v ∧ !s.savesOpen v then
    { s with pkg := { s.pkg with copying := s.pkg.copying.erase v } }.unmapDie v
  else s

/-- Fences a stack: barges of its virtual die are suspended, and the die moves to a spare or becomes unmapped. -/
def State.fenceStack (s : State) (p reason : Nat) : State :=
  if 8 ≤ p || s.pkg.fencedStacks.contains p then s
  else
    let s1 : State := { s with pkg := { s.pkg with fencedStacks := s.pkg.fencedStacks ++ [p] } }
    let s2 := s1.fenceNote 4 reason p
    match s2.dieOfStack p with
    | none => s2
    | some v =>
      let s3 := s2.drainWhere fun h => h.die == v
      let s4 : State := { s3 with pkg := { s3.pkg with copying := s3.pkg.copying.put v ((s3.spareStack p).getD p) } }
      ((s4.sq.barges.filter fun b => b.die == v && b.st == .placed).foldl (fun t b => t.preempt b.id) s4).endFence v

/-- Fences a cluster: all 48 of its cores, and with more than two fenced the stack. -/
def State.fenceCluster (s : State) (ck reason : Nat) : State :=
  if 48 ≤ ck || s.pkg.fencedClusters.contains ck then s
  else
    let s1 := (List.range 48).foldl (fun t i => t.loseCore (ck * 48 + i)) s
    let s2 : State := { s1 with pkg := { s1.pkg with fencedClusters := s1.pkg.fencedClusters ++ [ck] } }
    let s3 := s2.fenceNote 2 reason ck
    if 2 < (s3.pkg.fencedClusters.filter fun c => c / 6 == ck / 6).length then s3.fenceStack (ck / 6) reason else s3

/-- Fences a core, and with two fenced its cluster. -/
def State.fenceCore (s : State) (k reason : Nat) : State :=
  if 2304 ≤ k || (s.core k).fenced then s
  else
    let s1 := (s.loseCore k).fenceNote 1 reason k
    if 2 ≤ s1.fencedCoresOf (k / 48) then s1.fenceCluster (k / 48) reason else s1

/-! ### Memory units and ports -/

/-- The segments with a page in a withdrawn frame are held, so that SEGMENT_MIGRATION moves them (R322). -/
def State.holdOut (s : State) : State :=
  s.sq.recs.foldl (fun u e => u.holdSegs e.1 ((u.placesWhere e.1 e.2 u.outAddr).map fun p => e.2.placePage p / 32)) s

/-- A reserve page in a withdrawn frame moves to another frame of its die. -/
def State.moveReserve (s : State) : State :=
  s.ms.reserve.foldl (fun u r =>
    if u.channelOut (frameChannel r.2.2) then
      match u.takeFrame r.1 3 with
      | some (f, u1) =>
        let u2 := (u1.copyRaw (frameAddr r.2.2) (frameAddr f)).dropFrame r.2.2
        { u2 with ms := { u2.ms with reserve := u2.ms.reserve.map fun q => if q == r then (r.1, r.2.1, f) else q } }
      | none => u
    else u) s

/-- Fences an HBM pseudo-channel. -/
def State.fenceChannel (s : State) (i reason : Nat) : State :=
  if 1024 ≤ i || s.pkg.fencedChannels.contains i then s
  else
    let s1 : State := { s with pkg := { s.pkg with fencedChannels := s.pkg.fencedChannels ++ [i] } }
    (s1.holdOut.moveReserve).fenceNote 3 reason i

/-- Fences a tier-L expander: tensors with a page there go to DROP. -/
def State.fenceExpander (s : State) (e reason : Nat) : State :=
  if 4 ≤ e || s.pkg.fencedExpanders.contains e then s
  else
    let s1 : State := { s with pkg := { s.pkg with fencedExpanders := s.pkg.fencedExpanders ++ [e] } }
    let hit (p : Nat × Rec) : Bool := p.2.stored && (List.range p.2.pages).any fun k =>
      match s1.ownLeaf? p.1 k with
      | some l => pteTgt l == 16 && s1.tlOut (ptePa l / pageBytes)
      | none => false
    ((s1.sq.recs.filter hit).foldl (fun u p => u.dropTensor p.1) s1).fenceNote 6 reason e

/-- Fences a peer port. -/
def State.fencePeer (s : State) (port reason : Nat) : State :=
  if 8 ≤ port || vget s.pkg.peers port 0 = 3 then s
  else ({ s with pkg := { s.pkg with peers := vset s.pkg.peers port 3 } } : State).fenceNote 7 reason port

/-! ### ERROR_DETECTED and PATROL_SCRUB (R372 to R374) -/

/-- Counts an uncorrected error, and fences the unit that reaches its limit (Table 27.3). -/
def State.countError (s : State) (e : ErrorPlace) : State :=
  match ErrorPlace.counted e with
  | some k =>
    let now := vget s.pkg.ticks (stackOf k) 0
    let ts := ((s.core k).errTimes ++ [now]).filter fun t => now < t + 10 ^ 8
    let s1 := s.modCore k fun q => { q with errTimes := ts }
    if 3 ≤ ts.length then s1.fenceCore k 1 else s1
  | none =>
    match e with
    | .sector a =>
      if deviceTgt a < 16 then
        let i := pseudoChannel a
        let now := vget s.pkg.ticks (deviceTgt a / 2) 0
        let old := (s.pkg.sectorErrs.get i []).filter fun (t : Nat × Nat) => t.1 != a / 64 && now < t.2 + 86400 * 10 ^ 8
        let ts := old ++ [(a / 64, now)]
        let s1 : State := { s with pkg := { s.pkg with sectorErrs := s.pkg.sectorErrs.put i ts } }
        if 16 ≤ ts.length then s1.fenceChannel i 1 else s1
      else s
    | _ => s

/-- Whether an error is one that the device can find there: a compression tag is checked for its value alone. -/
def State.canFind (s : State) (e : ErrorEvent) : Bool :=
  match e.place with
  | .compTag a tag => !e.corrected && s.badTag a tag
  | _ => true

/-- An error: corrected, or its data poisoned; logged either way. -/
def State.takeError (s : State) (e : ErrorEvent) : State :=
  if !s.canFind e then s else
  let site := s.errorSite e.place
  let s1 := if e.corrected then s else s.spoil e.place
  let s2 := s1.logError (if e.corrected then 0 else 1) site.1 site.2.1 site.2.2.1 e.syndrome.toNat site.2.2.2
  if e.corrected then s2 else s2.countError e.place

def execErrorDetected (err : ErrorEvent) (s : State) : Out := .next (s.takeError err)

/-- PATROL_SCRUB: what the scrub finds is corrected or poisoned; newSector is what an uncorrected sector of device memory holds. -/
def execPatrolScrub (find : ErrorEvent) (newSector : List (BitVec 8)) (s : State) : Out :=
  match find.corrected, find.place with
  | false, .sector a =>
    if newSector.length = 64 ∧ devBase ≤ a then .next ((s.setBytes (a / 64 * 64) newSector).takeError find) else .next (s.takeError find)
  | _, _ => .next (s.takeError find)

/-! ### Links (R377, R378) -/

/-- LINK_REPLAY: a flit is sent again; order is kept and nothing else changes. -/
def execLinkReplay (stack unit : Nat) (s : State) : Out := .next (s.logError 0 7 stack unit 0 0)

/-- LINK_FAILURE: a unit whose link stays down is fenced; a mesh link or I/O-die path makes the device FATAL. -/
def execLinkFailure (kind : LinkKind) (unit : Nat) (s : State) : Out :=
  match kind with
  | .mesh =>
    let s1 := s.logError 3 8 8 unit 0 0
    .next { s1 with pkg := { s1.pkg with fatal := true, deadLinks := s1.pkg.deadLinks ++ [unit] } }
  | .expander => .next ((s.logError 2 8 8 unit 0 0).fenceExpander unit 3)
  | .peer => .next ((s.logError 2 8 8 unit 0 0).fencePeer unit 3)
  | .guest => .next ((s.logError 2 8 8 unit 0 0).fenceGuest 4 3)
  | .scratchFabric => .next ((s.logError 2 8 (unit / 6) unit 0 0).fenceCluster unit 3)
  | .sequencer => .next ((s.logError 2 8 unit unit 0 0).fenceStack unit 1)

/-! ### Thermal events (R386) -/

/-- THERMAL_THROTTLE: the stack runs at the lowest clock, which alters no cycle count (R3). -/
def execThermalThrottle (stack : Nat) (s : State) : Out :=
  .next { s with pkg := { s.pkg with throttled := if s.pkg.throttled.contains stack then s.pkg.throttled else s.pkg.throttled ++ [stack] } }

/-- THERMAL_TRIP: the stack is fenced with reason 6. -/
def execThermalTrip (stack : Nat) (s : State) : Out := .next ((s.logError 2 14 stack stack 0 0).fenceStack stack 6)

/-! ### SPARE_COPY_COMPLETE (R380) -/

/-- A device address of HBM stacks 2p and 2p + 1 at its place on stacks 2q and 2q + 1. -/
def shiftAddr (p q a : Nat) : Nat := if devBase ≤ a ∧ deviceTgt a / 2 = p then a - p * 2 ^ 49 + q * 2 ^ 49 else a

/-- A leaf that targets p's memory, rewritten to q's. -/
def retarget (p q : Nat) (e : DWord) : DWord :=
  if pteV e && pteLeaf e && pteTgt e / 2 == p then
    (e &&& 0x07ff_ffff_ffff_ffff#64) ||| (BitVec.ofNat 64 (2 * q + pteTgt e % 2) <<< 59)
  else e

/-- The bytes, marks, frames, counters, L2 sets and leaves of stack p, moved to stack q, and the leaves of the updates still to be written. -/
def State.moveStack (s : State) (p q : Nat) : State :=
  let mine (a : Nat) : Bool := devBase ≤ a && a < devBase + 2 ^ 53 && deviceTgt a / 2 == p
  let away (a : Nat) : Bool := devBase ≤ a && a < devBase + 2 ^ 53 && deviceTgt a / 2 == q
  let markBase (k : Nat) : Nat := (k - devBase) * 64
  let markMine (k : Nat) : Bool := devBase ≤ k && mine (markBase k)
  let markAway (k : Nat) : Bool := devBase ≤ k && away (markBase k)
  let mem := s.mem.foldl (fun (m : List Host.Cell) c => if mine c.1 then Map.set m (shiftAddr p q c.1) c.2 0 else m)
    (s.mem.filter fun c => !mine c.1 && !away c.1)
  let poi := s.memPoi.foldl (fun (m : Map Bool) c => if markMine c.1 then m.set (markOf (shiftAddr p q (markBase c.1))) c.2 false else m)
    (s.memPoi.filter fun c => !markMine c.1 && !markAway c.1)
  let frame (f : Nat) : Nat := if f / 2 ^ 21 = p then f - p * 2 ^ 21 + q * 2 ^ 21 else f
  let region (x : Nat) : Nat := if x / 2 ^ 28 = p then x - p * 2 ^ 28 + q * 2 ^ 28 else x
  { s with
    mem := mem, memPoi := poi,
    ms := { s.ms with
      frames := s.ms.frames.map frame,
      packs := s.ms.packs.map fun e => (e.1, e.2.map fun f => f.map frame),
      l2 := s.ms.l2.map fun e => (e.1, if e.2.set / 2 ^ 16 = p then { e.2 with set := q * 2 ^ 16 + e.2.set % 2 ^ 16 } else e.2),
      reserve := s.ms.reserve.map fun r => (r.1, r.2.1, frame r.2.2),
      counters := s.ms.counters.foldl (fun m c => m.put (region c.1) c.2) [],
      notes := s.ms.notes.map fun n => (n.1, region n.2),
      tables := s.ms.tables.map fun m => m.map fun e => (e.1, retarget p q e.2) },
    hs := { s.hs with tuQueue := s.hs.tuQueue.map fun u => { u with pages := u.pages.map fun e => (e.1, retarget p q e.2) } } }

/-- SPARE_COPY_COMPLETE: the saves on virtual die v are over, and its copy to the spare is done: its leaves are rewritten and shot down, v
maps to the spare, CAPGEN advances (R351), and its streams and barges continue there. Tasks whose save did not finish in time have ended. -/
def execSpareCopyComplete (v : Nat) (s : State) : Out :=
  match s.pkg.copying.find v, s.stackOfDie v with
  | some q, some p =>
    if q = p || s.savesOpen v then .next s
    else
    let s1 := (s.endUnsaved v).moveStack p q
    let s2 := (s1.recsOn v).foldl (fun u e => u.shootDown e.1 fun _ => true) s1
    let s3 : State := { s2 with pkg := { s2.pkg with vmap := vset s2.pkg.vmap v (some q), copying := s2.pkg.copying.erase v,
                                                     capgen := s2.pkg.capgen + 1 } }
    .next (s3.modDie v fun d => { d with heat := Config.heatClasses q })
  | _, _ => .next s

/-! ### Bring-up (R351, R387) -/

/-- PEER_PORT_UP: a peer port trains, or is up; its state changes and CAPGEN advances. -/
def execPeerPortUp (port : Nat) (up : Bool) (s : State) : Out :=
  let new := if up then 2 else 1
  if 8 ≤ port ∨ vget s.pkg.peers port 0 = 3 ∨ vget s.pkg.peers port 0 = new then .next s
  else .next { s with pkg := { s.pkg with peers := vset s.pkg.peers port new, capgen := s.pkg.capgen + 1 } }

/-- The guest site at bring-up, with a guest in it or none. -/
def Guest.fitted (guest : Bool) : Guest :=
  if guest then
    { Guest.reset with st := .present, vendor := Config.guestVendor, firstOp := Config.guestFirst.toNat, lastOp := Config.guestLast.toNat }
  else Guest.reset

/-- RESET: the firmware image in module flash is verified and the device comes up to READY, or it enters recovery. The model's own turn
fields go on, and module flash keeps its image. -/
def execReset (guest : Bool) (s : State) : Out :=
  let box := { Mailbox.reset with flash := s.hs.mailbox.flash }
  let r : State :=
    { State.reset with agenda := s.agenda, turnNo := s.turnNo, nextId := s.nextId, freeNo := s.freeNo,
                       hs := { HostSide.reset with mailbox := box } }
  if Config.verifies s.hs.mailbox.flash then
    .next { r with
      pkg := { r.pkg with ready := true, peers := Vector.ofFn fun i => if Config.peerUp i.val then 2 else 0,
                          expanders := Vector.ofFn fun i => Config.expanderBytes i.val },
      sq := { r.sq with dies := Vector.ofFn fun i => { DieRegs.reset with heat := Config.heatClasses i.val } },
      hs := { r.hs with guest := Guest.fitted guest } }
  else .next { r with pkg := { r.pkg with recovery := true } }

end Sys2Proof.Machine
end

