-- ==== Sys2Proof/Machine/Loader.lean ====
section
/-! DEFINITION. Containers (R98 to R109) and the loading and release of images (R352). -/
namespace Sys2Proof.Machine
open Sys2Proof

/-! ### Reading a container -/

/-- The little-endian field of n bytes at an offset; bytes beyond the end read as zero. -/
def fileNat (f : List Byte) (off n : Nat) : Nat := leNat ((List.range n).map fun i => f.getD (off + i) 0)
def fileZero (f : List Byte) (off n : Nat) : Bool := fileNat f off n == 0

/-- Reads item 0, 1, … n − 1 of a table: all of them, or none when one cannot be read. -/
def readItems (item : Nat → Option α) : Nat → Option (List α)
  | 0 => some []
  | n + 1 => (readItems item n).bind fun front => (item n).map fun last => front ++ [last]

/-- A section: its type and bytes. -/
abbrev Section := Nat × List Byte

/-- Entry i of the section table: none when it breaks a rule of R98, whatever its type: that of an annotation, whose bytes the loader ignores,
too (DESIGN CHOICE, log entry 137). -/
def readSection (f : List Byte) (i : Nat) : Option Section :=
  let at_ := 0x40 + 16 * i
  let off := fileNat f (at_ + 8) 4
  let size := fileNat f (at_ + 12) 4
  if !fileZero f (at_ + 4) 4 || off % 8 != 0 || f.length < off + size then none
  else some (fileNat f at_ 4, (f.drop off).take size)

/-- The section table (R98, R99): none for a fault of the table. -/
def readSections (f : List Byte) (n : Nat) : Option (List Section) :=
  if f.length < 0x40 + 16 * n then none else readItems (readSection f) n

def sectionOf (ss : List Section) (ty : Nat) : Option (List Byte) := (ss.find? fun s => s.1 == ty).map Prod.snd
def sectionOr (ss : List Section) (ty : Nat) : List Byte := (sectionOf ss ty).getD []

/-- Section types that a kernel image and a stream image may carry (Table 5.16). -/
def allowedTypes (kind : Nat) : List Nat := if kind = 1 then [1, 2, 3, 4, 5, 6, 7] else [1, 2, 8, 9, 10]

/-- Unknown types and counts; types from 0x8000_0000 up are ignored. -/
def typesOk (kind : Nat) (ss : List Section) : Bool :=
  let known := ss.filter fun s => s.1 < 2 ^ 31
  known.all (fun s => (allowedTypes kind).contains s.1 && (known.filter fun t => t.1 == s.1).length == 1) &&
  [1, 2].all fun ty => (sectionOf ss ty).isSome

/-! ### Kernel images -/

/-- The bundle whose index entry is i in a code section of b bundles (R103): its words, as far as the section has them, or none when its
offset is not the end of the bundle before it. A bundle that the section cuts off is illegal when it issues (ILL_HDR, R85), not here
(DEDUCED, log entry 80). -/
def readBundle (f : List Byte) (b i : Nat) : Option (List Word) :=
  let word (off : Nat) : Word := BitVec.ofNat 32 (fileNat f (4 + 4 * b + 4 * off) 4)
  let start (j : Nat) : Nat := fileNat f (4 + 4 * j) 4
  let len (j : Nat) : Nat := 7 + headerNlit (word (start j))
  let size := (f.length - 4 - 4 * b) / 4
  if start i = 0 && i = 0 || i != 0 && start (i - 1) < size && start i = start (i - 1) + len (i - 1) then
    some ((List.range (min (len i) (size - start i))).map fun k => word (start i + k))
  else none

/-- The bundles of a code section (R103): none when the index breaks its rule. -/
def readBundles (f : List Byte) : Option (List (List Word)) :=
  let b := fileNat f 0 4
  if f.length < 4 + 4 * b then none else readItems (readBundle f b) b

def bundleMarked (ws : List Word) : Bool := (ws.getD 0 0).getLsbD 20
/-- The literals of a bundle. -/
def bundleLits (ws : List Word) : List Word := ws.drop 7

def readPlan (f : List Byte) : List BufEntry :=
  (List.range (f.length / 24)).map fun i =>
    { id := fileNat f (24 * i) 2, bank := fileNat f (24 * i + 2) 1, off := fileNat f (24 * i + 4) 4, size := fileNat f (24 * i + 8) 4,
      first := fileNat f (24 * i + 12) 4, last := fileNat f (24 * i + 16) 4 }

def planOk (f : List Byte) : Bool :=
  let ps := readPlan f
  f.length % 24 == 0 && (ps.map (·.id)).eraseDups.length == ps.length && ps.all (fun e => e.size != 0 && e.bank < 16) &&
  (List.range ps.length).all fun i => fileZero f (24 * i + 3) 1 && fileZero f (24 * i + 20) 4

def readRings (f : List Byte) : List RingEntry :=
  (List.range (f.length / 12)).map fun i =>
    { ring := fileNat f (12 * i) 1, buf := fileNat f (12 * i + 2) 2, slotSize := fileNat f (12 * i + 4) 4, slots := fileNat f (12 * i + 8) 4 }

def ringsOk (f : List Byte) (plan : List BufEntry) (count : Nat) : Bool :=
  let rs := readRings f
  f.length % 12 == 0 && rs.length == count && (rs.map (·.ring)).eraseDups.length == rs.length &&
  (List.range rs.length).all (fun i => fileZero f (12 * i + 1) 1) &&
  rs.all fun r => r.ring < 16 && r.slotSize != 0 && r.slotSize % 32 == 0 && r.slots != 0 &&
    plan.any fun e => e.id == r.buf && r.slotSize * r.slots ≤ e.size

/-- The codebook images of a section (R106), read one after another; fuel bounds their number. -/
def readBooks (f : List Byte) (cbmask : Nat) : Nat → Nat → Option (List CbImage)
  | 0, off => if off = f.length then some [] else none
  | fuel + 1, off =>
    if off = f.length then some []
    else
      let bank := fileNat f off 1
      let count := fileNat f (off + 2) 2
      if f.length < off + 8 + 8 * count || 4 ≤ bank || cbmask / 2 ^ bank % 2 = 0 || 4 ≤ fileNat f (off + 1) 1 || count = 0 || 256 < count ||
          !fileZero f (off + 4) 4 then none
      else (readBooks f cbmask fuel (off + 8 + 8 * count)).map fun rest =>
        { bank := bank, entries := (List.range count).map fun i => BitVec.ofNat 64 (fileNat f (off + 8 + 8 * i) 8) } :: rest

/-- The mark table lists exactly the bundles with MARK = 1, in ascending order (R107). -/
def marksOk (f : List Byte) (bundles : List (List Word)) : Bool :=
  let marked := (List.range bundles.length).filter fun i => bundleMarked (bundles.getD i [])
  f.length == 4 + 4 * fileNat f 0 4 && (List.range (fileNat f 0 4)).map (fun i => fileNat f (4 + 4 * i) 4) == marked

/-- The literal constraints hold (R108). -/
def literalsOk (f : List Byte) (bundles : List (List Word)) (plan : List BufEntry) : Bool :=
  f.length % 12 == 0 && (List.range (f.length / 12)).all fun i =>
    let b := fileNat f (12 * i) 4
    let lit := (bundleLits (bundles.getD b []))[fileNat f (12 * i + 4) 1]?
    fileZero f (12 * i + 8) 4 && match lit, fileNat f (12 * i + 5) 1 with
    | some w, 0 => w.toNat < bundles.length
    | some w, 1 => plan.any fun e => e.id == fileNat f (12 * i + 6) 2 &&
        e.bank * 2 ^ 18 + e.off ≤ w.toNat % 2 ^ 22 && w.toNat % 2 ^ 22 < e.bank * 2 ^ 18 + e.off + e.size
    | _, _ => false

/-- The checks that the loader makes of the resources of a kernel image (Table 5.17). -/
def kernelHeadOk (f : List Byte) (bundles : Nat) : Bool :=
  f.length == 32 && 1 ≤ bundles && bundles ≤ 2 ^ 20 && fileNat f 0 4 == bundles && fileNat f 4 4 < bundles && fileNat f 9 1 ≤ 16 &&
  fileNat f 0x11 1 ≤ 16 && fileZero f 0x12 2 && fileZero f 0x1c 4

/-- A kernel image: a load status, or the image with its bank map from LMAP and no identifier yet. -/
def readKernel (f : List Byte) (ss : List Section) (lmap : DWord) : Except Nat Kernel :=
  let h := sectionOr ss 1
  match readBundles (sectionOr ss 2) with
  | none => .error 3
  | some bs =>
    let plan := readPlan (sectionOr ss 4)
    let marks := bs.any bundleMarked
    match sectionOf ss 7, marks with
    | none, true => .error 2
    | mt, _ =>
      match readBooks (sectionOr ss 6) (fileNat h 0x10 1) 5 0 with
      | none => .error 3
      | some books =>
        if kernelHeadOk h bs.length && planOk (sectionOr ss 4) && ringsOk (sectionOr ss 5) plan (fileNat h 0x11 1) &&
            (books.map (·.bank)).eraseDups.length == books.length && (mt.map fun m => marksOk m bs).getD true &&
            literalsOk (sectionOr ss 3) bs plan then
          .ok { id := 0, bundles := bs, entry := fileNat h 4 4, contexts := fileNat h 8 1, params := fileNat h 9 1,
                bargeMax := fileNat h 0xa 2, scratch := fileNat h 0xc 4, cbmask := fileNat h 0x10 1, ringCount := fileNat h 0x11 1,
                bankMap := lmap, plan := plan, rings := readRings (sectionOr ss 5), books := books, size := f.length }
        else .error 3

/-! ### Stream images -/

/-- Strictly ascending. -/
def ascending : List Nat → Bool
  | a :: b :: rest => a < b && ascending (b :: rest)
  | _ => true

/-- Use list i of a section (R109): none when it breaks a rule. Its ordinals, whose width R109 does not give, are read as 32 bits (DESIGN CHOICE,
log entry 138). -/
def readUse (f : List Byte) (i : Nat) : Option (List Nat) :=
  let off := fileNat f (4 + 4 * i) 4
  let len := fileNat f off 4
  let ords := (List.range len).map fun k => fileNat f (off + 4 + 4 * k) 4
  if off + 4 + 4 * len ≤ f.length && ascending ords then some ords else none

def readUses (f : List Byte) : Option (List (List Nat)) :=
  let n := fileNat f 0 4
  if f.length < 4 + 4 * n then none else readItems (readUse f) n

/-- A tensor descriptor of 32 bytes: none when it breaks a rule of R109. DESIGN CHOICE (log entry 113): a format byte of 16 to 255, which
names no format, is refused as the reserved formats 11 to 15 are. -/
def readDesc (f : List Byte) (o : Nat) : Option Desc :=
  let home := fileNat f (o + 18) 1
  let d (i : Nat) : Nat := fileNat f (o + 4 * i) 4
  if (List.range 4).any (fun i => d i == 0) || 11 ≤ fileNat f (o + 16) 1 || 1 < fileNat f (o + 17) 1 || (8 ≤ home && home != 0xff) ||
      16 ≤ fileNat f (o + 19) 1 || 4 ≤ fileNat f (o + 20) 1 || !fileZero f (o + 21) 3 || !fileZero f (o + 28) 4 then none
  else some { d0 := d 0, d1 := d 1, d2 := d 2, d3 := d 3, fmt := fileNat f (o + 16) 1, linear := fileNat f (o + 17) 1 == 1, home := home,
              attrs := BitVec.ofNat 4 (fileNat f (o + 19) 1), intByte := BitVec.ofNat 2 (fileNat f (o + 20) 1),
              pad := BitVec.ofNat 32 (fileNat f (o + 24) 4) }

def readDescs (f : List Byte) : Option (List Desc) :=
  if f.length % 32 != 0 then none else readItems (fun i => readDesc f (32 * i)) (f.length / 32)

/-- The names of a kernel table (R109): ASCII, zero-padded, with zero identifiers. DESIGN CHOICE (log entry 113): a table that breaks this
form fails the load, since R99 rejects what breaks a rule of R109. -/
def readKernels (f : List Byte) : Option (List (List Byte × Nat)) :=
  let n := fileNat f 0 4
  let name (i : Nat) : List Byte := (f.drop (4 + 32 * i)).take 24
  let text (bs : List Byte) : Bool := bs.all (fun b => b.toNat < 128) && (bs.dropWhile (· != 0)).all (· == 0)
  if f.length != 4 + 32 * n || (List.range n).any (fun i => !text (name i) || !fileZero f (4 + 32 * i + 24) 8) then none
  else some ((List.range n).map fun i => (name i, 0))

/-- A stream word that names a kernel. -/
def isOpr (w : DWord) : Bool := w.toNat / 2 ^ 56 == 0x30

/-- A stream image: a load status, or the image. -/
def readStream (ss : List Section) : Except Nat StreamImage :=
  let h := sectionOr ss 1
  let code := sectionOr ss 2
  let words := (List.range (code.length / 8)).map fun i => BitVec.ofNat 64 (fileNat code (8 * i) 8)
  if words.any isOpr && (sectionOf ss 10).isNone then .error 2
  else
    let headOk := h.length == 16 && code.length % 8 == 0 && fileNat h 0 4 < words.length && fileNat h 4 1 < 8 && fileZero h 5 11
    let uses := match sectionOf ss 8 with
      | some f => (readUses f).map some
      | none => some none
    match headOk, uses, readDescs (sectionOr ss 9), (match sectionOf ss 10 with
      | some f => readKernels f
      | none => some []) with
    | true, some us, some ds, some ks =>
      .ok { words := words, entry := fileNat h 0 4, prio := fileNat h 4 1, uses := us, descs := ds, kernels := ks }
    | _, _, _, _ => .error 3

/-- What a container holds, or its load status (Table 25.3). -/
inductive Loaded where
  | kernel (k : Kernel)
  | stream (x : StreamImage)
  deriving DecidableEq, Repr

def readContainer (f : List Byte) (lmap : DWord) : Except Nat Loaded :=
  if fileNat f 0 4 != 0x3143575a || fileNat f 4 2 != 1 then .error 1
  else
    let kind := fileNat f 6 2
    match readSections f (fileNat f 8 4) with
    | none => .error 2
    | some ss =>
      if (kind != 1 && kind != 2) || !fileZero f 12 4 || fileNat f 16 8 != f.length || !fileZero f 24 40 || !typesOk kind ss then .error 2
      else if kind = 1 then (readKernel f ss lmap).map .kernel
      else (readStream ss).map .stream

/-! ### Loading and releasing (R352) -/

/-- An empty stream slot. -/
def Stream.blank : Stream where
  st := .empty
  pc := 0
  g := Vector.replicate 32 0
  t := Vector.replicate 32 0
  ctrs := Vector.replicate 64 0
  ordinal := 0
  prio := 0
  susp := false
  wait := .none
  raised := []
  failed := none
  bound := none
  undo := []
  bracket := none
  frames := []
  image := { words := [], entry := 0, prio := 0, uses := none, descs := [], kernels := [] }
  haltPc := 0
  fact := 0
  arg0 := 0
  arg1 := 0
  cmdst := 0
  hostG := 0

/-- The control block of a stream slot. -/
def State.slot (s : State) (sid : Nat) : Stream := (s.stream? sid).getD Stream.blank
def State.putSlot (s : State) (sid : Nat) (x : Stream) : State := { s with sq := { s.sq with streams := s.sq.streams.put sid x } }

/-- Whether a kernel image has room in H on every mapped die. -/
def State.imageFits (s : State) (bytes : Nat) : Bool :=
  (List.range 8).all fun v => !s.mapped v || ceilDiv bytes pageBytes ≤ s.availH v

/-- Places a stream image in a slot: IDLE, with the host's registers as they stand (R110, R353). -/
def Stream.loaded (x : Stream) (img : StreamImage) : Stream :=
  { Stream.blank with st := .idle, pc := img.entry, prio := img.prio, image := img, susp := x.susp, fact := x.fact, arg0 := x.arg0,
                      arg1 := x.arg1, cmdst := x.cmdst }

def State.modLoad (s : State) (f : LoadRegs → LoadRegs) : State := { s with hs := { s.hs with load := f s.hs.load } }

/-- The container of LLEN bytes at LSRC, given the bytes of host memory from there on: none when the host cannot supply them all. -/
def LoadRegs.container (l : LoadRegs) : Option (List Byte) :=
  l.file.bind fun f => if l.len.toNat ≤ f.length then some (f.take l.len.toNat) else none

/-- Performs a load: its status, and the state with the image in place. -/
def State.loadNow (s : State) : State × Nat :=
  let l := s.hs.load
  match l.container with
  | none => (s, 6)
  | some f =>
    match readContainer f l.lmap with
    | .error e => (s, e)
    | .ok (.kernel k) =>
      if !s.imageFits k.size then (s, 4)
      else
        let id := s.nextId + 1
        let s1 : State := { s with nextId := s.nextId + 2, sq := { s.sq with kernels := s.sq.kernels ++ [{ k with id := id }] } }
        (s1.modLoad fun q => { q with lid := id }, 0)
    | .ok (.stream x) =>
      if 128 ≤ l.slot || (s.slot l.slot).st != .empty || !s.mapped (l.slot / 16) then (s, 5)
      else
        let s1 := (s.putSlot l.slot ((s.slot l.slot).loaded x)).cleanState l.slot fun _ => true
        ({ s1 with sq := { s1.sq with badWords := s1.sq.badWords.filter fun p => p.1 != l.slot } }, 0)

/-- Whether an image is bound in a loaded stream's kernel table, or has barges that have not retired. -/
def State.imageInUse (s : State) (id : Nat) : Bool :=
  (s.sq.streams.any fun p => p.2.st != .empty && p.2.image.kernels.any fun k => k.2 == id) ||
  s.sq.ops.any fun o => !o.done && (match o.kind with
    | .opr k .. => k == id
    | _ => false)

def State.releaseNow (s : State) : State × Nat :=
  let id := s.hs.load.lrel.toNat
  if id = 0 || (s.kernel? id).isNone then (s, 8)
  else if s.imageInUse id then (s, 7)
  else ({ s with sq := { s.sq with kernels := s.sq.kernels.filter fun k => k.id != id } }, 0)

/-- The effect of the operation under way; loads wait while the device is in P1 (R385). -/
def State.runLoad (s : State) : State :=
  if s.hs.load.busy && s.hs.load.result.isNone && !s.pkg.p1 then
    let r := if s.hs.load.releasing then s.releaseNow else s.loadNow
    r.1.modLoad fun q => { q with result := some r.2, file := none }
  else s

/-- LOAD: LGO := 1 reads LLEN bytes of host memory at LSRC and loads them; file holds what the host has there from LSRC on, none when it
fails the read. Ignored while busy and before READY. -/
def execLoad (file : Option (List (BitVec 8))) (s : State) : Out :=
  if s.hs.load.busy || !s.pkg.ready then .next s
  else .next (s.modLoad fun q => { q with busy := true, releasing := false, file := file, result := none }).runLoad

/-- RELEASE_IMAGE: LGO := 2 releases the kernel image that LREL names. -/
def execReleaseImage (s : State) : Out :=
  if s.hs.load.busy || !s.pkg.ready then .next s
  else .next (s.modLoad fun q => { q with busy := true, releasing := true, file := none, result := none }).runLoad

/-- LOAD_OPERATION_END: the operation ends, and LSTAT receives its status. -/
def execLoadOperationEnd (s : State) : Out :=
  let s1 := s.runLoad
  match s1.hs.load.busy, s1.hs.load.result with
  | true, some n => .next (s1.modLoad fun q => { q with busy := false, status := n, result := none })
  | _, _ => .next s1

end Sys2Proof.Machine
end

