-- ==== Sys2Proof/Machine/HostView.lean ====
section
/-! DEFINITION. What the host reads (R5, R6): the windows of BAR0 (R348, Table 25.1), the capability list (R350, R351) and the mailbox
(R384). A field of 64 bits is read as two words; reserved and write-only fields read zero. -/
namespace Sys2Proof.Machine
open Sys2Proof

/-- The half of a field of 64 bits that lies at an offset. -/
def wordAt (w : DWord) (off : Nat) : Word := if off % 8 < 4 then w.extractLsb' 0 32 else w.extractLsb' 32 32

/-- The word at an offset of a table of bytes, zero past its end. -/
def tableWord (bs : List Byte) (off : Nat) : Word := BitVec.ofNat 32 (fileNat bs off 4)

/-- A field of n bits that the device keeps as a number. -/
def numWord (n v : Nat) : Word := BitVec.ofNat 32 (v % 2 ^ n)

def bitWord (b : Bool) (i : Nat) : Word := if b then 1#32 <<< i else 0

/-! ### The windows -/

/-- DEVSTAT (Table 27.6). -/
def State.devstat (s : State) : Word :=
  bitWord s.pkg.ready 0 ||| bitWord s.pkg.recovery 1 ||| bitWord s.pkg.fatal 2 ||| bitWord (s.pkg.rr.getLsbD 31) 3 ||| bitWord s.pkg.p1 4

def State.globalWord (s : State) (off : Nat) : Word :=
  match off with
  | 0x000 => s.devstat
  | 0x010 => bitWord s.pkg.harvest 0
  | 0x018 => s.pkg.capgen
  | 0x020 => s.pkg.apst
  | _ => 0

/-- The load window (R352). -/
def LoadRegs.word (l : LoadRegs) (off : Nat) : Word :=
  match off with
  | 0x00 | 0x04 => wordAt l.src off
  | 0x08 => l.len
  | 0x0c => numWord 32 l.slot
  | 0x14 => numWord 8 l.status ||| bitWord l.busy 8
  | 0x18 | 0x1c => wordAt (BitVec.ofNat 64 l.lid) off
  | 0x20 | 0x24 => wordAt l.lrel off
  | 0x28 | 0x2c => wordAt l.lmap off
  | _ => 0

/-- STATE of a stream control block (Table 25.4). -/
def StreamState.code : StreamState → Nat
  | .idle => 0
  | .ready => 1
  | .blocked => 2
  | .halted => 3
  | .done => 4
  | .faulted => 5
  | .empty => 6

/-- A stream control block (Table 25.4). -/
def Stream.word (x : Stream) (off : Nat) : Word :=
  if 0x100 ≤ off then wordAt (vget x.g ((off - 0x100) / 8) 0) off
  else match off with
    | 0x004 => numWord 3 x.st.code ||| bitWord x.susp 4
    | 0x008 => numWord 32 x.pc
    | 0x00c => x.fact
    | 0x010 | 0x014 => wordAt x.arg0 off
    | 0x018 | 0x01c => wordAt x.arg1 off
    | 0x020 => numWord 8 x.cmdst
    | _ => 0

/-- The completion window (R355). -/
def HostSide.completionWord (h : HostSide) (off : Nat) : Word :=
  if off < 0x20000 then tableWord (h.cw.get (off / 32) []) (off % 32)
  else match off with
    | 0x20000 => h.cwProd
    | 0x20008 => h.cwCons
    | _ => 0

/-- The cost registers (Table 19.4). -/
def DieRegs.costWord (d : DieRegs) (off : Nat) : Word :=
  match off with
  | 0x00 => d.spill
  | 0x04 => d.comp
  | 0x08 => d.floor
  | 0x0c => d.rcmp
  | 0x10 => numWord 4 d.depth
  | 0x14 => numWord 4 d.nearw
  | 0x18 => d.neard
  | 0x1c => d.fetchd
  | _ => 0

def TraceEntry.bytes (e : TraceEntry) : List Byte := wordBytes e.bno ++ wordBytes e.cyc ++ wordBytes e.y ++ leBytes 4 e.hctx

/-- The debug window (Table 25.9). -/
def DieRegs.debugWord (d : DieRegs) (off : Nat) : Word :=
  if 0x400 ≤ off then (if off < 0x800 then ((Map.find d.dbgTrace ((off - 0x400) / 16)).map fun e => tableWord e.bytes (off % 16)).getD 0 else 0)
  else match off with
    | 0x000 => bitWord d.trcEn 0
    | 0x010 => numWord 32 d.dbgCnt
    | 0x018 => tableWord (d.dbgCall.map (BitVec.ofNat 8)) 0
    | _ => 0

/-- The memory-system registers (Table 23.2); queued is the number of notifications queued at the die. -/
def DieRegs.memoryWord (d : DieRegs) (queued off : Nat) : Word :=
  match off with
  | 0x00 => numWord 16 d.accThresh
  | 0x04 => d.accOvf
  | 0x08 => numWord 7 queued
  | 0x0c => numWord 4 d.cmResv
  | 0x10 => bitWord d.tmig 0
  | 0x18 | 0x1c => wordAt d.heat off
  | _ => 0

/-- Notifications queued at a die (ACC_QLEN). -/
def State.queuedNotes (s : State) (v : Nat) : Nat := (s.ms.notes.filter fun n => n.1 == v).length

/-- The block of a virtual die. -/
def State.dieWord (s : State) (v off : Nat) : Word :=
  let d := s.die v
  if off < 0x1000 then d.costWord off
  else if 0x1040 ≤ off && off < 0x1080 then tableWord d.recLatch (off - 0x1040)
  else if 0x4000 ≤ off && off < 0x5000 then d.debugWord (off - 0x4000)
  else if 0x80000 ≤ off then d.memoryWord (s.queuedNotes v) (off - 0x80000)
  else 0

def TuSlot.bytes (q : TuSlot) : List Byte :=
  leBytes 2 (q.kind % 2 ^ 8) ++ leBytes 2 q.status ++ wordBytes q.handle ++ leBytes 4 q.first ++ leBytes 4 q.count ++ leBytes 4 q.arg

/-- The window of the table-update requests (R357). -/
def HostSide.requestWord (h : HostSide) (off : Nat) : Word :=
  if off < 0x800 then ((Map.find h.tu (off / 32)).map fun q => tableWord q.bytes (off % 32)).getD 0
  else match off with
    | 0x800 => h.tuProd
    | 0x808 => h.tuDone
    | _ => 0

/-- The group table and COLL_TMO (R359, R360). -/
def Seq.groupWord (q : Seq) (off : Nat) : Word :=
  if off < 0x10000 then
    let ranks := q.groups.get (off / 0x400) []
    tableWord (leBytes 4 ranks.length ++ ranks.flatMap fun r => leBytes 2 r.toNat) (off % 0x400)
  else if off = 0x10000 then q.collTmo
  else 0

/-- The guest site registers (Table 25.7). -/
def Guest.word (g : Guest) (off : Nat) : Word :=
  match off with
  | 0x000 => numWord 2 g.st.code ||| numWord 8 g.reason <<< 8
  | 0x004 => g.ctl.setWidth 32
  | 0x008 => g.gseq
  | _ => 0

/-- What a host read of the word at an offset of BAR0 returns, before a read that clears has cleared it (R348): zero before READY (R387)
and at every offset that Table 25.1 does not list. In recovery mode BAR0 does not answer (R382), so there is no such read. -/
def State.barWord (s : State) (off : Nat) : Word :=
  if !s.pkg.ready then 0
  else if off < 0x1000 then s.globalWord off
  else if off < 0x8000 then 0
  else if off < 0x10000 then wordAt (s.hs.slots.get ((off - 0x8000) / 8) 0) off
  else if off < 0x11000 then s.hs.load.word (off - 0x10000)
  else if off < 0x100000 then 0
  else if off < 0x110000 then (s.slot ((off - 0x100000) / 512)).word (off % 512)
  else if off < 0x200000 then 0
  else if off < 0x222000 then s.hs.completionWord (off - 0x200000)
  else if off < 0x1000000 then 0
  else if off < 0x1800000 then s.dieWord ((off - 0x1000000) / 0x100000) (off % 0x100000)
  else if off < 0x2000000 then 0
  else if off < 0x2001000 then s.hs.requestWord (off - 0x2000000)
  else if off < 0x3000000 then 0
  else if off < 0x3011000 then s.sq.groupWord (off - 0x3000000)
  else if off < 0x3800000 then 0
  else if off < 0x3801000 then s.hs.guest.word (off - 0x3800000)
  else 0

/-- The register that a REGISTER_WRITE at an offset of BAR0 names. Offsets whose write is a step of its own (HARVEST, RECIDX, TRC_SEL,
CST_NEARW, CM_RESV, the group table and the site's register 0x004) give none; every other offset ignores its writes, and so does the upper half of a 64-bit register
in a write of 32 bits to it alone (DESIGN CHOICE, log entry 136). -/
def barRegister (off : Nat) : Option HostReg :=
  let sid := (off - 0x100000) / 512
  let v := (off - 0x1000000) / 0x100000
  let tu := off - 0x2000000
  if [0x10, 0x3800004].contains off || (0x3000000 ≤ off && off < 0x3010000) then none
  else if 0x8000 ≤ off && off < 0x10000 then some (if off % 8 = 0 then .aperture ((off - 0x8000) / 8) else .readOnly)
  else if 0x100000 ≤ off && off < 0x110000 then
    some (match off % 512 with
    | 0x000 => .cmd sid
    | 0x00c => .fact sid
    | 0x010 => .arg0 sid
    | 0x018 => .arg1 sid
    | o => if 0x100 ≤ o && o % 8 == 0 then .gk sid ((o - 0x100) / 8) else .readOnly)
  else if 0x1000000 ≤ off && off < 0x1800000 then
    match off % 0x100000 with
    | 0x00 => some (.cstSpill v)
    | 0x04 => some (.cstComp v)
    | 0x08 => some (.cstFloor v)
    | 0x0c => some (.cstRcmp v)
    | 0x10 => some (.cstDepth v)
    | 0x14 | 0x1000 | 0x4008 | 0x8000c => none
    | 0x18 => some (.cstNeard v)
    | 0x1c => some (.cstFetchd v)
    | 0x4000 => some (.trcEn v)
    | 0x80000 => some (.accThresh v)
    | 0x80010 => some (.tmig v)
    | _ => some .readOnly
  else if 0x2000000 ≤ off && tu < 0x800 then some (if tu % 32 < 20 then .tuSlot (tu / 32) (tu % 32 / 4) else .readOnly)
  else some (match off with
    | 0x10000 => .lsrc
    | 0x10008 => .llen
    | 0x1000c => .lslot
    | 0x10010 => .lgo
    | 0x10020 => .lrel
    | 0x10028 => .lmap
    | 0x220008 => .cwCons
    | 0x2000800 => .tuProd
    | 0x3010000 => .collTmo
    | _ => .readOnly)

/-! ### The capability list (R350, R351)

A body shows what the device holds, so a change of the device's resources rewrites it in the step that advances CAPGEN. -/

def dvsecVendor : Nat := 0x1f7a
def dvsecId : Nat := 0x0b51

def maskOf (n : Nat) (p : Nat → Bool) : Nat := sumNats ((List.range n).map fun i => if p i then 2 ^ i else 0)

/-- The bytes of tier L in its range that no fenced expander holds (R343). -/
def State.tierLBytes (s : State) : Nat :=
  pageBytes * (s.tlSize - sumNats (s.pkg.fencedExpanders.map fun e => min (s.tlSize - s.expanderFirst e) (s.expanderPages e)))

/-- The entries, by id, with their bodies (Table 25.2). DEDUCED (log entry 115): all 16 HBM stacks of the package are present, fenced or
not. -/
def State.capabilities (s : State) : List (Nat × List Byte) :=
  [(1, leBytes 4 5000 ++ leBytes 2 Config.siliconRevision.toNat ++ leBytes 2 0 ++ leBytes 4 (maskOf 8 s.mapped) ++
      leBytes 4 (maskOf 30 s.pkg.fencedClusters.contains) ++ leBytes 4 (maskOf 18 fun i => s.pkg.fencedClusters.contains (30 + i))),
   (2, leBytes 4 0xffff ++ leBytes 4 s.pkg.fencedChannels.length ++ leBytes 8 s.tierLBytes),
   (3, [0x10000, 0x100000, 0x200000, 0x3000000].flatMap (leBytes 4)),
   (4, (List.range 8).flatMap fun i => leBytes 1 (vget s.pkg.peers i 0 % 4)),
   (5, leBytes 1 s.hs.guest.st.code ++ leBytes 1 s.hs.guest.reason ++ leBytes 2 s.hs.guest.vendor.toNat ++ leBytes 2 s.hs.guest.firstOp ++
      leBytes 2 s.hs.guest.lastOp ++ leBytes 4 150000),
   (6, wordBytes s.pkg.rr),
   (7, leBytes 4 Config.mailboxOffset.toNat)]

/-- Lays entries out from an offset: id, version 1, next in units of 4 bytes (0 for the last), and the body. -/
def capBytes : Nat → List (Nat × List Byte) → List Byte
  | _, [] => []
  | off, (id, body) :: rest =>
    let next := off + 4 + body.length
    leBytes 2 id ++ leBytes 1 1 ++ leBytes 1 (if rest.isEmpty then 0 else next / 4) ++ body ++ capBytes next rest

/-- The body of the DVSEC with dvsecVendor and dvsecId: the capability list from its start. -/
def State.dvsecBody (s : State) : List Byte := capBytes 0 s.capabilities

/-- A host's walk from an offset of the list: id, version and the body's offset of each entry, for at most as many entries as the fuel. -/
def walkCaps (list : List Byte) : Nat → Nat → List (Nat × Nat × Nat)
  | 0, _ => []
  | fuel + 1, off =>
    let next := fileNat list (off + 3) 1
    (fileNat list off 2, fileNat list (off + 2) 1, off + 4) :: if next = 0 then [] else walkCaps list fuel (4 * next)

/-! ### The mailbox (R384) -/

/-- What a host read of the mailbox returns, at an offset from its start. -/
def Mailbox.word (m : Mailbox) (off : Nat) : Word :=
  match off with
  | 0x04 => numWord 8 (if m.busy then 1 else m.status) ||| bitWord m.busy 8
  | 0x08 => m.arg
  | 0x0c => numWord 9 m.len
  | _ => if 0x10 ≤ off && off < 0x110 then tableWord ((List.range 4).map fun i => m.data.get (off - 0x10 + i) 0) 0 else 0

end Sys2Proof.Machine
end

