-- ==== Sys2Proof/Machine/Host.lean ====
section
/-! DEFINITION. The host port (R5, R347 to R357, R369, R370): registers, stream commands, table-update requests and coherent accesses. -/
namespace Sys2Proof.Machine
open Sys2Proof

/-- What a host read returns. -/
def State.reads (s : State) (bytes : List Byte) : State := { s with hs := { s.hs with hostData := bytes.map some } }

/-! ### Global registers (R348, R349, R341) -/

/-- HARVEST: a host write of 1 starts a harvest (R324). -/
def execHarvest (s : State) : Out :=
  if s.pkg.recovery then .next s else .next { s with pkg := { s.pkg with harvest := true } }

/-- The host reads a register of BAR0 that clears on reads (R6): it receives the register's word, and f clears the field. In recovery mode
BAR0 does not answer (R382). -/
def readClear (off : Nat) (f : State → State) (s : State) : Out :=
  if s.pkg.recovery then .next s else .next (f (s.reads (wordBytes (s.barWord off))))

/-- APST_READ: the read clears APST. -/
def execApstRead (s : State) : Out := readClear 0x20 (fun s => { s with pkg := { s.pkg with apst := 0 } }) s

/-- The offset of the memory registers of a virtual die (Table 25.1). -/
def memoryWindow (v : Nat) : Nat := 0x1080000 + 0x100000 * v

/-- ACC_OVF_READ: the read clears ACC_OVF. -/
def execAccOvfRead (die : Nat) (s : State) : Out :=
  if 8 ≤ die then .next s else readClear (memoryWindow die + 4) (fun s => s.modDie die fun d => { d with accOvf := 0 }) s

/-- The 64 bytes of a tensor record (Table 19.1). -/
def Rec.image (t : Nat) (r : Rec) : List Byte :=
  [r.d0, r.d1, r.d2, r.d3].flatMap (leBytes 4) ++ leBytes 1 r.fmt ++ leBytes 1 (if r.linear then 1 else 0) ++ leBytes 1 r.attrs.toNat ++
  leBytes 1 r.intByte.toNat ++ wordBytes r.pad ++ leBytes 4 r.pages ++ leBytes 1 (t / 2 ^ 20) ++ leBytes 1 r.stateCode ++
  leBytes 1 r.hint ++ leBytes 1 r.comp ++ leBytes 8 (r.nextUse.getD noUse) ++ leBytes 2 ((r.use.map (·.list)).getD 0) ++
  leBytes 2 ((r.use.map (·.pos)).getD 0) ++ leBytes 4 ((r.recipe.map (·.start)).getD 0) ++ leBytes 2 ((r.recipe.map (·.len)).getD 0) ++
  leBytes 2 ((r.recipe.map (·.frame)).getD 0) ++ leBytes 1 ((r.recipe.map (·.sid)).getD 0xff) ++ leBytes 1 ((r.use.map (·.sid)).getD 0xff) ++
  leBytes 2 r.gen ++ leBytes 4 r.est ++ leBytes 2 r.pin ++ leBytes 2 r.busy

/-- RECIDX_WRITE: the whole record is latched in one step; an index never used latches zeros. -/
def execRecidxWrite (die idx : Nat) (s : State) : Out :=
  let t := die * 2 ^ 20 + idx % 2 ^ 20
  if s.pkg.recovery then .next s else .next (s.modDie die fun d => { d with recLatch := ((s.rec? t).map (Rec.image t)).getD (List.replicate 64 0) })

/-- TRC_SEL_WRITE: a core's trace buffer, count and call depths are latched in one step (R370). -/
def execTrcSelWrite (die : Nat) (val : BitVec 32) (s : State) : Out :=
  let cl := field val 0 3
  let c := field val 8 6
  match s.stackOfDie die with
  | none => .next s
  | some p =>
    if s.pkg.recovery ∨ 6 ≤ cl ∨ 48 ≤ c then .next s
    else
      let k := s.core (coreKey p cl c)
      let depth (h : Nat) : Nat := ((s.ctx? (ctxOf (coreKey p cl c) h)).map fun x => x.r.calld.toNat).getD 0
      .next (s.modDie die fun d => { d with dbgTrace := k.trace, dbgCnt := k.traceCnt, dbgCall := (List.range 4).map depth })

/-- GROUP_TABLE_WRITE: ignored while a collective of the group is outstanding (R359). -/
def execGroupTableWrite (group q : Nat) (ranks : List (BitVec 16)) (s : State) : Out :=
  let busy := s.sq.ops.any fun o => !o.done && (match o.kind with
    | .coll _ g _ => g == group
    | .a2av g _ => g == group
    | _ => false)
  if s.pkg.recovery ∨ busy ∨ 64 ≤ group ∨ 256 < q then .next s
  else
    let mask (e : BitVec 16) : BitVec 16 := if e.getLsbD 15 then e &&& 0xf007#16 else e &&& 0x0007#16
    .next { s with sq := { s.sq with groups :=
      if q = 0 then s.sq.groups.erase group else s.sq.groups.put group ((List.range q).map fun i => mask (ranks.getD i 0)) } }

/-! ### Stream commands (R353, R354, R385) -/

def State.setCmdst (s : State) (sid n : Nat) : State := s.putSlot sid { s.slot sid with cmdst := n }

/-- Runs a stream command from the states it is listed for; play tells the commands that P1 turns away. Commands before READY are
ignored. -/
def streamCommand (sid : Nat) (play : Bool) (from_ : Stream → Bool) (f : State → Stream → State) (s : State) : Out :=
  if !s.pkg.ready || 128 ≤ sid then .next s
  else
    let x := s.slot sid
    if (play && s.pkg.p1) || !from_ x then .next (s.setCmdst sid 1) else .next (f s x)

/-- A slot of an unmapped die accepts no load and no resume (R380). -/
def State.slotOpen (s : State) (sid : Nat) : Bool := s.mapped (sid / 16)

/-- The starting state of R110 with the g values that the host has written. -/
def Stream.started (x : Stream) : Stream :=
  { x with st := .ready, pc := x.image.entry, prio := x.image.prio, wait := .none, raised := [], failed := none, undo := [], bracket := none, frames := [],
           g := Vector.ofFn fun i => if x.hostG.getLsbD i.val then vget x.g i.val 0 else 0,
           t := Vector.replicate 32 0, ctrs := Vector.replicate 64 0, ordinal := 0, cmdst := 0, hostG := 0 }

/-- START. Decrements of the tick in which the stream became DONE belong to its earlier run, and come first (R124). -/
def execStart (sid : Nat) (s : State) : Out :=
  streamCommand sid true (fun x => (x.st == .idle || x.st == .done) && s.slotOpen sid) (fun s _ =>
    let t := s.applyDecsOf (· == sid)
    (t.putSlot sid (t.slot sid).started).cleanState sid fun _ => true) s

/-- A faulted stream goes on at a word. SKIP at the word after the last one stays there, and faults again (R116). -/
def Stream.resumed (x : Stream) (pc : Nat) : Stream :=
  { x with st := .ready, pc := pc, wait := .none, failed := none, cmdst := 0, hostG := 0 }

def execResume (sid : Nat) (s : State) : Out :=
  streamCommand sid true (fun x => x.st == .faulted && s.slotOpen sid) (fun s x => s.putSlot sid (x.resumed x.pc)) s

def execSkip (sid : Nat) (s : State) : Out :=
  streamCommand sid true (fun x => x.st == .faulted && s.slotOpen sid) (fun s x => s.putSlot sid (x.resumed (min (x.pc + 1) x.image.words.length))) s

/-- SUSPEND: the sequencer executes none of the stream's instructions, and every barge of its operations is pre-empted (R312). -/
def execSuspend (sid : Nat) (s : State) : Out :=
  streamCommand sid false (fun x => x.st != .empty)
    (fun s x => (s.putSlot sid { x with susp := true, cmdst := 3 }).settleSuspend sid) s

/-- CONTINUE: suspended barges enter the resume lists; a barge that still waits for its save area runs on. -/
def execContinue (sid : Nat) (s : State) : Out :=
  streamCommand sid true (fun x => x.susp)
    (fun s x =>
      let s1 := s.putSlot sid { x with susp := false, cmdst := 0 }
      { s1 with sq := { s1.sq with retryList := s1.sq.retryList.filter fun e =>
          !((s1.barge? e.1).map fun g => s1.bargeSid g == sid).getD false } }) s

def execBind (sid : Nat) (s : State) : Out :=
  streamCommand sid false (fun x => x.st == .idle || x.st == .faulted || x.st == .halted || x.st == .done)
    (fun s x =>
      let i := x.arg0.toNat % 2 ^ 16
      match x.image.kernels[i]?, s.kernel? x.arg1.toNat with
      | some k, some _ =>
        s.putSlot sid { x with cmdst := 0, image := { x.image with kernels := x.image.kernels.set i (k.1, x.arg1.toNat) } }
      | _, _ => s.setCmdst sid 2) s

/-- Whether work that the stream dispatched is outstanding. -/
def State.outstandingWork (s : State) (sid : Nat) : Bool := s.sq.ops.any fun o => o.sid == sid && !o.done && o.replay.isNone

/-- UNLOAD: the slot is empty; its frames are released, so every recipe naming the stream is invalid (R137). -/
def execUnload (sid : Nat) (s : State) : Out :=
  streamCommand sid false
    (fun x => x.st == .idle || x.st == .done || (x.st == .faulted && !s.outstandingWork sid))
    (fun s0 x =>
      let s := s0.applyDecsOf (· == sid)
      s.putSlot sid { Stream.blank with susp := x.susp, fact := x.fact, arg0 := x.arg0, arg1 := x.arg1 }) s

/-! ### Context commands (R354) -/

/-- The context that ARG0 names: die, cluster, core and hardware context; none when another bit is set or there is no such context. -/
def argContext (a : DWord) : Option (Nat × Nat) :=
  let n := a.toNat
  let v := n % 8
  let cl := n / 2 ^ 8 % 8
  let c := n / 2 ^ 16 % 64
  let h := n / 2 ^ 24 % 4
  if n = v + cl * 2 ^ 8 + c * 2 ^ 16 + h * 2 ^ 24 ∧ cl < 6 ∧ c < 48 then some (v, (cl * 48 + c) * 4 + h) else none

/-- The participant of a stream with a suspended fault on a context: of a placed barge, else of a suspended one. -/
def State.stoppedOn (s : State) (sid v c : Nat) : Option Nat :=
  let bs := s.sq.barges.filter fun b => b.die == v && s.bargeSid b == sid && b.st != .retired
  let pids := (bs.filter (·.save.isNone) ++ bs.filter (·.save.isSome)).flatMap fun b =>
    ((List.range b.ctxs.length).filter fun i => b.ctxs.getD i 0 % 1152 == c).map fun i => b.id * 2 ^ 10 + i
  pids.find? fun pid => ((s.member? pid).map fun x => (x.stop.any fun y => y.posted) && x.resolving.isNone).getD false

def contextCommand (sid : Nat) (play : Bool) (f : State → Nat → Ctx → Stop → State) (s : State) : Out :=
  streamCommand sid play (fun _ => true) (fun s x =>
    match (argContext x.arg0).bind fun a => s.stoppedOn sid a.1 a.2 with
    | none => s.setCmdst sid 2
    | some pid =>
      match s.member? pid with
      | some y =>
        match y.stop with
        | some st => f (s.setCmdst sid 0) pid y st
        | none => s.setCmdst sid 2
      | none => s.setCmdst sid 2) s

/-- A stopped participant goes on as f leaves it; one that runs on a core takes there a fault that waits for it. -/
def State.release (s : State) (pid : Nat) (f : Ctx → Ctx) : State :=
  let s1 := s.modMember pid fun x => { f x with stop := none, resolving := none }
  match s1.barge? (pid / 2 ^ 10) with
  | some b => if b.save.isSome then s1 else s1.lateFaults (b.ctxs.getD (pid % 2 ^ 10) 0)
  | none => s1

/-- CRESUME: the context goes on at its resume point. -/
def execCresume (sid : Nat) (s : State) : Out :=
  contextCommand sid true (fun s pid _ st => s.release pid fun y => { y with r := { y.r with pc := y.resumePc st } }) s

/-- The header word of a bundle of the kernel that a participant runs. -/
def State.headerOf (s : State) (pid bno : Nat) : Word :=
  match (((s.barge? (pid / 2 ^ 10)).bind fun b => s.op? b.op).map fun o => o.kind : Option OpKind) with
  | some (.opr k ..) => ((s.kernel? k).bind fun i => (i.bundles[bno]?).bind List.head?).getD 0
  | _ => 0

/-- The issue of a bundle, once, with every slot empty: CLRF clears the flags of WAITF on a first issue (R80), it counts in the region
(R316), and the mark that stood before it no longer does. -/
def Ctx.skipped (x : Ctx) (bno : Nat) (h : Word) : Ctx :=
  let r := if x.r.rep.isNone && h.getLsbD 19 then x.r.clearFlags (h.extractLsb' 24 8) else x.r
  { x with r := ({ r with rep := none } : Regs).advance bno true, issued := x.issued + 1, marked := false,
           needMark := x.needMark || 1024 ≤ x.issued + 1 }

/-- The restart mark that stands before a bundle with MARK = 1 (R82, R314), for a participant that is stopped there. While a translation of
its region is still open, the mark follows the bundle. -/
def State.markMember (s : State) (pid : Nat) : State :=
  let later (s : State) : State := s.modMember pid fun y => { y with needMark := true }
  match s.barge? (pid / 2 ^ 10) with
  | some b =>
    let c := b.ctxs.getD (pid % 2 ^ 10) 0
    if b.save.isNone && !s.untranslated c then s.takeMark c else later s
  | none => s

/-- CSKIP: the context goes on after the resume-point bundle, as though that had issued once with every slot empty. One that a kept fault
has rolled back stands at its mark, and takes that fault there (DESIGN CHOICE, log entry 134). -/
def execCskip (sid : Nat) (s : State) : Out :=
  contextCommand sid true (fun s pid y st =>
    if y.later.any fun f => f.resume.isSome then s.release pid id
    else
      let h := s.headerOf pid st.resume
      let s1 := if h.getLsbD 20 && y.r.rep.isNone && !y.marked then s.markMember pid else s
      s1.release pid fun y => y.skipped st.resume h) s

/-- CEND: the task ends, with its store gate discarded. -/
def execCend (sid : Nat) (s : State) : Out :=
  contextCommand sid false (fun s pid _ _ => s.endMember pid) s

/-- A write to CMD (Table 25.5). -/
def State.command (s : State) (sid n : Nat) : Out :=
  match n with
  | 1 => execStart sid s
  | 2 => execResume sid s
  | 3 => execSkip sid s
  | 4 => execSuspend sid s
  | 5 => execContinue sid s
  | 6 => execBind sid s
  | 7 => execUnload sid s
  | 9 => execCresume sid s
  | 10 => execCskip sid s
  | 11 => execCend sid s
  | _ => if s.pkg.ready then .next (s.setCmdst sid 2) else .next s

/-! ### REGISTER_WRITE (R5) -/

def State.modSlot (s : State) (sid : Nat) (f : Stream → Stream) : State := if sid < 128 then s.putSlot sid (f (s.slot sid)) else s

def State.modDieIf (s : State) (v : Nat) (f : DieRegs → DieRegs) : State := if v < 8 then s.modDie v f else s

/-- A word of a table-update request slot. -/
def TuSlot.setWord (q : TuSlot) (word : Nat) (w : Word) : TuSlot :=
  match word with
  | 0 => { q with kind := field w 0 8, status := field w 16 16 }
  | 1 => { q with handle := w }
  | 2 => { q with first := w.toNat }
  | 3 => { q with count := w.toNat }
  | 4 => { q with arg := w.toNat }
  | _ => q

def TuSlot.zero : TuSlot := { kind := 0, status := 0, handle := 0, first := 0, count := 0, arg := 0 }

/-- The effect of a host write to a register without a row of its own. Bits [31:7] of LSLOT, which R352 says are zero, keep and read back
what was written, so that a number that is no stream id is turned away with status 5 (DESIGN CHOICE, log entry 131). -/
def State.writeRegister (s : State) (reg : HostReg) (val : BitVec 64) : State :=
  let w := val.setWidth 32
  match reg with
  | .aperture k => if k < 4096 then { s with hs := { s.hs with slots := s.hs.slots.set k (val &&& 0x0007_ff03_ffff_ffff#64) 0 } } else s
  | .lsrc => s.modLoad fun l => { l with src := val }
  | .llen => s.modLoad fun l => { l with len := w }
  | .lslot => s.modLoad fun l => { l with slot := w.toNat }
  | .lgo => s
  | .lrel => s.modLoad fun l => { l with lrel := val }
  | .lmap => s.modLoad fun l => { l with lmap := val }
  | .fact sid => s.modSlot sid fun x => { x with fact := w &&& 0x03ff_fffc#32 }
  | .arg0 sid => s.modSlot sid fun x => { x with arg0 := val }
  | .arg1 sid => s.modSlot sid fun x => { x with arg1 := val }
  | .gk sid k =>
    let x := s.slot sid
    if sid < 128 && (x.st == .idle || x.st == .faulted || x.st == .done) && 0 < k && k < 32 then
      (s.putSlot sid { x with g := vset x.g k val, hostG := x.hostG ||| (1#32 <<< k) }).cleanState sid (· == k)
    else s
  | .cmd _ => s
  | .cwCons => { s with hs := { s.hs with cwCons := w } }
  | .tuSlot k word => if k < 64 then { s with hs := { s.hs with tu := s.hs.tu.put k ((s.hs.tu.get k TuSlot.zero).setWord word w) } } else s
  | .tuProd => if s.pkg.ready then { s with hs := { s.hs with tuProd := w } } else s
  | .cstSpill v => s.modDieIf v fun d => { d with spill := w }
  | .cstComp v => s.modDieIf v fun d => { d with comp := w }
  | .cstFloor v => s.modDieIf v fun d => { d with floor := w }
  | .cstRcmp v => s.modDieIf v fun d => { d with rcmp := w }
  | .cstDepth v => s.modDieIf v fun d => if field w 0 4 ≤ 8 then { d with depth := field w 0 4 } else d
  | .cstNeard v => s.modDieIf v fun d => { d with neard := w }
  | .cstFetchd v => s.modDieIf v fun d => { d with fetchd := w }
  | .accThresh v => s.modDieIf v fun d => if field w 0 16 = 0 then d else { d with accThresh := field w 0 16 }
  | .tmig v => s.modDieIf v fun d => { d with tmig := w.getLsbD 0 }
  | .trcEn v => s.modDieIf v fun d => { d with trcEn := w.getLsbD 0 }
  | .collTmo => { s with sq := { s.sq with collTmo := w } }
  | .mbArg => { s with hs := { s.hs with mailbox := { s.hs.mailbox with arg := w } } }
  | .mbLen => { s with hs := { s.hs with mailbox := { s.hs.mailbox with len := field w 0 9 } } }
  | .mbData i =>
    if i < 256 then { s with hs := { s.hs with mailbox := { s.hs.mailbox with data := s.hs.mailbox.data.set i (val.setWidth 8) 0 } } } else s
  | .readOnly => s

/-- Whether a register lies in configuration space and not in BAR0. -/
def HostReg.config : HostReg → Bool
  | .mbArg | .mbLen | .mbData _ => true
  | _ => false

/-- REGISTER_WRITE: in recovery mode only configuration space and the mailbox answer (R382). -/
def execRegisterWrite (reg : HostReg) (val : BitVec 64) (s : State) : Out :=
  if s.pkg.recovery && !HostReg.config reg then .next s
  else match reg with
    | .cmd sid => if sid < 128 then s.command sid (val.toNat % 256) else .next s
    | .lgo => if val.toNat % 4 = 2 then execReleaseImage s else .next s
    | r => .next (s.writeRegister r val)

/-! ### Table-update requests (R357) -/

/-- Takes the next request when it has this kind: fails it with a status, or starts it. A request of no kind is a bad one. Requests
wait in P1 (R385). -/
def tuRequest (kind : Nat) (f : State → TuSlot → Except Nat State) (s : State) : Out :=
  if !s.pkg.ready || s.pkg.p1 || s.hs.tuDone == s.hs.tuProd || s.hs.tuBusy then .next s
  else
    let q := s.tuSlot
    if q.kind = 0 ∨ 6 ≤ q.kind then .next (s.tuReport 3)
    else if q.kind ≠ kind then .next s
    else match f s q with
      | .error e => .next (s.tuReport e)
      | .ok t => .next { t with hs := { t.hs with tuBusy := true } }

/-- The record and pages of a request: 1 for a stale handle, 3 for pages outside the tensor or storage it has not. -/
def State.tuTensor (s : State) (q : TuSlot) : Except Nat (Nat × Rec × List Nat) :=
  match s.live? q.handle with
  | none => .error 1
  | some r =>
    if r.pages < q.first + q.count || !r.stored then .error 3
    else .ok (handleKey q.handle, r, (List.range q.count).map (q.first + ·))

def Rec.locked (r : Rec) : Bool := r.pin != 0 || r.busy != 0 || r.st == .moving || r.st == .rebuild

/-- Hands new entries to the table-update engine as the last update of the request. -/
def State.tuEnqueue (s : State) (t : Nat) (ps : List (Nat × DWord)) : State :=
  { s with hs := { s.hs with tuQueue := s.hs.tuQueue ++ [{ tensor := t, pages := ps, last := true, stack := 0 }] } }

/-- The level-3 entry of a page as it stands, present or not. -/
def State.rawEntry (s : State) (t k : Nat) : DWord := (s.table 0).get (pteKey t 3 (k * pageBytes)) 0

/-- Frames for pages that are not present, with W as the entry last had it. -/
def State.mapPages (s : State) (t : Nat) (r : Rec) : List Nat → Option (State × List (Nat × DWord))
  | [] => some (s, [])
  | k :: ks =>
    match s.takeFrame (t / 2 ^ 20) 3 with
    | none => none
    | some (f, s1) =>
      let old := s.rawEntry t k
      let e := leafOf (f / 2 ^ 20) (f % 2 ^ 20 * pageBytes) r (old == 0 || pteW old) false
      (s1.mapPages t r ks).map fun p => (p.1, (k, e) :: p.2)

/-- MAP: frames for each page that is not present. -/
def execMap (s : State) : Out :=
  tuRequest 1 (fun s q => do
    let (t, r, ks) ← s.tuTensor q
    let need := ks.filter fun k => (s.pageLeaf? t k).isNone
    if s.availH (t / 2 ^ 20) < need.length then .error 2
    else match s.mapPages t r need with
      | some (s1, ps) => .ok (s1.tuEnqueue t ps)
      | none => .error 2) s

/-- UNMAP: clears V and releases the frames. -/
def execUnmap (s : State) : Out :=
  tuRequest 2 (fun s q => do
    let (t, r, ks) ← s.tuTensor q
    if Rec.locked r then .error 4
    else .ok (s.tuEnqueue t (ks.filterMap fun k => (s.pageLeaf? t k).map fun e => (k, e &&& ~~~1#64)))) s

/-- PROTECT: W := argument bit 0 for each page. -/
def execProtect (s : State) : Out :=
  tuRequest 3 (fun s q => do
    let (t, _, ks) ← s.tuTensor q
    let set (e : DWord) : DWord := if q.arg % 2 = 1 then e ||| 4#64 else e &&& ~~~4#64
    .ok (s.tuEnqueue t (ks.map fun k => (k, set ((s.pageLeaf? t k).getD (s.rawEntry t k)))))) s

/-- MIGRATE: the segments of the pages are held, and SEGMENT_MIGRATION moves them (R322). Compressed pages are expanded as they go to
tier L, which must take their expanded size (R369). -/
def execMigrate (s : State) : Out :=
  tuRequest 4 (fun s q => do
    let (t, r, ks) ← s.tuTensor q
    let toL := q.arg == 1
    let v := t / 2 ^ 20
    let leaf (k : Nat) : DWord := (s.pageLeaf? t k).getD 0
    let move := ks.filter fun k => pteV (leaf k) && (if toL then pteTgt (leaf k) < 16 else pteTgt (leaf k) == 16)
    if 2 ≤ q.arg || (toL && (r.ver || r.msa)) then .error 3
    else if Rec.locked r then .error 4
    else if (if toL then s.availL else s.availH v) < move.length then .error 2
    else .ok (if move.isEmpty then s.tuEnqueue t [] else s.holdSegs t (move.map (· / 32)))) s

/-- RELEASE: the tensor is released as by tfree (R119). -/
def execRelease (s : State) : Out :=
  tuRequest 5 (fun s q =>
    match s.live? q.handle with
    | none => .error 1
    | some r => if Rec.locked r then .error 4 else .ok ((s.freeTensor (handleKey q.handle)).tuEnqueue (handleKey q.handle) [])) s

/-! ### Coherent accesses through the aperture (R349, R369) -/

/-- Why a host access through a slot fails: 2 STALE, 3 RANGE, 1 COMPRESSED, 4 PAGE, 5 WRITE. -/
def State.slotFault (s : State) (e : DWord) (off len : Nat) (write : Bool) : Option Nat :=
  (s.extFault (e.setWidth 32) off len (e.getLsbD 33) write).orElse fun _ => if write && !e.getLsbD 32 then some 5 else none

/-- The tensor offset of a byte of a slot's range. -/
def slotOffset (e : DWord) (off : Nat) : Nat := (e.extractLsb' 40 11).toNat * 2 ^ 34 + off % 2 ^ 34

def State.setApst (s : State) (slot why : Nat) : State := { s with pkg := { s.pkg with apst := BitVec.ofNat 32 (slot * 2 ^ 16 + why) } }

/-- The host caches the lines that it has read coherently, but for those of MSA pages, which nothing caches (R282, R336). -/
def State.hostCaches (s : State) (t off len : Nat) : State :=
  if s.isMsa (storeAddr t off) then s
  else
    let ls := ((storeRange t off len).map lineOf).eraseDups
    { s with hs := { s.hs with hostLines := s.hs.hostLines ++ ls.filter fun l => !s.hs.hostLines.contains l } }

/-- HOST_COHERENT_READ: the bytes, expanded; poisoned data when a check fails. -/
def execHostCoherentRead (slot off len : Nat) (s : State) : Out :=
  if !s.pkg.ready || 4096 ≤ slot then .next s
  else
    let e := s.hs.slots.get slot 0
    let o := slotOffset e off
    match s.slotFault e o len false with
    | some why => .next { s.setApst slot why with hs := { s.hs with hostData := List.replicate len none } }
    | none =>
      if s.extHeld (e.setWidth 32) o len false then .next s
      else
        let t := handleKey (e.setWidth 32)
        let raw := e.getLsbD 33
        let r := if raw then s.rawRead t o len else s.extRead t o len
        let s1 := if raw then r.2 else r.2.hostCaches t o len
        .next { s1 with hs := { s1.hs with hostData := r.1 } }

/-- HOST_COHERENT_WRITE: performed at the home, or discarded when a check fails; raw slots discard every write. -/
def execHostCoherentWrite (slot off : Nat) (bytes : List (BitVec 8 × Bool)) (s : State) : Out :=
  if !s.pkg.ready || 4096 ≤ slot then .next s
  else
    let e := s.hs.slots.get slot 0
    let o := slotOffset e off
    match s.slotFault e o bytes.length true with
    | some why => .next (s.setApst slot why)
    | none =>
      if e.getLsbD 33 || s.extHeld (e.setWidth 32) o bytes.length true then .next s
      else .next (s.extWrite (handleKey (e.setWidth 32)) o bytes)

end Sys2Proof.Machine
end

