-- ==== Sys2Proof/Machine/Peers.lean ====
section
/-! DEFINITION. Collectives across peer ports (R358 to R360). -/
namespace Sys2Proof.Machine
open Sys2Proof

/-- PEER_COLLECTIVE_MESSAGE: the message of a peer rank reaches a local rank's operation id. It is fit when its Q and its sender's rank are
those of this device's group (R359). -/
def execPeerCollectiveMessage (id rank q senderRank : Nat) (agrees : Bool) (counts : List (Int × Bool))
    (data : List (BitVec 8 × Bool)) (s : State) : Out :=
  match s.op? id with
  | none => .next s
  | some o =>
    match o.collective with
    | none => .next s
    | some (g, _) =>
      let up := vget s.pkg.peers (rankPort ((s.group g).getD rank 0)) 0 == 2
      if o.done || !(s.peerRanks g).contains rank || !up || o.msgs.any (fun m => m.rank == rank) then .next s
      else
        let m : PeerMsg :=
          { rank := rank, ok := agrees && q == (s.group g).length && senderRank == rank, counts := counts, data := data }
        .next (s.modOp id fun p => { p with msgs := p.msgs ++ [m] })

/-- The elements that a collective gives its destination on rank i whatever the missing peers would have sent: the rows that an
all-gather has from local ranks and from messages, and those of an a2av from the ranks before the first that is missing. -/
def State.arrivedElems (s : State) (g : Nat) (ps : List Part) (i : Nat) (o : Op) (src dst : Rec) : List TElem :=
  let q := (s.group g).length
  let known (k : Nat) : Bool := ps.any (fun p => p.rank == k) || o.msgs.any fun m => m.rank == k
  match o.collKind with
  | 3 => layRows dst 0 (s.a2avRows ((List.range q).takeWhile known).length ps (s.countTable q ps o) i o dst)
  | 1 => s.collElems 1 q ps i o src dst
  | _ => []

/-- A destination element after a collective that timed out: old, or new. A new value that depends on what has not arrived is free (log
entry 60). -/
def staleOrNew (n : Nat) (r : Rec) (new : List TElem) (e : TElem) : TElem :=
  if Config.freeBit n then e
  else match new.find? fun x => x.row == e.row && x.col == e.col with
    | some x => x
    | none => { e with bits := (Config.freeWord n).toNat % 2 ^ r.width, scale := (Config.freeWord (n + 1)).toNat % 256 }

/-- The operation of a local rank ends by the limit: an error record, each destination element old or new, as the sources of u stood, its
counter decremented. -/
def State.timeOutColl (s u : State) (g : Nat) (ps : List Part) (i : Nat) (o : Op) : State :=
  let s1 := s.streamNote o.sid o.pc 8 0x80 g
  let s2 : State := match s1.rec? o.srcKey, s1.rec? o.dstKey with
    | some src, some r =>
      let es := r.places.map fun (p : Nat × Nat) => s1.homeElem o.dstKey r p.1 p.2
      let new := u.arrivedElems g ps i o src r
      { s1 with freeNo := s1.freeNo + 2 * es.length + 2 }.putElems o.id o.dstKey r
        ((List.range es.length).zipWith (fun n e => staleOrNew (s1.freeNo + 2 * n) r new e) es)
    | _, _ => s1
  s2.completeOp o.id

/-- COLL_TIMEOUT: a collective that has waited longer than COLL_TMO for a peer's message ends, on every local rank (R360). -/
def execCollTimeout (id : Nat) (s : State) : Out :=
  match s.op? id with
  | none => .next s
  | some o =>
    match o.collective with
    | none => .next s
    | some (g, n) =>
      let missing := (s.peerRanks g).any fun i => !o.msgs.any fun m => m.rank == i
      if o.done || !o.started || o.out.isSome || !missing || s.pkg.ioTick ≤ o.since + s.sq.collTmo.toNat * 100000 then .next s
      else
        let ps : List Part := (s.localRanks g).filterMap fun r => (s.partner g n r.2).bind fun p =>
          if p.started then some { rank := r.1, op := some p } else none
        .next (ps.foldl (fun u p => (p.op.map (u.timeOutColl s g ps p.rank)).getD u) s)

end Sys2Proof.Machine
end

