-- ==== Sys2Proof/Machine/Mailbox.lean ====
section
/-! DEFINITION. The mailbox and its commands (R382 to R385). -/
namespace Sys2Proof.Machine
open Sys2Proof

def State.modMailbox (s : State) (f : Mailbox → Mailbox) : State := { s with hs := { s.hs with mailbox := f s.hs.mailbox } }

/-- Runs a mailbox command: ignored while one is under way; f gives the new state and the status it will report. -/
def mailboxCommand (f : State → Mailbox → State × Nat) (s : State) : Out :=
  if s.hs.mailbox.busy then .next s
  else
    let r := f s s.hs.mailbox
    .next (r.1.modMailbox fun m => { m with busy := true, result := r.2 })

/-- Puts bytes into MB_DATA and their number into MB_LEN. -/
def State.giveData (s : State) (bs : List Byte) : State :=
  s.modMailbox fun m => { m with data := (listFrom 0 bs).foldl (fun d c => d.set c.1 c.2 0) m.data, len := bs.length }

/-- The first n bytes of MB_DATA. -/
def Mailbox.bytes (m : Mailbox) (n : Nat) : List Byte := (List.range n).map fun i => m.data.get i 0

/-- MAILBOX_COMMAND_COMPLETE: MB_STAT receives the status, busy clears, and vector 2 is raised; PSTATE 0 leaves P1 with it. -/
def execMailboxCommandComplete (s : State) : Out :=
  if s.hs.mailbox.busy then
    let s1 : State := if s.hs.mailbox.powerDue.isSome then { s with pkg := { s.pkg with p1 := false } } else s
    .next ((s1.modMailbox fun m => { m with busy := false, status := m.result, powerDue := none }).msix 2)
  else .next s

/-- ELOG: the oldest record; with the log empty the summary counters, once; then status 2. -/
def execElog (s : State) : Out :=
  mailboxCommand (fun s m =>
    match s.pkg.log with
    | r :: rest => (({ s with pkg := { s.pkg with log := rest } }.giveData r).modMailbox fun q => { q with drained := false }, 0)
    | [] =>
      if m.drained || s.pkg.summary.isEmpty then (s, 2)
      else ((s.giveData ((List.range 16).flatMap fun i => leBytes 4 (s.pkg.summary.get i 0))).modMailbox fun q => { q with drained := true }, 0)) s

/-- CERT: the identity certificate is prepared as output. -/
def execCert (s : State) : Out := mailboxCommand (fun s _ => (s.modMailbox fun m => { m with output := Config.certificate }, 0)) s

/-- The virtual dies that are mapped, a bit each. -/
def State.mappedMask (s : State) : Nat := sumNats ((List.range 8).map fun v => if s.mapped v then 2 ^ v else 0)

/-- The body of an attestation report (R383). -/
def State.reportBody (s : State) (nonce : List Byte) : List Byte :=
  nonce ++ (List.range 64).map (Config.digestByte s.hs.mailbox.flash) ++ wordBytes (Config.securityVersion s.hs.mailbox.flash) ++
  wordBytes s.pkg.capgen ++ wordBytes s.pkg.rr ++ leBytes 4 s.mappedMask

/-- ATTEST: the nonce in MB_DATA gives a signed report of 624 bytes. -/
def execAttest (s : State) : Out :=
  mailboxCommand (fun s m =>
    if m.len ≠ 32 then (s, 3)
    else
      let sig := (List.range 512).map fun i => Config.signatureByte (s.freeNo * 512 + i)
      ({ s with freeNo := s.freeNo + 1 }.modMailbox fun q => { q with output := s.reportBody (m.bytes 32) ++ sig }, 0)) s

/-- RDOUT: a chunk of the prepared output. -/
def execRdout (s : State) : Out :=
  mailboxCommand (fun s m =>
    let chunk := (m.output.drop (256 * m.arg.toNat)).take 256
    if m.output.isEmpty then (s, 2) else if chunk.isEmpty then (s, 3) else (s.giveData chunk, 0)) s

/-- FWLOAD: stages firmware bytes, in recovery mode only. DEDUCED (log entry 116): an MB_LEN above 256 is a bad argument. -/
def execFwload (s : State) : Out :=
  mailboxCommand (fun s m =>
    if !s.pkg.recovery then (s, 4)
    else if 256 < m.len then (s, 3)
    else (s.modMailbox fun q =>
      { q with staged := (listFrom m.arg.toNat (m.bytes m.len)).foldl (fun d c => d.put c.1 c.2) q.staged }, 0)) s

/-- FWCOMMIT: a staged image that passes is written to flash and started by a reset (R382), which finds a guest or none (FREE, log entry 41). -/
def execFwcommit (s : State) : Out :=
  mailboxCommand (fun s m =>
    if !s.pkg.recovery then (s, 4)
    else if Config.verifies m.staged then
      match execReset s.freeBit.1 (s.freeBit.2.modMailbox fun q => { q with flash := m.staged }) with
      | .next t => (t, 0)
      | _ => (s, 0)
    else (s, 5)) s

/-- Whether a barge, a tensor or a loaded stream is on a virtual die. -/
def State.dieUsed (s : State) (v : Nat) : Bool :=
  (s.sq.barges.any fun b => b.die == v && b.st != .retired) || ((s.recsOn v).any fun p => p.2.live || p.2.stored) ||
  s.sq.streams.any fun p => p.1 / 16 == v && p.2.st != .empty

/-- SETMAP: maps a virtual die to a stack, or unmaps it. -/
def execSetmap (s : State) : Out :=
  mailboxCommand (fun s m =>
    let v := field m.arg 0 3
    let p := field m.arg 4 3
    let off := m.arg.getLsbD 8
    let other := if off then none else s.dieOfStack p
    if s.dieUsed v || (other.map s.dieUsed).getD false || s.moving v then (s, 4)
    else if (other.map fun w => w != v).getD false || (!off && s.pkg.fencedStacks.contains p) then (s, 3)
    else
      let new := if off then none else some p
      let s1 : State := { s with pkg := { s.pkg with vmap := vset s.pkg.vmap v new, capgen := s.pkg.capgen + 1 } }
      (if off then s1 else s1.modDie v fun d => { d with heat := Config.heatClasses p }, 0)) s

/-- FENCE: a unit by kind and index, reason 4. -/
def execMailboxFence (s : State) : Out :=
  mailboxCommand (fun s m =>
    let i := field m.arg 16 16
    match field m.arg 0 4 with
    | 1 => if i < 2304 then (s.fenceCore i 4, 0) else (s, 3)
    | 2 => if i < 48 then (s.fenceCluster i 4, 0) else (s, 3)
    | 3 => if i < 1024 then (s.fenceChannel i 4, 0) else (s, 3)
    | 4 => if i < 8 then (s.fenceStack i 4, 0) else (s, 3)
    | 5 => if i = 0 then (s.fenceGuest 6 4, 0) else (s, 3)
    | 6 => if i < 4 then (s.fenceExpander i 4, 0) else (s, 3)
    | 7 => if i < 8 then (s.fencePeer i 4, 0) else (s, 3)
    | _ => (s, 3)) s

/-- PCAP: the power cap in watts. -/
def execPcap (s : State) : Out :=
  mailboxCommand (fun s m =>
    if 2500 ≤ m.arg.toNat ∧ m.arg.toNat ≤ 5000 then ({ s with pkg := { s.pkg with pcap := m.arg.toNat } }, 0) else (s, 3)) s

/-- Whether P1 may be entered (R385): every stream suspended with its barges saved, the guest pre-empted, cross-die requests drained. -/
def State.mayPark (s : State) : Bool :=
  (s.sq.streams.all fun p => p.2.st == .empty || (p.2.susp && !s.bargesRun p.1)) &&
  s.hs.guest.st != .present &&
  !(s.wk.gv.any fun o => o.sent.isSome) && !(s.wk.tiles.any fun k => k.sent.isSome) && !(s.ms.held.any fun h => h.sent.isSome) &&
  !s.gates.any fun g => g.sent.isSome

/-- PSTATE: 1 enters P1, 0 leaves it within 1 ms of the I/O die's timer. Before the transition the site asks a present guest to pre-empt
(R367): the command then returns status 4, as it does while anything else is outstanding (DEDUCED, log entry 135). -/
def execPstate (s : State) : Out :=
  mailboxCommand (fun s m =>
    match m.arg.toNat with
    | 0 => (if s.pkg.p1 then s.modMailbox fun q => { q with powerDue := some (s.pkg.ioTick + 100000) } else s, 0)
    | 1 => if s.pkg.p1 then (s, 0) else if s.mayPark then ({ s with pkg := { s.pkg with p1 := true } }, 0) else (s.askGuestPreempt, 4)
    | _ => (s, 3)) s

end Sys2Proof.Machine
end

