-- ==== Sys2Proof/Machine/Dispatch.lean ====
section
/-! DEFINITION. One arm for each constructor of Instr: a direct call of its meaning. -/
namespace Sys2Proof.Machine
open Sys2Proof

def exec (i : Instr) (s : State) : Host.Outcome State Fault Refusal :=
  match i with
  | .bundleIssue core => Sys2Proof.Machine.execBundleIssue core s
  | .rotationCountExpiry core => Sys2Proof.Machine.execRotationCountExpiry core s
  | .contextAged core => Sys2Proof.Machine.execContextAged core s
  | .exposedResultLand core => Sys2Proof.Machine.execExposedResultLand core s
  | .fmtWriteEffect core => Sys2Proof.Machine.execFmtWriteEffect core s
  | .cbwrVisible core => Sys2Proof.Machine.execCbwrVisible core s
  | .codebookTake core => Sys2Proof.Machine.execCodebookTake core s
  | .restartMark ctx => Sys2Proof.Machine.execRestartMark ctx s
  | .implicitMark ctx => Sys2Proof.Machine.execImplicitMark ctx s
  | .storeGateDrain ctx => Sys2Proof.Machine.execStoreGateDrain ctx s
  | .smDivisionResult core => Sys2Proof.Machine.execSmDivisionResult core s
  | .lsAccessComplete id => Sys2Proof.Machine.execLsAccessComplete id s
  | .remoteFePerformed id => Sys2Proof.Machine.execRemoteFePerformed id s
  | .streamElementTransfer ctx port => Sys2Proof.Machine.execStreamElementTransfer ctx port s
  | .tileCmdTranslate id => Sys2Proof.Machine.execTileCmdTranslate id s
  | .tileCmdComplete id => Sys2Proof.Machine.execTileCmdComplete id s
  | .gvAccessComplete id => Sys2Proof.Machine.execGvAccessComplete id s
  | .mxOpStart core => Sys2Proof.Machine.execMxOpStart core s
  | .mxOpRetire core => Sys2Proof.Machine.execMxOpRetire core s
  | .rwCmdComplete core => Sys2Proof.Machine.execRwCmdComplete core s
  | .cbldComplete id => Sys2Proof.Machine.execCbldComplete id s
  | .barWaitTimeout id => Sys2Proof.Machine.execBarWaitTimeout id s
  | .bnRoundComplete id => Sys2Proof.Machine.execBnRoundComplete id s
  | .bnPubComplete id => Sys2Proof.Machine.execBnPubComplete id s
  | .collectorDrain id => Sys2Proof.Machine.execCollectorDrain id s
  | .diDrainDeadline die => Sys2Proof.Machine.execDiDrainDeadline die s
  | .gqAccept id => Sys2Proof.Machine.execGqAccept id s
  | .gqCompletion id => Sys2Proof.Machine.execGqCompletion id s
  | .placeBarge die => Sys2Proof.Machine.execPlaceBarge die s
  | .bargeRetire barge => Sys2Proof.Machine.execBargeRetire barge s
  | .launchedOpComplete id => Sys2Proof.Machine.execLaunchedOpComplete id s
  | .completionRecordPost => Sys2Proof.Machine.execCompletionRecordPost s
  | .preempt barge => Sys2Proof.Machine.execPreempt barge s
  | .saveComplete barge => Sys2Proof.Machine.execSaveComplete barge s
  | .saveAreaRetry die => Sys2Proof.Machine.execSaveAreaRetry die s
  | .resumeBarge barge => Sys2Proof.Machine.execResumeBarge barge s
  | .translationWalk id => Sys2Proof.Machine.execTranslationWalk id s
  | .tableUpdate => Sys2Proof.Machine.execTableUpdate s
  | .dirtyHarvest => Sys2Proof.Machine.execDirtyHarvest s
  | .forcedHarvest => Sys2Proof.Machine.execForcedHarvest s
  | .segmentMigration tensor seg toL => Sys2Proof.Machine.execSegmentMigration tensor seg toL s
  | .victimSelection die => Sys2Proof.Machine.execVictimSelection die s
  | .spillCopyComplete tensor => Sys2Proof.Machine.execSpillCopyComplete tensor s
  | .fetch tensor => Sys2Proof.Machine.execFetch tensor s
  | .replay id => Sys2Proof.Machine.execReplay id s
  | .replayComplete id => Sys2Proof.Machine.execReplayComplete id s
  | .accessNotification die => Sys2Proof.Machine.execAccessNotification die s
  | .overflowReserveRefill die => Sys2Proof.Machine.execOverflowReserveRefill die s
  | .l2Writeback line => Sys2Proof.Machine.execL2Writeback line s
  | .retryResponse id hint => Sys2Proof.Machine.execRetryResponse id hint s
  | .retryReissue id => Sys2Proof.Machine.execRetryReissue id s
  | .refresh bank busy => Sys2Proof.Machine.execRefresh bank busy s
  | .crossDieRequestTimeout id => Sys2Proof.Machine.execCrossDieRequestTimeout id s
  | .patrolScrub find newSector => Sys2Proof.Machine.execPatrolScrub find newSector s
  | .errorDetected err => Sys2Proof.Machine.execErrorDetected err s
  | .linkReplay stack unit => Sys2Proof.Machine.execLinkReplay stack unit s
  | .linkFailure kind unit => Sys2Proof.Machine.execLinkFailure kind unit s
  | .thermalThrottle stack => Sys2Proof.Machine.execThermalThrottle stack s
  | .thermalTrip stack => Sys2Proof.Machine.execThermalTrip stack s
  | .reset guest => Sys2Proof.Machine.execReset guest s
  | .li a imm => Sys2Proof.Machine.execLi a imm s
  | .addi a b imm => Sys2Proof.Machine.execAddi a b imm s
  | .add a b c => Sys2Proof.Machine.execAdd a b c s
  | .sub a b c => Sys2Proof.Machine.execSub a b c s
  | .mul a b c => Sys2Proof.Machine.execMul a b c s
  | .sll a b c => Sys2Proof.Machine.execSll a b c s
  | .srl a b c => Sys2Proof.Machine.execSrl a b c s
  | .b imm => Sys2Proof.Machine.execB imm s
  | .beq a b imm => Sys2Proof.Machine.execBeq a b imm s
  | .bne a b imm => Sys2Proof.Machine.execBne a b imm s
  | .blt a b imm => Sys2Proof.Machine.execBlt a b imm s
  | .call a imm => Sys2Proof.Machine.execCall a imm s
  | .ret a => Sys2Proof.Machine.execRet a s
  | .tdef a imm => Sys2Proof.Machine.execTdef a imm s
  | .tfree a => Sys2Proof.Machine.execTfree a s
  | .tpin a => Sys2Proof.Machine.execTpin a s
  | .tunpin a => Sys2Proof.Machine.execTunpin a s
  | .tuse a imm => Sys2Proof.Machine.execTuse a imm s
  | .thint a hint => Sys2Proof.Machine.execThint a hint s
  | .tstat a b sel => Sys2Proof.Machine.execTstat a b sel s
  | .opr a b c mode fixDie nt kernel ctr ng => Sys2Proof.Machine.execOpr a b c mode fixDie nt kernel ctr ng s
  | .xform a b kind fmt ctr => Sys2Proof.Machine.execXform a b kind fmt ctr s
  | .route a b c experts ctr => Sys2Proof.Machine.execRoute a b c experts ctr s
  | .a2av a b c group ctr => Sys2Proof.Machine.execA2av a b c group ctr s
  | .gop a countM1 opcode ctr => Sys2Proof.Machine.execGop a countM1 opcode ctr s
  | .coll a b kind group ctr => Sys2Proof.Machine.execColl a b kind group ctr s
  | .rcpb => Sys2Proof.Machine.execRcpb s
  | .rcpe => Sys2Proof.Machine.execRcpe s
  | .depw ctr => Sys2Proof.Machine.execDepw ctr s
  | .depset a ctr => Sys2Proof.Machine.execDepset a ctr s
  | .phase scope => Sys2Proof.Machine.execPhase scope s
  | .fence scope => Sys2Proof.Machine.execFence scope s
  | .halt => Sys2Proof.Machine.execHalt s
  | .trap code => Sys2Proof.Machine.execTrap code s
  | .nop => Sys2Proof.Machine.execNop s
  | .saAdd second => Sys2Proof.Machine.execSaAdd second s
  | .saSub second => Sys2Proof.Machine.execSaSub second s
  | .saRsub second => Sys2Proof.Machine.execSaRsub second s
  | .saAnd second => Sys2Proof.Machine.execSaAnd second s
  | .saOr second => Sys2Proof.Machine.execSaOr second s
  | .saXor second => Sys2Proof.Machine.execSaXor second s
  | .saAndn second => Sys2Proof.Machine.execSaAndn second s
  | .saNot second => Sys2Proof.Machine.execSaNot second s
  | .saShl second => Sys2Proof.Machine.execSaShl second s
  | .saShr second => Sys2Proof.Machine.execSaShr second s
  | .saSar second => Sys2Proof.Machine.execSaSar second s
  | .saRotl second => Sys2Proof.Machine.execSaRotl second s
  | .saMinS second => Sys2Proof.Machine.execSaMinS second s
  | .saMaxS second => Sys2Proof.Machine.execSaMaxS second s
  | .saMinZ second => Sys2Proof.Machine.execSaMinZ second s
  | .saMaxZ second => Sys2Proof.Machine.execSaMaxZ second s
  | .saEq second => Sys2Proof.Machine.execSaEq second s
  | .saNe second => Sys2Proof.Machine.execSaNe second s
  | .saLtS second => Sys2Proof.Machine.execSaLtS second s
  | .saLeS second => Sys2Proof.Machine.execSaLeS second s
  | .saLtZ second => Sys2Proof.Machine.execSaLtZ second s
  | .saLeZ second => Sys2Proof.Machine.execSaLeZ second s
  | .saClz second => Sys2Proof.Machine.execSaClz second s
  | .saCtz second => Sys2Proof.Machine.execSaCtz second s
  | .saPopc second => Sys2Proof.Machine.execSaPopc second s
  | .saExtS second => Sys2Proof.Machine.execSaExtS second s
  | .saExtZ second => Sys2Proof.Machine.execSaExtZ second s
  | .saIns second => Sys2Proof.Machine.execSaIns second s
  | .saMov second => Sys2Proof.Machine.execSaMov second s
  | .saSel second => Sys2Proof.Machine.execSaSel second s
  | .saBswap second => Sys2Proof.Machine.execSaBswap second s
  | .saAbsd second => Sys2Proof.Machine.execSaAbsd second s
  | .smMul => Sys2Proof.Machine.execSmMul s
  | .smMulhS => Sys2Proof.Machine.execSmMulhS s
  | .smMulhZ => Sys2Proof.Machine.execSmMulhZ s
  | .smMad => Sys2Proof.Machine.execSmMad s
  | .smDivS => Sys2Proof.Machine.execSmDivS s
  | .smDivZ => Sys2Proof.Machine.execSmDivZ s
  | .smRemS => Sys2Proof.Machine.execSmRemS s
  | .smRemZ => Sys2Proof.Machine.execSmRemZ s
  | .smFadd => Sys2Proof.Machine.execSmFadd s
  | .smFsub => Sys2Proof.Machine.execSmFsub s
  | .smFmul => Sys2Proof.Machine.execSmFmul s
  | .smFfma => Sys2Proof.Machine.execSmFfma s
  | .smFmin => Sys2Proof.Machine.execSmFmin s
  | .smFmax => Sys2Proof.Machine.execSmFmax s
  | .smFabs => Sys2Proof.Machine.execSmFabs s
  | .smFneg => Sys2Proof.Machine.execSmFneg s
  | .smFlt => Sys2Proof.Machine.execSmFlt s
  | .smFle => Sys2Proof.Machine.execSmFle s
  | .smFeq => Sys2Proof.Machine.execSmFeq s
  | .smFcvtS32 => Sys2Proof.Machine.execSmFcvtS32 s
  | .smFcvtZ32 => Sys2Proof.Machine.execSmFcvtZ32 s
  | .smIcvtS32 => Sys2Proof.Machine.execSmIcvtS32 s
  | .smIcvtZ32 => Sys2Proof.Machine.execSmIcvtZ32 s
  | .smFrcp => Sys2Proof.Machine.execSmFrcp s
  | .smFrsq => Sys2Proof.Machine.execSmFrsq s
  | .smFexp2 => Sys2Proof.Machine.execSmFexp2 s
  | .smFlog2 => Sys2Proof.Machine.execSmFlog2 s
  | .agGet second => Sys2Proof.Machine.execAgGet second s
  | .agPinc second => Sys2Proof.Machine.execAgPinc second s
  | .agPdec second => Sys2Proof.Machine.execAgPdec second s
  | .agPreinc second => Sys2Proof.Machine.execAgPreinc second s
  | .agAdd second => Sys2Proof.Machine.execAgAdd second s
  | .agLea second => Sys2Proof.Machine.execAgLea second s
  | .agIdx second => Sys2Proof.Machine.execAgIdx second s
  | .accOvfRead die => Sys2Proof.Machine.execAccOvfRead die s
  | .recidxWrite die idx => Sys2Proof.Machine.execRecidxWrite die idx s
  | .trcSelWrite die val => Sys2Proof.Machine.execTrcSelWrite die val s
  | .cstNearwWrite die val => Sys2Proof.Machine.execCstNearwWrite die val s
  | .cmResvWrite die val => Sys2Proof.Machine.execCmResvWrite die val s
  | .groupTableWrite group q ranks => Sys2Proof.Machine.execGroupTableWrite group q ranks s
  | .registerWrite reg val => Sys2Proof.Machine.execRegisterWrite reg val s
  | .load file => Sys2Proof.Machine.execLoad file s
  | .releaseImage => Sys2Proof.Machine.execReleaseImage s
  | .loadOperationEnd => Sys2Proof.Machine.execLoadOperationEnd s
  | .start sid => Sys2Proof.Machine.execStart sid s
  | .resume sid => Sys2Proof.Machine.execResume sid s
  | .skip sid => Sys2Proof.Machine.execSkip sid s
  | .suspend sid => Sys2Proof.Machine.execSuspend sid s
  | .continue_ sid => Sys2Proof.Machine.execContinue sid s
  | .bind sid => Sys2Proof.Machine.execBind sid s
  | .unload sid => Sys2Proof.Machine.execUnload sid s
  | .cresume sid => Sys2Proof.Machine.execCresume sid s
  | .cskip sid => Sys2Proof.Machine.execCskip sid s
  | .cend sid => Sys2Proof.Machine.execCend sid s
  | .map => Sys2Proof.Machine.execMap s
  | .unmap => Sys2Proof.Machine.execUnmap s
  | .protect => Sys2Proof.Machine.execProtect s
  | .migrate => Sys2Proof.Machine.execMigrate s
  | .release => Sys2Proof.Machine.execRelease s
  | .hostCoherentRead slot off len => Sys2Proof.Machine.execHostCoherentRead slot off len s
  | .hostCoherentWrite slot off bytes => Sys2Proof.Machine.execHostCoherentWrite slot off bytes s
  | .peerCollectiveMessage id rank q senderRank agrees counts data => Sys2Proof.Machine.execPeerCollectiveMessage id rank q senderRank agrees counts data s
  | .collTimeout id => Sys2Proof.Machine.execCollTimeout id s
  | .siteFence => Sys2Proof.Machine.execSiteFence s
  | .gpreempt => Sys2Proof.Machine.execGpreempt s
  | .gresume => Sys2Proof.Machine.execGresume s
  | .guestPacketDelivery id => Sys2Proof.Machine.execGuestPacketDelivery id s
  | .completionPacket pkt => Sys2Proof.Machine.execCompletionPacket pkt s
  | .guestFaultRecord seq code kind handle page => Sys2Proof.Machine.execGuestFaultRecord seq code kind handle page s
  | .guestCoherentRequest req => Sys2Proof.Machine.execGuestCoherentRequest req s
  | .guestShootdownAck => Sys2Proof.Machine.execGuestShootdownAck s
  | .guestShootdownTimeout => Sys2Proof.Machine.execGuestShootdownTimeout s
  | .guestPreemptAck => Sys2Proof.Machine.execGuestPreemptAck s
  | .guestPreemptTimeout => Sys2Proof.Machine.execGuestPreemptTimeout s
  | .guestPowerExceeded => Sys2Proof.Machine.execGuestPowerExceeded s
  | .elog => Sys2Proof.Machine.execElog s
  | .cert => Sys2Proof.Machine.execCert s
  | .attest => Sys2Proof.Machine.execAttest s
  | .rdout => Sys2Proof.Machine.execRdout s
  | .fwload => Sys2Proof.Machine.execFwload s
  | .fwcommit => Sys2Proof.Machine.execFwcommit s
  | .setmap => Sys2Proof.Machine.execSetmap s
  | .mailboxFence => Sys2Proof.Machine.execMailboxFence s
  | .pcap => Sys2Proof.Machine.execPcap s
  | .pstate => Sys2Proof.Machine.execPstate s
  | .launchedOpStart id => Sys2Proof.Machine.execLaunchedOpStart id s
  | .fetchCopyComplete tensor => Sys2Proof.Machine.execFetchCopyComplete tensor s
  | .spareCopyComplete die => Sys2Proof.Machine.execSpareCopyComplete die s
  | .mailboxCommandComplete => Sys2Proof.Machine.execMailboxCommandComplete s
  | .peerPortUp port up => Sys2Proof.Machine.execPeerPortUp port up s
  | .brJmp => Sys2Proof.Machine.execBrJmp s
  | .brJma => Sys2Proof.Machine.execBrJma s
  | .brCall => Sys2Proof.Machine.execBrCall s
  | .brRet => Sys2Proof.Machine.execBrRet s
  | .brLoop => Sys2Proof.Machine.execBrLoop s
  | .brLoops => Sys2Proof.Machine.execBrLoops s
  | .brBrk => Sys2Proof.Machine.execBrBrk s
  | .brHalt => Sys2Proof.Machine.execBrHalt s
  | .brYield => Sys2Proof.Machine.execBrYield s
  | .brTrap => Sys2Proof.Machine.execBrTrap s
  | .mxShape => Sys2Proof.Machine.execMxShape s
  | .mxRing => Sys2Proof.Machine.execMxRing s
  | .mxMma => Sys2Proof.Machine.execMxMma s
  | .mxMmaz => Sys2Proof.Machine.execMxMmaz s
  | .mxMmasm => Sys2Proof.Machine.execMxMmasm s
  | .mxDrain => Sys2Proof.Machine.execMxDrain s
  | .mxDrainf => Sys2Proof.Machine.execMxDrainf s
  | .mxZero => Sys2Proof.Machine.execMxZero s
  | .mxLdacc => Sys2Proof.Machine.execMxLdacc s
  | .mxScale => Sys2Proof.Machine.execMxScale s
  | .mxRowstat => Sys2Proof.Machine.execMxRowstat s
  | .mxSmreset => Sys2Proof.Machine.execMxSmreset s
  | .mxFence => Sys2Proof.Machine.execMxFence s
  | .rwFstat => Sys2Proof.Machine.execRwFstat s
  | .rwFsmx => Sys2Proof.Machine.execRwFsmx s
  | .rwNorm => Sys2Proof.Machine.execRwNorm s
  | .rwBln => Sys2Proof.Machine.execRwBln s
  | .rwBrms => Sys2Proof.Machine.execRwBrms s
  | .rwBsm => Sys2Proof.Machine.execRwBsm s
  | .rwSlot => Sys2Proof.Machine.execRwSlot s
  | .rwFree => Sys2Proof.Machine.execRwFree s
  | .txLd => Sys2Proof.Machine.execTxLd s
  | .txLdr => Sys2Proof.Machine.execTxLdr s
  | .txSt => Sys2Proof.Machine.execTxSt s
  | .txCp => Sys2Proof.Machine.execTxCp s
  | .txPf => Sys2Proof.Machine.execTxPf s
  | .txFpr => Sys2Proof.Machine.execTxFpr s
  | .txQlim => Sys2Proof.Machine.execTxQlim s
  | .txQspc => Sys2Proof.Machine.execTxQspc s
  | .lsLd8S => Sys2Proof.Machine.execLsLd8S s
  | .lsLd8Z => Sys2Proof.Machine.execLsLd8Z s
  | .lsLd16S => Sys2Proof.Machine.execLsLd16S s
  | .lsLd16Z => Sys2Proof.Machine.execLsLd16Z s
  | .lsLd32 => Sys2Proof.Machine.execLsLd32 s
  | .lsLdv => Sys2Proof.Machine.execLsLdv s
  | .lsSt8 => Sys2Proof.Machine.execLsSt8 s
  | .lsSt16 => Sys2Proof.Machine.execLsSt16 s
  | .lsSt32 => Sys2Proof.Machine.execLsSt32 s
  | .lsStv => Sys2Proof.Machine.execLsStv s
  | .lsLdwf => Sys2Proof.Machine.execLsLdwf s
  | .lsLdwfe => Sys2Proof.Machine.execLsLdwfe s
  | .lsStwe => Sys2Proof.Machine.execLsStwe s
  | .lsStfull => Sys2Proof.Machine.execLsStfull s
  | .lsLdvwf => Sys2Proof.Machine.execLsLdvwf s
  | .lsLdvwfe => Sys2Proof.Machine.execLsLdvwfe s
  | .lsStvwe => Sys2Proof.Machine.execLsStvwe s
  | .lsSetf => Sys2Proof.Machine.execLsSetf s
  | .lsSete => Sys2Proof.Machine.execLsSete s
  | .lsGetf => Sys2Proof.Machine.execLsGetf s
  | .lsFence => Sys2Proof.Machine.execLsFence s
  | .lsAmoAdd => Sys2Proof.Machine.execLsAmoAdd s
  | .lsAmoCas => Sys2Proof.Machine.execLsAmoCas s
  | .lsAmoSwap => Sys2Proof.Machine.execLsAmoSwap s
  | .lsAmoMax => Sys2Proof.Machine.execLsAmoMax s
  | .lsBarInit => Sys2Proof.Machine.execLsBarInit s
  | .lsBarArrive => Sys2Proof.Machine.execLsBarArrive s
  | .lsBarWait => Sys2Proof.Machine.execLsBarWait s
  | .lsBarQuery => Sys2Proof.Machine.execLsBarQuery s
  | .lsSbind => Sys2Proof.Machine.execLsSbind s
  | .lsSunbind => Sys2Proof.Machine.execLsSunbind s
  | .vfAddF32 => Sys2Proof.Machine.execVfAddF32 s
  | .vfSubF32 => Sys2Proof.Machine.execVfSubF32 s
  | .vfMulF32 => Sys2Proof.Machine.execVfMulF32 s
  | .vfFmaF32 => Sys2Proof.Machine.execVfFmaF32 s
  | .vfFnmaF32 => Sys2Proof.Machine.execVfFnmaF32 s
  | .vfMinF32 => Sys2Proof.Machine.execVfMinF32 s
  | .vfMaxF32 => Sys2Proof.Machine.execVfMaxF32 s
  | .vfAbsF32 => Sys2Proof.Machine.execVfAbsF32 s
  | .vfLtF32 => Sys2Proof.Machine.execVfLtF32 s
  | .vfLeF32 => Sys2Proof.Machine.execVfLeF32 s
  | .vfEqF32 => Sys2Proof.Machine.execVfEqF32 s
  | .vfAddBf16 => Sys2Proof.Machine.execVfAddBf16 s
  | .vfMulBf16 => Sys2Proof.Machine.execVfMulBf16 s
  | .vfFmaBf16 => Sys2Proof.Machine.execVfFmaBf16 s
  | .vfAddS32 => Sys2Proof.Machine.execVfAddS32 s
  | .vfSubS32 => Sys2Proof.Machine.execVfSubS32 s
  | .vfMulS32 => Sys2Proof.Machine.execVfMulS32 s
  | .vfMinS32 => Sys2Proof.Machine.execVfMinS32 s
  | .vfMaxS32 => Sys2Proof.Machine.execVfMaxS32 s
  | .vfAnd => Sys2Proof.Machine.execVfAnd s
  | .vfOr => Sys2Proof.Machine.execVfOr s
  | .vfXor => Sys2Proof.Machine.execVfXor s
  | .vfShl => Sys2Proof.Machine.execVfShl s
  | .vfShr => Sys2Proof.Machine.execVfShr s
  | .vfSar => Sys2Proof.Machine.execVfSar s
  | .vfSel => Sys2Proof.Machine.execVfSel s
  | .vfDot4S8 => Sys2Proof.Machine.execVfDot4S8 s
  | .vfRsumF32 => Sys2Proof.Machine.execVfRsumF32 s
  | .vfRmaxF32 => Sys2Proof.Machine.execVfRmaxF32 s
  | .vfRsumS32 => Sys2Proof.Machine.execVfRsumS32 s
  | .vfScanS32 => Sys2Proof.Machine.execVfScanS32 s
  | .vfCnt => Sys2Proof.Machine.execVfCnt s
  | .vxPerm => Sys2Proof.Machine.execVxPerm s
  | .vxBcast => Sys2Proof.Machine.execVxBcast s
  | .vxRotl => Sys2Proof.Machine.execVxRotl s
  | .vxZipLo => Sys2Proof.Machine.execVxZipLo s
  | .vxZipHi => Sys2Proof.Machine.execVxZipHi s
  | .vxUnzipLo => Sys2Proof.Machine.execVxUnzipLo s
  | .vxUnzipHi => Sys2Proof.Machine.execVxUnzipHi s
  | .vxExt => Sys2Proof.Machine.execVxExt s
  | .vxIns => Sys2Proof.Machine.execVxIns s
  | .vxCvtF32Bf16Lo => Sys2Proof.Machine.execVxCvtF32Bf16Lo s
  | .vxCvtF32Bf16Hi => Sys2Proof.Machine.execVxCvtF32Bf16Hi s
  | .vxCvtBf16F32 => Sys2Proof.Machine.execVxCvtBf16F32 s
  | .vxCvtF32E4m3 => Sys2Proof.Machine.execVxCvtF32E4m3 s
  | .vxCvtE4m3F32 => Sys2Proof.Machine.execVxCvtE4m3F32 s
  | .vxCvtF32E5m2 => Sys2Proof.Machine.execVxCvtF32E5m2 s
  | .vxCvtE5m2F32 => Sys2Proof.Machine.execVxCvtE5m2F32 s
  | .vxCvtF32L6 => Sys2Proof.Machine.execVxCvtF32L6 s
  | .vxCvtL6F32 => Sys2Proof.Machine.execVxCvtL6F32 s
  | .vxCvtF32S8 => Sys2Proof.Machine.execVxCvtF32S8 s
  | .vxCvtS8F32 => Sys2Proof.Machine.execVxCvtS8F32 s
  | .vxCvtF32Int => Sys2Proof.Machine.execVxCvtF32Int s
  | .vxCvtIntF32 => Sys2Proof.Machine.execVxCvtIntF32 s
  | .vxMxq => Sys2Proof.Machine.execVxMxq s
  | .vxMxdq => Sys2Proof.Machine.execVxMxdq s
  | .vxExp2 => Sys2Proof.Machine.execVxExp2 s
  | .vxLog2 => Sys2Proof.Machine.execVxLog2 s
  | .vxRcp => Sys2Proof.Machine.execVxRcp s
  | .vxRsq => Sys2Proof.Machine.execVxRsq s
  | .vxTanh => Sys2Proof.Machine.execVxTanh s
  | .vxCmpk => Sys2Proof.Machine.execVxCmpk s
  | .vxHist => Sys2Proof.Machine.execVxHist s
  | .vxCbx => Sys2Proof.Machine.execVxCbx s
  | .gvLd32 => Sys2Proof.Machine.execGvLd32 s
  | .gvLd64 => Sys2Proof.Machine.execGvLd64 s
  | .gvSt32 => Sys2Proof.Machine.execGvSt32 s
  | .gvSt64 => Sys2Proof.Machine.execGvSt64 s
  | .gvLdv => Sys2Proof.Machine.execGvLdv s
  | .gvVadd => Sys2Proof.Machine.execGvVadd s
  | .gvVchk => Sys2Proof.Machine.execGvVchk s
  | .gvVclr => Sys2Proof.Machine.execGvVclr s
  | .gvCasv => Sys2Proof.Machine.execGvCasv s
  | .gvAmoAdd => Sys2Proof.Machine.execGvAmoAdd s
  | .gvAmoFadd => Sys2Proof.Machine.execGvAmoFadd s
  | .gvAmoMin => Sys2Proof.Machine.execGvAmoMin s
  | .gvAmoMax => Sys2Proof.Machine.execGvAmoMax s
  | .gvAmoSwap => Sys2Proof.Machine.execGvAmoSwap s
  | .gvAmoCas => Sys2Proof.Machine.execGvAmoCas s
  | .gvRedAdd => Sys2Proof.Machine.execGvRedAdd s
  | .gvRedFadd => Sys2Proof.Machine.execGvRedFadd s
  | .bnSync => Sys2Proof.Machine.execBnSync s
  | .bnArrive => Sys2Proof.Machine.execBnArrive s
  | .bnWait => Sys2Proof.Machine.execBnWait s
  | .bnPub => Sys2Proof.Machine.execBnPub s
  | .bnAcq => Sys2Proof.Machine.execBnAcq s
  | .bnPhase => Sys2Proof.Machine.execBnPhase s
  | .bnFence => Sys2Proof.Machine.execBnFence s
  | .bnVoteAny => Sys2Proof.Machine.execBnVoteAny s
  | .bnVoteAll => Sys2Proof.Machine.execBnVoteAll s
  | .syFmt => Sys2Proof.Machine.execSyFmt s
  | .syCbld => Sys2Proof.Machine.execSyCbld s
  | .syCbwr => Sys2Proof.Machine.execSyCbwr s
  | .syCbsel => Sys2Proof.Machine.execSyCbsel s
  | .syFset => Sys2Proof.Machine.execSyFset s
  | .syFclr => Sys2Proof.Machine.execSyFclr s
  | .sySig => Sys2Proof.Machine.execSySig s
  | .syTrap => Sys2Proof.Machine.execSyTrap s
  | .syDbg => Sys2Proof.Machine.execSyDbg s
  | .syPrio => Sys2Proof.Machine.execSyPrio s
  | .syNop => Sys2Proof.Machine.execSyNop s
  | .gqPush => Sys2Proof.Machine.execGqPush s
  | .gqSpace => Sys2Proof.Machine.execGqSpace s
  | .gqPoll => Sys2Proof.Machine.execGqPoll s
  | .harvest => Sys2Proof.Machine.execHarvest s
  | .apstRead => Sys2Proof.Machine.execApstRead s

end Sys2Proof.Machine
end

