-- ==== Sys2Proof/Machine/Turn.lean ====
section
/-! DEFINITION. What each turn does: a trigger of the bundle that has just issued, a core's cycle, one instruction of a sequencer, an event,
the passing of a tick; and the placing of a single instruction where the next step fetches it (log entry 2). -/
namespace Sys2Proof.Machine
open Sys2Proof

/-- The agent is done with its instruction. -/
def settled : Out → Out
  | .next s => .next { s with cur := .idle }
  | o => o

def andThen (o : Out) (f : State → Out) : Out :=
  match o with
  | .next s => f s
  | e => e

/-! ### A sequencer (R111) -/

/-- Whether the condition that a BLOCKED stream waits for has cleared. -/
def State.waitOver (s : State) (sid : Nat) (x : Stream) : Bool :=
  x.failed.isSome || match x.wait with
  | .none => true
  | .depw c => x.ctr c == 0
  | .ops scope => !s.outstandingAt sid scope
  | .launchQueue => s.queuedOn (sid / 16) < 64
  | .moving ts => ts.all fun t => !s.onTheMove t && !s.servesOld t
  | .replay id => (s.replay? id).isNone
  | .alloc id => !s.sq.allocs.any fun q => q.id == id && !q.granted
  | .fetch t => s.stateOf t != .spillL && s.stateOf t != .moving

/-- Whether a sequencer may execute the next instruction of a stream. -/
def State.runnable (s : State) (sid : Nat) (x : Stream) : Bool :=
  !x.susp && (x.st == .ready || (x.st == .blocked && s.waitOver sid x))

/-- The runnable streams of a die, each with its priority. -/
def State.readyStreams (s : State) (v : Nat) : List (Nat × Nat) :=
  ((List.range 16).map (16 * v + ·)).filterMap fun sid =>
    (s.stream? sid).bind fun x => if s.runnable sid x then some (sid, x.prio) else none

/-- The next stream of a die: of those of the highest priority, the first in rotation after the one of that priority last served. -/
def State.nextStream (s : State) (v : Nat) : Option Nat :=
  let xs := s.readyStreams v
  let top := xs.foldl (fun n x => max n x.2) 0
  let last := s.sq.lastServed.get (8 * v + top) (16 * v + 15)
  ((List.range 16).map fun i => 16 * v + (last + 1 + i) % 16).find? fun sid => xs.contains (sid, top)

/-- The handles whose records a stream instruction reads. -/
def handlesOf (x : Stream) : Instr → List Word
  | .tfree a | .tpin a | .tunpin a | .tuse a _ | .thint a _ => [x.handle a.toNat]
  | .tstat _ b sel => if sel = 7 then [] else [x.handle b.toNat]
  | .opr _ b _ _ _ nt _ _ _ => x.tParams b nt.toNat
  | .xform a b .. | .coll a b .. => [x.handle a.toNat, x.handle b.toNat]
  | .route a b c .. => [x.handle a.toNat, x.handle b.toNat] ++ (List.range 3).map fun i => x.handle (c.toNat + i)
  | .a2av a b c .. => [x.handle a.toNat, x.handle b.toNat, x.handle c.toNat]
  | .gop a n .. => (List.range (n.toNat + 1)).map fun i => x.handle (a.toNat + i)
  | _ => []

/-- The parts of a stream's sequencer state, 64 bits each: g0 to g31, then t0 to t31 in pairs, then the counters in pairs. -/
def placeG (i : BitVec 5) : List Nat := if i = 0 then [] else [i.toNat]
def placeT (i : Nat) : Nat := 32 + i % 32 / 2
def placeCtr (c : Nat) : Nat := 48 + c / 2

/-- The parts of that state which a stream instruction reads (DEDUCED, log entry 140). -/
def placesRead : Instr → List Nat
  | .addi _ b _ => placeG b
  | .add _ b c | .sub _ b c | .mul _ b c | .sll _ b c | .srl _ b c => placeG b ++ placeG c
  | .beq a b _ | .bne a b _ | .blt a b _ => placeG a ++ placeG b
  | .ret a | .depset a _ => placeG a
  | .depw c => [placeCtr c.toNat]
  | .tfree a | .tpin a | .tunpin a | .tuse a _ | .thint a _ => [placeT a.toNat]
  | .tstat _ b sel => if sel = 7 then [] else [placeT b.toNat]
  | .opr a b c _ _ nt _ _ ng =>
    placeG a ++ ((List.range nt.toNat).map fun i => placeT (b.toNat + i)) ++
      (List.range ng.toNat).flatMap fun i => placeG (BitVec.ofNat 5 (c.toNat + i))
  | .xform a b .. | .coll a b .. => [placeT a.toNat, placeT b.toNat]
  | .route a b c .. => [placeT a.toNat, placeT b.toNat] ++ (List.range 3).map fun i => placeT (c.toNat + i)
  | .a2av a b c .. => [placeT a.toNat, placeT b.toNat, placeT c.toNat]
  | .gop a n .. => (List.range (n.toNat + 1)).map fun i => placeT (a.toNat + i)
  | _ => []

/-- The parts that it writes whole. -/
def placesWritten : Instr → List Nat
  | .li a _ | .addi a _ _ | .add a _ _ | .sub a _ _ | .mul a _ _ | .sll a _ _ | .srl a _ _ | .call a _ | .tstat a _ _ => placeG a
  | _ => []

/-- What a stream instruction that has gone through has written carries no poison. -/
def State.wrotePlaces (s : State) (sid : Nat) (i : Instr) : State :=
  if ((s.stream? sid).map (·.st)) == some .ready then s.cleanState sid fun k => (placesWritten i).contains k else s

/-- A poisoned stream word or record (R376). The value of the record is free. -/
def State.sequencerPoison (s : State) (sid : Nat) : State :=
  let (w, s1) := s.freeWord
  s1.sqFault sid 11 0xb0 0 w.toNat

/-- Reads, decodes and executes the word at a stream's PC. DESIGN CHOICE (log entry 117): the spec does not order SQ_ILLEGAL and SQ_RECIPE
for a word inside a bracket that breaks both R90 and R137; the word is decoded first, so SQ_ILLEGAL is reported. -/
def State.streamStep (s : State) (sid : Nat) (x : Stream) : Out :=
  if s.sq.badWords.contains (sid, x.pc) then .next (s.sequencerPoison sid)
  else match x.image.words[x.pc]? with
    | none => .next (s.sqFault sid 2 0x21 0 x.pc)
    | some w =>
      match decodeStream w with
      | .error _ => .next (s.illegal sid x)
      | .ok i =>
        if ((placesRead i).any fun k => s.sq.badState.contains (sid, k)) ||
            (handlesOf x i).any fun h => s.sq.badRecs.contains (handleKey h) then .next (s.sequencerPoison sid)
        else if s.sq.badState.isEmpty then exec i { s with cur := .stream sid }
        else andThen (exec i { s with cur := .stream sid }) fun t => .next (t.wrotePlaces sid i)

/-- One instruction of the sequencer of a virtual die. In P1, or while the die moves to a spare, it executes nothing. -/
def sequencerTurn (v : Nat) (s : State) : Out :=
  if 8 ≤ v then .fault .noSuchUnit
  else if s.pkg.p1 || !s.mapped v || s.moving v then .next s
  else match s.nextStream v with
    | none => .next s
    | some sid =>
      match s.stream? sid with
      | none => .next s
      | some x => settled (State.streamStep { s with sq := { s.sq with lastServed := s.sq.lastServed.put (8 * v + x.prio) sid } } sid x)

/-! ### A core -/

/-- A core's turn: what is due before its next cycle, or that cycle. -/
def coreTurn (p cl c : Nat) (s : State) : Out :=
  if 8 ≤ p ∨ 6 ≤ cl ∨ 48 ≤ c then .fault .noSuchUnit
  else if s.pkg.p1 then .next s
  else exec ((s.coreDue (coreKey p cl c)).getD (.bundleIssue (coreKey p cl c))) s

/-- A trigger of the bundle that has just issued. -/
def microTurn (t : Trig) (s : State) : Out :=
  match decodeSlot t.word with
  | some i => settled (exec i { s with cur := .trigger t })
  | none => .next s

/-! ### Events -/

/-- Deadlines: they run with the tick in which they fall due. -/
def isDeadline : Instr → Bool
  | .diDrainDeadline _ | .crossDieRequestTimeout _ | .forcedHarvest | .guestShootdownTimeout | .guestPreemptTimeout | .collTimeout _ => true
  | _ => false

/-- Events that the device takes part in while it executes nothing (R385): those of the host, the peers, the guest and the platform. -/
def runsInP1 : Instr → Bool
  | .completionRecordPost | .gqCompletion _ | .patrolScrub .. | .errorDetected _ | .linkReplay .. | .linkFailure .. | .thermalThrottle _
  | .thermalTrip _ | .reset _ | .harvest | .dirtyHarvest | .apstRead | .accOvfRead _ | .recidxWrite .. | .trcSelWrite .. | .cstNearwWrite ..
  | .cmResvWrite .. | .groupTableWrite .. | .registerWrite .. | .load _ | .releaseImage | .loadOperationEnd | .start _ | .resume _ | .skip _
  | .suspend _ | .continue_ _ | .bind _ | .unload _ | .cresume _ | .cskip _ | .cend _ | .hostCoherentRead .. | .hostCoherentWrite ..
  | .l2Writeback _ | .refresh .. | .peerCollectiveMessage .. | .siteFence | .gpreempt | .gresume | .completionPacket _ | .guestFaultRecord ..
  | .guestCoherentRequest _ | .guestShootdownAck | .guestPreemptAck | .guestPowerExceeded | .elog | .cert | .attest | .rdout | .fwload
  | .fwcommit | .setmap | .mailboxFence | .pcap | .pstate | .mailboxCommandComplete | .spareCopyComplete _ | .peerPortUp .. => true
  | _ => false

/-- An event's turn. One that is not enabled changes nothing, and neither does an instruction that needs an agent. -/
def eventTurn (i : Instr) (s : State) : Out :=
  if isDeadline i || (s.pkg.p1 && !runsInP1 i) then .next s
  else match exec i s with
    | .refused _ => .next s
    | o => o

/-! ### Ticks -/

/-- The requests of a die's contexts, their stores to MSA pages, and the drains of its collector, that left for another die. -/
def State.sentFrom (s : State) (v : Nat) : List Nat :=
  ((s.wk.gv.filter fun o => o.sent.isSome && s.dieOf o.ctx == v).map (·.id)) ++
  ((s.wk.tiles.filter fun k => k.sent.isSome && s.dieOf k.ctx == v).map (·.id)) ++
  ((s.ms.held.filter fun h => h.sent.isSome && h.die == v).map (·.id)) ++
  (s.ctxs.filter fun e => s.dieOf e.1 == v).flatMap fun e => (e.2.gate.filter fun g => g.sent.isSome).map (·.opId)

/-- Whether some storage addresses lie in a segment that a migration holds (R322). -/
def State.inHeld (s : State) (as : List Nat) : Bool := as.any fun a => s.segHeld (storeTensor a) (storeOff a / pageBytes)

/-- Whether a request of a die's contexts or of its collector cannot go on by anything that the die does: it waits for room at its home
(R340), at a held segment (R322), for its reissue (R335), or over a path that has failed (R378). -/
def State.blockedOut (s : State) (v : Nat) : Bool :=
  let stuck (as : List Nat) : Bool := !s.hasRoom as || s.inHeld as || as.any fun a => !s.reaches v (storeTensor a)
  !s.retrying.isEmpty ||
  (s.wk.gv.any fun o => s.dieOf o.ctx == v && stuck (s.gvAddrs o)) ||
  (s.wk.tiles.any fun k => k.started && s.dieOf k.ctx == v && stuck (s.tileAddrs k)) ||
  (s.ms.held.any fun h => h.die == v && stuck (h.bytes.map Prod.fst)) ||
  s.ctxs.any fun e => s.dieOf e.1 == v && e.2.gate.any fun g => g.isGlobal && stuck (g.cells.map Prod.fst)

/-- Whether a save spends one of the two durations that R309 adds: row and matrix operations that R258 and R262 let run, or a started tile
command at a segment that a migration holds. -/
def State.saveStalled (s : State) (b : Barge) : Bool :=
  (s.wk.rw.any fun r => b.ctxs.contains r.ctx) || (s.wk.mx.any fun o => b.ctxs.contains o.ctx && !s.mxWithdrawn b.id o) ||
  s.wk.tiles.any fun k => k.started && b.ctxs.contains k.ctx && s.inHeld (s.tileAddrs k)

/-- Whether the residency engine of a die can go on with its first request for H: by a selection, or by one of its spills. -/
def State.selectionGoes (s : State) (v : Nat) : Bool :=
  match s.sq.allocs.find? fun q => q.die == v && !q.granted with
  | none => true
  | some q =>
    decide (q.pages ≤ s.availH v) || !decide (q.pages ≤ s.availH v + s.inFlight q.spills) ||
    q.spills.any fun t => s.stateOf t == .moving && !s.tensorBusy t && s.updateFree

/-- Whether a save that is due can still go on (log entry 112): one whose barge runs, by a step of its request for the save area; one under
way, unless it is stalled or its die's requests are blocked. -/
def State.saveGoes (s : State) (b : Barge) : Bool :=
  match b.st with
  | .placed => ((s.allocOf (.save b.id) none).map (·.granted)).getD true || s.selectionGoes b.die
  | .saving => !s.saveStalled b && !s.blockedOut b.die
  | _ => false

/-- The contexts on the first core of the first barge of a launch. -/
def State.firstCtxs (s : State) (o : Op) : List Nat :=
  match s.sq.barges.find? fun b => b.op == o.id && b.g == 0 && b.st == .placed with
  | some b => b.ctxs.filter fun c => coreOf c == coreOf (b.ctxs.headD 0)
  | none => []

/-- Whether the first bundle of a launch has issued on the first core of its first barge, or never will. -/
def State.launchBegun (s : State) (o : Op) : Bool :=
  0 < o.placed && ((s.firstCtxs o).isEmpty || (s.firstCtxs o).any fun c =>
    match s.ctx? c with
    | some x => x.halted || x.stop.isSome || 0 < x.issued || x.r.pc != ((s.kernel? o.image).map (·.entry)).getD 0
    | none => true)

/-- Whether a launch of a die waits for contexts (R21): it finds no cluster, or behind a barge that resumes first and cannot yet (R313). -/
def State.awaitsContexts (s : State) (v : Nat) (o : Op) : Bool :=
  let resumes := (s.resumeList v).filter fun b => s.prioOf o.sid ≤ b.prio
  match s.stackOfDie v with
  | none => true
  | some p =>
    if resumes.isEmpty then (((s.kernel? o.image).bind fun k => s.bestCluster p k.contexts o.tasks).isNone)
    else !resumes.any fun b => (b.save.map fun w => s.mayResume b w p).getD false

/-- Whether a launch spends time that R14 does not count: it, or the launch that goes before it, waits for contexts, or its first bundle
waits (log entry 100). -/
def State.launchStalled (s : State) (o : Op) : Bool :=
  let v := s.bargeDie o 0
  if o.placed = 0 then s.pkg.p1 || s.moving v || s.awaitsContexts v ((s.placeList v).headD o)
  else (s.firstCtxs o).all fun c =>
    match s.ctx? c with
    | some x => x.marked && !(s.attempt c (s.core (coreOf c)).cyc).ready
    | none => true

/-- The bounds that a die keeps in its ticks: a save of 20 µs (R309), 600 ns from an opr to its first bundle (R14), and the drain of what was
published at di (R273), where only a request sent before it keeps it. Whether one of them runs out with this tick, so that the tick does not
end before the save, the issue or the arrival (R4, R389). -/
def State.boundDue (s : State) (v : Nat) : Bool :=
  let due (d : Option Nat) : Bool := (d.map fun t => decide (t ≤ s.dieTick v)).getD false
  (s.sq.barges.any fun b => b.die == v && due b.saveBy && s.saveGoes b) ||
  (s.sq.ops.any fun o => o.die == v && due o.launchBy && !s.launchBegun o && !s.launchStalled o) ||
  (s.drainSet (s.drainDue v)).any fun h => s.mayLeave h && s.canDrain h && !s.heldMay h

/-- A tick that a save or a launch spends stalled is not counted; a launch that has begun has met its bound. -/
def State.countBounds (s : State) (v : Nat) : State :=
  { s with sq := { s.sq with
      barges := s.sq.barges.map fun b =>
        if b.die == v && b.st == .saving && s.saveStalled b then { b with saveBy := b.saveBy.map (· + 1) } else b,
      ops := s.sq.ops.map fun o =>
        if o.die == v && o.launchBy.isSome then
          (if s.launchBegun o then { o with launchBy := none }
           else if s.launchStalled o then { o with launchBy := o.launchBy.map (· + 1) } else o)
        else o } }

/-- The end of a tick for the virtual die that a stack holds: what falls due with it happens, and the counters fall (R139), but for those of
a die that moves, which are held until it has moved (R380). -/
def State.dieTickEnd (s : State) (v : Nat) : Out :=
  andThen ((s.sentFrom v).foldl (fun o id => andThen o (exec (.crossDieRequestTimeout id))) (exec (.diDrainDeadline v) s)) fun t =>
    let u := (t.countBounds v).endFence v
    .next (if u.moving v then u else u.applyDecs v)

/-- The end of a tick of a stack's reference timer, which then advances. -/
def tickTurn (p : Nat) (s : State) : Out :=
  let advance (t : State) : Out := .next { t with pkg := { t.pkg with ticks := vset t.pkg.ticks p (vget t.pkg.ticks p 0 + 1) } }
  if 8 ≤ p then .fault .noSuchUnit
  else match s.dieOfStack p with
  | none => advance s
  | some v => if s.boundDue v then .next s else andThen (s.dieTickEnd v) fun t =>
      advance { t with pkg := { t.pkg with dieTicks := vset t.pkg.dieTicks v (t.dieTick v + 1) } }

/-- The end of a tick of the I/O die's timer. -/
def ioTickTurn (s : State) : Out :=
  let o1 := andThen (exec .forcedHarvest s) fun t => andThen (exec .guestShootdownTimeout t) (exec .guestPreemptTimeout)
  let o2 := (s.sq.ops.filter fun o => o.collective.isSome).foldl (fun o p => andThen o (exec (.collTimeout p.id))) o1
  let o3 := andThen o2 fun t =>
    match t.hs.mailbox.powerDue with
    | some d => if d ≤ t.pkg.ioTick then exec .mailboxCommandComplete t else .next t
    | none => .next t
  andThen o3 fun t => .next { t with pkg := { t.pkg with ioTick := t.pkg.ioTick + 1 } }

/-! ### Turns -/

def runTurn : Turn → State → Out
  | .core p cl c, s => coreTurn p cl c s
  | .sequencer v, s => sequencerTurn v s
  | .event i, s => eventTurn i s
  | .tick p, s => tickTurn p s
  | .ioTick, s => ioTickTurn s
  | .engine op part, s => if s.pkg.p1 then .next s else .next (s.landOne op part)
  | .tile id part, s => if s.pkg.p1 then .next s else .next (s.tileOne id part)

/-- One move of the machine: the triggers of an issued bundle first, then the agenda, then the schedule (log entry 1). -/
def nextTurn (s : State) : Out :=
  match s.micro, s.agenda with
  | t :: rest, _ => microTurn t { s with micro := rest }
  | [], a :: rest => runTurn a { s with agenda := rest }
  | [], [] => runTurn (Config.schedule s.turnNo) { s with turnNo := s.turnNo + 1 }

/-! ### Placing one instruction (log entry 2) -/

/-- A kernel image of one bundle. -/
def oneBundle (words : List Word) : Kernel where
  id := 1
  bundles := [words]
  entry := 0
  contexts := 1
  params := 0
  bargeMax := 1
  scratch := 0
  cbmask := 0
  ringCount := 0
  bankMap := 0xfedcba9876543210#64
  plan := []
  rings := []
  books := []
  size := 0

/-- A stream image of one word. -/
def oneWord (w : DWord) : StreamImage where
  words := [w]
  entry := 0
  prio := 7
  uses := none
  descs := []
  kernels := []

/-- Stream slot 0 holds one word and its sequencer moves next. -/
def State.placeStream (s : State) (w : DWord) : State :=
  let x : Stream := { Stream.blank with st := .ready, prio := 7, image := oneWord w }
  let s1 := s.putSlot 0 x
  { s1 with
    cur := .idle, micro := [], agenda := [.sequencer 0],
    sq := { s1.sq with lastServed := s1.sq.lastServed.put 7 15, badWords := [] },
    pkg := { s1.pkg with p1 := false, copying := [], vmap := vset s1.pkg.vmap 0 (some 0) } }

/-- A task of one context on the first core, marked at its entry, in a kernel of one bundle; it has issued nothing. -/
def State.placeTask (s : State) (words : List Word) : State :=
  let o : Op := { newOp 1 0 0 0 0 0 (.opr 1 1 1 0 0 []) [] none none 0 with started := true, queued := false, placed := 1, launchBy := none }
  let b : Barge :=
    { id := 2, op := 1, g := 0, die := 0, cluster := 0, prio := 0, st := .placed, ctxs := [0], seq := 2, save := none, books := [],
      ringPos := [], since := 0, saveBy := none }
  let r := Regs.start 0 0 []
  let x : Ctx := { Ctx.start 2 0 r with marked := true, shadow := some (r, []), region := 3 }
  { s with
    cur := .idle, micro := [], agenda := [], nextId := s.nextId + 3,
    ctxs := s.ctxs.put 0 x,
    cores := s.cores.put 0 { CoreState.reset with current := 0, switched := false },
    sq := { s.sq with ops := [o], barges := [b], kernels := [oneBundle words] },
    pkg := { s.pkg with p1 := false, vmap := vset s.pkg.vmap 0 (some 0) } }

/-- A trigger of a bundle that has just issued on the first context, with its operand and address sets zero. -/
def State.placeTrigger (s : State) (w : BitVec 24) : State :=
  let ag : AgSet := { a := PW.zero, n := PW.zero, b := PW.zero, k := PW.zero }
  let t : Trig := { ctx := 0, slot := 0, bno := 0, cyc := 0, delay := false, word := w, y := PV.zero, ag := ag, ag2 := ag }
  { s.placeTask [] with micro := [t] }

/-- A bundle that the first core issues in its next turn. -/
def State.placeBundle (s : State) (words : List Word) : State := { s.placeTask words with agenda := [.core 0 0 0] }

/-- One instruction of the opcode table, placed where the next step fetches it. -/
def State.placeTableWord (s : State) (nbits w : Nat) : State :=
  if nbits = 64 then s.placeStream (BitVec.ofNat 64 w)
  else if nbits = 24 then s.placeTrigger (BitVec.ofNat 24 w)
  else s.placeBundle (bundleOfBits w)

end Sys2Proof.Machine
end

