-- ==== Sys2Proof/Safety.lean ====
section
/-! DEFINITION. The terms in which claims about the machine are stated: that an instruction answers a next state, what a trigger
may change, and what every reachable memory looks like. -/
namespace Sys2Proof.Safety
open Sys2Proof Sys2Proof.Machine

/-- Trigger t executes, and x is its context. -/
def Runs (s : State) (t : Trig) (x : Ctx) : Prop := s.cur = .trigger t ∧ s.ctx? t.ctx = some x

/-- Stream sid executes, and x holds its registers. -/
def RunsStream (s : State) (sid : Nat) (x : Stream) : Prop := s.cur = .stream sid ∧ s.stream? sid = some x

/-- The instruction answers a next state of which P holds. -/
def Answers (i : Instr) (s : State) (P : State → Prop) : Prop := ∃ t, exec i s = .next t ∧ P t

/-- A context with more exposed results in flight, each as its port, its value and its latency (R77). -/
def withResults (x : Ctx) (t : Trig) (rs : List (Nat × PV × Nat)) : Ctx :=
  { x with flights := x.flights ++ rs.map fun r => { port := r.1, val := r.2.1, due := t.cyc + r.2.2 } }

/-- The instruction gives one exposed result of the given latency to a port, its value obeys P, and nothing else of the whole
machine changes. -/
def Exposes (i : Instr) (s : State) (t : Trig) (x : Ctx) (port latency : Nat) (P : PV → Prop) : Prop :=
  ∃ v, P v ∧ exec i s = .next (s.putCtx t.ctx (withResults x t [(port, v, latency)]))

/-- The same for the two results of vx, each after three cycles. -/
def ExposesPair (i : Instr) (s : State) (t : Trig) (x : Ctx) (P : PV → PV → Prop) : Prop :=
  ∃ v w, P v w ∧ exec i s = .next (s.putCtx t.ctx (withResults x t [(qVx, v, 3), (qVxS, w, 3)]))

/-- A word as an exact integer: unsigned and signed. -/
def zz (w : Word) : Int := w.toNat
def zs (w : Word) : Int := w.toInt

/-- 1 when the condition holds and 0 otherwise. -/
def bit (p : Prop) [Decidable p] : Word := if p then 1 else 0

/-- sext(f, len) of an unsigned field. -/
def sext (f len : Nat) : Int := if f < 2 ^ (len - 1) then f else (f : Int) - 2 ^ len

/-- The node of level k at place j of the reduction tree (Table 3.7). -/
def treeNode (f : Word → Word → Word) (y : Nat → Word) : Nat → Nat → Word
  | 0, j => y j
  | k + 1, j => f (treeNode f y k (2 * j)) (treeNode f y k (2 * j + 1))

/-- The window function of R154, with exact integers. -/
def win (b k : Word) (x : Int) : Word := if zz k = 0 then wrap 32 x else wrap 32 (zz b + (x - zz b) % zz k)

/-- The registers after the end bundle of a loop body has issued a number of times, each time with no redirect pending. -/
def closings (bno : Nat) : Nat → Regs → Regs
  | 0, r => r
  | k + 1, r => (closeFrames bno (closings bno k r).loops (closings bno k r)).2

/-- The state with the registers of one stream replaced. -/
def putStream (s : State) (sid : Nat) (x : Stream) : State := { s with sq := { s.sq with streams := s.sq.streams.put sid x } }

/-- The state in which a stream has gone on to a PC with the registers of x, and nothing else has changed. -/
def goesOn (s : State) (sid : Nat) (x : Stream) (pc : Nat) : State :=
  putStream s sid { x with st := .ready, wait := .none, failed := none, raised := [], bound := none, undo := [], pc := pc }

/-- The state in which a stream waits at its instruction. -/
def waits (s : State) (sid : Nat) (x : Stream) (w : SWait) : State := putStream s sid { x with st := .blocked, wait := w }

/-- Every byte of memory reads the same in both states. -/
def SameMemory (s t : State) : Prop := ∀ a, t.byte a = s.byte a

/-- Every byte of memory outside a list of addresses reads the same in both states. -/
def SameMemoryBut (as : List Nat) (s t : State) : Prop := ∀ a, a ∉ as → t.byte a = s.byte a

/-- The completion window takes a record at once. -/
def WindowOpen (s : State) : Prop := s.hs.cwWait = [] ∧ (s.hs.cwProd - s.hs.cwCons).toNat ≠ 4096

/-- A record is the next of the completion window. -/
def Posts (s a : State) (r : List Byte) : Prop :=
  a.hs.cwProd = s.hs.cwProd + 1 ∧ a.hs.cw.find (s.hs.cwProd.toNat % 4096) = some r ∧ a.hs.cwWait = []

/-- The home's L2 holds the line of a storage address, or has a way free for it (R329). -/
def WayFree (s : State) (a : Nat) : Prop :=
  (s.ms.l2.find (lineOf a)).isSome = true ∨
  ∀ set, set = s.setIn (s.homeStack (storeTensor a)) (lineOf a) → (s.linesIn set).length + (s.replicasIn set).length < 16

/-- The homes of some storage addresses take their lines with no eviction: each line is in the L2, or its set has a way for every line that
is not (R329). -/
def LinesFit (s : State) (as : List Nat) : Prop :=
  ∀ a ∈ as, (s.ms.l2.find (lineOf a)).isSome = true ∨
  ∀ set, set = s.setIn (s.homeStack (storeTensor a)) (lineOf a) →
    (s.linesIn set).length + (s.replicasIn set).length + (as.map lineOf).eraseDups.length ≤ 16

/-- No store on its way is kept from its home: every mesh path works, no request is under retry, nothing that was sent before is still on its
way, and the L2 holds each line (R335, R340, R344). -/
def HomesOpen (s : State) : Prop :=
  s.pkg.deadLinks = [] ∧ s.ms.retries = [] ∧ (∀ o ∈ s.wk.gv, o.sent = none) ∧ (∀ h ∈ s.ms.held, h.sent = none) ∧
  (∀ e ∈ s.ctxs, ∀ g ∈ e.2.gate, g.sent = none) ∧
  ∀ h ∈ s.ms.held, ∀ p ∈ h.bytes, s.isMsa p.1 = true ∨ (s.ms.l2.find (lineOf p.1)).isSome = true

/-- A parameter that an operation may use at once (R126): a live tensor that lies in H, as an input a compressed or a spilled one too, or
the discard handle as an output. -/
def ParamReady (s : State) (p : Word × Bool) : Prop :=
  (p.2 = true ∧ isDiscard p.1 = true) ∨
  (isDiscard p.1 = false ∧ ∃ r, s.live? p.1 = some r ∧
    (r.st = .resH ∨ r.st = .near ∨ (p.2 = false ∧ (r.st = .compH ∨ r.st = .spillL))))

end Sys2Proof.Safety
end

