-- ==== Sys2Proof/Certificates/Slice0/Obligations.lean ====
section
/-! DEFINITION. What is claimed of the machine. Each statement's docstring names the rules of spec/ it rests on. -/
open Sys2Proof Sys2Proof.Machine Sys2Proof.Safety

/-- sa and sb (R148, R149): every operation's result lands in u.q after one cycle, for every operand, and nothing else changes. Each completes
by its own effect: saAdd, saSub, saRsub, saAnd, saOr, saXor, saAndn, saNot, saShl, saShr, saSar, saRotl, saMinS, saMaxS, saMinZ, saMaxZ,
saEq, saNe, saLtS, saLeS, saLtZ, saLeZ, saClz, saCtz, saPopc, saExtS, saExtZ, saIns, saMov, saSel, saBswap, saAbsd. -/
def Obligations.IntegerUnitResults : Prop :=
  ∀ (u : Bool) (s : State) (t : Trig) (x : Ctx), Runs s t x →
  ∀ X Y W : Word, X = x.portW (if u then 2 else 0) → Y = t.y.scalar → W = x.portW (if u then 3 else 1) →
  ∀ m pos len f : Nat, m = Y.toNat % 32 → pos = Y.toNat % 32 → len = Y.toNat / 32 % 32 + 1 → f = X.toNat / 2 ^ pos % 2 ^ len →
  ∀ mask : Word, mask = wrap 32 ((2 ^ len - 1) * 2 ^ pos) →
  ∀ p ∈ [
    (Instr.saAdd u, wrap 32 (zz X + zz Y)), (.saSub u, wrap 32 (zz X - zz Y)), (.saRsub u, wrap 32 (zz Y - zz X)),
    (.saAnd u, X &&& Y), (.saOr u, X ||| Y), (.saXor u, X ^^^ Y), (.saAndn u, X &&& ~~~Y), (.saNot u, ~~~Y),
    (.saShl u, wrap 32 (zz X * 2 ^ m)), (.saShr u, wrap 32 (zz X / 2 ^ m)), (.saSar u, wrap 32 (zs X / 2 ^ m)),
    (.saRotl u, wrap 32 (zz X * 2 ^ m + zz X / 2 ^ (32 - m))),
    (.saMinS u, if zs X ≤ zs Y then X else Y), (.saMaxS u, if zs X ≤ zs Y then Y else X),
    (.saMinZ u, if zz X ≤ zz Y then X else Y), (.saMaxZ u, if zz X ≤ zz Y then Y else X),
    (.saEq u, bit (X = Y)), (.saNe u, bit (X ≠ Y)), (.saLtS u, bit (zs X < zs Y)), (.saLeS u, bit (zs X ≤ zs Y)),
    (.saLtZ u, bit (zz X < zz Y)), (.saLeZ u, bit (zz X ≤ zz Y)),
    (.saClz u, wrap 32 ((List.range 32).takeWhile fun i => !Y.getLsbD (31 - i)).length),
    (.saCtz u, wrap 32 ((List.range 32).takeWhile fun i => !Y.getLsbD i).length),
    (.saPopc u, wrap 32 ((List.range 32).filter fun i => Y.getLsbD i).length),
    (.saExtZ u, wrap 32 f), (.saExtS u, wrap 32 (sext f len)),
    (.saIns u, (X &&& ~~~mask) ||| (wrap 32 (zz W * 2 ^ pos) &&& mask)),
    (.saMov u, Y), (.saSel u, if Y ≠ 0 then X else W),
    (.saBswap u, wrap 32 ((List.range 4).foldl (fun (a : Int) j => a + (Y.toNat / 2 ^ (8 * j) % 256 : Nat) * 2 ^ (8 * (3 - j))) 0)),
    (.saAbsd u, wrap 32 (zs X - zs Y).natAbs)],
  Exposes p.1 s t x (if u then 1 else 0) 1 fun v => v.val = p.2.setWidth 2048

/-- sm multiplies (R150): results after three cycles, the high half of a product by its signedness. sm division (R151): the divider holds
quotient and remainder, which land together 18 cycles after the trigger, both result ports are pending, and no memory, other register or
other context changes. Each completes by its own effect: smMul, smMulhS, smMulhZ, smMad, smDivS, smDivZ, smRemS, smRemZ. -/
def Obligations.MultiplyAndDivisionResults : Prop :=
  (∀ (s : State) (t : Trig) (x : Ctx), Runs s t x →
    ∀ X Y W : Word, X = x.portW oSmO → Y = t.y.scalar → W = x.portW oSmO2 →
    ∀ p ∈ [
      (Instr.smMul, wrap 32 (zz X * zz Y)), (.smMulhS, wrap 32 (zs X * zs Y / 2 ^ 32)), (.smMulhZ, wrap 32 (zz X * zz Y / 2 ^ 32)),
      (.smMad, wrap 32 (zz X * zz Y + zz W))],
    Exposes p.1 s t x qSm 3 fun v => v.val = p.2.setWidth 2048) ∧
  (∀ (s : State) (t : Trig) (x : Ctx), Runs s t x →
    ∀ X Y qs rs qz rz : Word, X = x.portW oSmO → Y = t.y.scalar →
    qs = (if Y = 0 then 0xffffffff#32 else if X = 0x80000000#32 ∧ Y = 0xffffffff#32 then 0x80000000#32
          else wrap 32 ((zs X).tdiv (zs Y))) →
    rs = (if Y = 0 then X else if X = 0x80000000#32 ∧ Y = 0xffffffff#32 then 0 else wrap 32 (zs X - zs qs * zs Y)) →
    qz = (if Y = 0 then 0xffffffff#32 else wrap 32 (zz X / zz Y)) →
    rz = (if Y = 0 then X else wrap 32 (zz X % zz Y)) →
    ∀ p ∈ [(Instr.smDivS, qs, rs), (.smDivZ, qz, rz), (.smRemS, rs, qs), (.smRemZ, rz, qz)],
    Answers p.1 s fun a => ∃ id q qh,
      q.val = p.2.1.setWidth 2048 ∧ qh.val = p.2.2.setWidth 2048 ∧
      (a.core (coreOf t.ctx)).div = some (t.ctx, q, qh, t.cyc + 18, id) ∧
      a.ctx? t.ctx = some { x with r := { x.r with pend := vset (vset x.r.pend qSm (some id)) qSmH (some id) } } ∧
      (∀ c, c ≠ t.ctx → a.ctx? c = s.ctx? c) ∧ SameMemory s a)

/-- sm float operations (R152): one rounding of the exact result, comparisons, and the sign operations, after four cycles. The approximate
functions are those of R55 to R58. The four conversions of sm (R153): by a rounding mode that fmt names they give the rounded value after
four cycles, and with a reserved mode they raise FMT_RESERVED at their bundle. That its value is the format register is the model's choice
(log entry 15). Each completes by its own effect: smFadd, smFsub, smFmul, smFfma, smFmin, smFmax, smFabs, smFneg, smFlt, smFle, smFeq,
smFcvtS32, smFcvtZ32, smIcvtS32, smIcvtZ32, smFrcp, smFrsq, smFexp2, smFlog2. -/
def Obligations.ScalarFloatResults : Prop :=
  (∀ (s : State) (t : Trig) (x : Ctx), Runs s t x →
    ∀ X Y W : Word, X = x.portW oSmO → Y = t.y.scalar → W = x.portW oSmO2 →
    ∀ nan : Bool, nan = (ofF32 Y).isNan →
    ∀ p ∈ [
      (Instr.smFadd, f32 ((ofF32 X).add (ofF32 Y))), (.smFsub, f32 ((ofF32 X).add (ofF32 Y).neg)),
      (.smFmul, f32 ((ofF32 X).mul (ofF32 Y))), (.smFfma, f32 (((ofF32 X).mul (ofF32 Y)).add (ofF32 W))),
      (.smFmin, minF32 X Y), (.smFmax, maxF32 X Y),
      (.smFabs, if nan then nan32 else wrap 32 (zz Y % 2 ^ 31)), (.smFneg, if nan then nan32 else wrap 32 (zz Y + 2 ^ 31)),
      (.smFlt, bit ((ofF32 X).lt (ofF32 Y))), (.smFle, bit ((ofF32 X).lt (ofF32 Y) ∨ (ofF32 X).eq (ofF32 Y))),
      (.smFeq, bit ((ofF32 X).eq (ofF32 Y))),
      (.smFrcp, rcpF32 Y), (.smFrsq, rsqF32 Y), (.smFexp2, exp2F32 Y), (.smFlog2, log2F32 Y)],
    Exposes p.1 s t x qSm 4 fun v => v.val = p.2.setWidth 2048) ∧
  (∀ (s : State) (t : Trig) (x : Ctx), Runs s t x →
    ∀ Y : Word, Y = t.y.scalar →
    (∀ m, Rnd.ofCode (fmtRnd x.r.fmt) = some m →
      ∀ p ∈ [
        (Instr.smFcvtS32, wrap 32 (max (-(2 ^ 31)) (min (2 ^ 31 - 1) ((ofF32 Y).toIntegral m)))),
        (.smFcvtZ32, wrap 32 (max 0 (min (2 ^ 32 - 1) ((ofF32 Y).toIntegral m)))),
        (.smIcvtS32, intToF32 m (zs Y)), (.smIcvtZ32, intToF32 m (zz Y))],
      Exposes p.1 s t x qSm 4 fun v => v.val = p.2.setWidth 2048) ∧
    (Rnd.ofCode (fmtRnd x.r.fmt) = none →
      ∀ i ∈ [Instr.smFcvtS32, .smFcvtZ32, .smIcvtS32, .smIcvtZ32],
      exec i s = .next (s.takeFault t.ctx t.bno
        { cls := 1, code := 0x19, flags := 1, slot := t.slot, subcode := 0, bno := t.bno, value := x.r.fmt.toNat })))

/-- ag0 and ag1 (R154, R155): u.q after one cycle, and the new a of the set that the trigger names. Each completes by its own effect: agGet,
agPinc, agPdec, agPreinc, agAdd, agLea, agIdx. -/
def Obligations.AddressUnitResults : Prop :=
  ∀ (u : Bool) (s : State) (t : Trig) (x : Ctx), Runs s t x →
  ∀ a n b k z : Word, a = t.ag.a.val → n = t.ag.n.val → b = t.ag.b.val → k = t.ag.k.val → z = x.portW (if u then 7 else 6) →
  ∀ j : Nat, j = t.y.scalar.toNat % 16 →
  ∀ p ∈ [
    (Instr.agGet u, a, none), (.agPinc u, a, some (win b k (zz a + zz n))), (.agPdec u, a, some (win b k (zz a - zz n))),
    (.agPreinc u, win b k (zz a + zz n), some (win b k (zz a + zz n))),
    (.agAdd u, win b k (zz a + zs z), some (win b k (zz a + zs z))), (.agLea u, win b k (zz a + zs z), none),
    (.agIdx u, win b k (zz a + zs z * zs n), none)],
  ∃ v poi, v.val = (p.2.1 : Word).setWidth 2048 ∧
    let y := withResults x t [(if u then 5 else 4, v, 1)]
    exec p.1 s = .next (s.putCtx t.ctx
      (match (p.2.2 : Option Word) with
       | none => y
       | some w => { y with r := { y.r with ar := vset y.r.ar j { val := w, poi := poi } } }))

/-- Integer operations of vf (R169, R171): each lane after four cycles. Each completes by its own effect: vfAddS32, vfSubS32, vfMulS32,
vfMinS32, vfMaxS32, vfAnd, vfOr, vfXor, vfShl, vfShr, vfSar, vfSel, vfDot4S8, vfRsumS32, vfScanS32, vfCnt. -/
def Obligations.VectorIntegerResults : Prop :=
  ∀ (s : State) (t : Trig) (x : Ctx), Runs s t x →
  ∀ X Y W : Nat → Word, X = (x.port oVfO).lane → Y = t.y.lane → W = (x.port oVfO2).lane →
  ∀ byte : Word → Nat → Int, (byte = fun a b => sext (a.toNat / 2 ^ (8 * b) % 256) 8) →
  (∀ p ∈ [
    (Instr.vfAddS32, fun j => wrap 32 (zz (X j) + zz (Y j))), (.vfSubS32, fun j => wrap 32 (zz (X j) - zz (Y j))),
    (.vfMulS32, fun j => wrap 32 (zz (X j) * zz (Y j))),
    (.vfMinS32, fun j => if zs (X j) ≤ zs (Y j) then X j else Y j), (.vfMaxS32, fun j => if zs (X j) ≤ zs (Y j) then Y j else X j),
    (.vfAnd, fun j => X j &&& Y j), (.vfOr, fun j => X j ||| Y j), (.vfXor, fun j => X j ^^^ Y j),
    (.vfShl, fun j => wrap 32 (zz (X j) * 2 ^ ((Y j).toNat % 32))), (.vfShr, fun j => wrap 32 (zz (X j) / 2 ^ ((Y j).toNat % 32))),
    (.vfSar, fun j => wrap 32 (zs (X j) / 2 ^ ((Y j).toNat % 32))), (.vfSel, fun j => if Y j ≠ 0 then X j else W j),
    (.vfDot4S8, fun j => wrap 32 (zs (W j) + ((List.range 4).map fun b => byte (X j) b * byte (Y j) b).sum)),
    (.vfScanS32, fun j => wrap 32 ((List.range (j + 1)).map fun i => zz (Y i)).sum)],
    Exposes p.1 s t x qVf 4 fun v => ∀ j, j < 64 → v.lane j = p.2 j) ∧
  (∀ p ∈ [
    (Instr.vfRsumS32, wrap 32 ((List.range 64).map fun i => zz (Y i)).sum),
    (.vfCnt, wrap 32 ((List.range 64).filter fun i => Y i != 0).length)],
    Exposes p.1 s t x qVf 4 fun v => v.lane 0 = p.2 ∧ ∀ j, 0 < j → j < 64 → v.lane j = 0)

/-- Float operations of vf (R169 to R171): lanes of FP32 with FLUSH on inputs and results, elements of BF16 without it, and the two reductions
through the tree. Each completes by its own effect: vfAddF32, vfSubF32, vfMulF32, vfFmaF32, vfFnmaF32, vfMinF32, vfMaxF32, vfAbsF32,
vfLtF32, vfLeF32, vfEqF32, vfAddBf16, vfMulBf16, vfFmaBf16, vfRsumF32, vfRmaxF32. -/
def Obligations.VectorFloatResults : Prop :=
  ∀ (s : State) (t : Trig) (x : Ctx), Runs s t x →
  ∀ fl : Word → Word, fl = flush (fmtFlush x.r.fmt) →
  ∀ X Y W : Nat → Word, (X = fun j => fl ((x.port oVfO).lane j)) → (Y = fun j => fl (t.y.lane j)) →
    (W = fun j => fl ((x.port oVfO2).lane j)) →
  ∀ A B C : Nat → FV, (A = fun e => ofBf16 (elemAt 16 (x.port oVfO).val e)) → (B = fun e => ofBf16 (elemAt 16 t.y.val e)) →
    (C = fun e => ofBf16 (elemAt 16 (x.port oVfO2).val e)) →
  (∀ p ∈ [
    (Instr.vfAddF32, fun j => fl (f32 ((ofF32 (X j)).add (ofF32 (Y j))))), (.vfSubF32, fun j => fl (f32 ((ofF32 (X j)).add (ofF32 (Y j)).neg))),
    (.vfMulF32, fun j => fl (f32 ((ofF32 (X j)).mul (ofF32 (Y j))))),
    (.vfFmaF32, fun j => fl (f32 (((ofF32 (X j)).mul (ofF32 (Y j))).add (ofF32 (W j))))),
    (.vfFnmaF32, fun j => fl (f32 ((ofF32 (W j)).add ((ofF32 (X j)).mul (ofF32 (Y j))).neg))),
    (.vfMinF32, fun j => fl (minF32 (X j) (Y j))), (.vfMaxF32, fun j => fl (maxF32 (X j) (Y j))), (.vfAbsF32, fun j => fl (absF32 (Y j))),
    (.vfLtF32, fun j => bit ((ofF32 (X j)).lt (ofF32 (Y j)))),
    (.vfLeF32, fun j => bit ((ofF32 (X j)).lt (ofF32 (Y j)) ∨ (ofF32 (X j)).eq (ofF32 (Y j)))),
    (.vfEqF32, fun j => bit ((ofF32 (X j)).eq (ofF32 (Y j))))],
    Exposes p.1 s t x qVf 4 fun v => ∀ j, j < 64 → v.lane j = p.2 j) ∧
  (∀ p ∈ [(Instr.vfAddBf16, fun e => (A e).add (B e)), (.vfMulBf16, fun e => (A e).mul (B e)),
          (.vfFmaBf16, fun e => ((A e).mul (B e)).add (C e))],
    Exposes p.1 s t x qVf 4 fun v => ∀ e, e < 128 → elemAt 16 v.val e = toBf16 (p.2 e)) ∧
  (∀ p ∈ [(Instr.vfRsumF32, fun a b => fl (f32 ((ofF32 a).add (ofF32 b)))), (.vfRmaxF32, fun a b => fl (maxF32 a b))],
    Exposes p.1 s t x qVf 4 fun v => v.lane 0 = treeNode p.2 Y 6 0 ∧ ∀ j, 0 < j → j < 64 → v.lane j = 0)

/-- Lane movement, compaction and histogram on vx (R172, R177). MX blocks and approximate functions on vx (R175, R176). Each completes by its
own effect: vxPerm, vxBcast, vxRotl, vxZipLo, vxZipHi, vxUnzipLo, vxUnzipHi, vxExt, vxIns, vxMxq, vxMxdq, vxExp2, vxLog2, vxRcp, vxRsq,
vxTanh, vxCmpk, vxHist. -/
def Obligations.VectorMovementAndFunctions : Prop :=
  (∀ (s : State) (t : Trig) (x : Ctx), Runs s t x →
    ∀ X Y W : Nat → Word, X = (x.port oVxO).lane → Y = t.y.lane → W = (x.port oVxO2).lane →
    ∀ z : Nat → Word, (z = fun i => if i < 64 then X i else Y (i - 64)) →
    ∀ sel : List Nat, sel = (List.range 64).filter (fun j => Y j != 0) →
    (∀ p ∈ [
      (Instr.vxPerm, fun j => let i := (Y j).toNat % 128; if i < 64 then X i else W (i - 64)),
      (.vxBcast, fun _ => X ((Y 0).toNat % 64)), (.vxRotl, fun j => X ((j + (64 - (Y 0).toNat % 64)) % 64)),
      (.vxZipLo, fun j => if j % 2 = 0 then X (j / 2) else Y (j / 2)),
      (.vxZipHi, fun j => if j % 2 = 0 then X (j / 2 + 32) else Y (j / 2 + 32)),
      (.vxUnzipLo, fun j => z (2 * j)), (.vxUnzipHi, fun j => z (2 * j + 1)), (.vxExt, fun _ => X ((Y 0).toNat % 64)),
      (.vxIns, fun j => if j = (W 0).toNat % 64 then Y 0 else X j)],
      ExposesPair p.1 s t x fun v q => (∀ j, j < 64 → v.lane j = p.2 j) ∧ q.val = (p.2 0).setWidth 2048) ∧
    ExposesPair .vxCmpk s t x (fun v q =>
      (∀ j, j < 64 → v.lane j = (match sel[j]? with | some i => X i | none => 0)) ∧ q.val = (wrap 32 sel.length).setWidth 2048) ∧
    ExposesPair .vxHist s t x (fun v q =>
      (∀ b, b < 64 → v.lane b = wrap 32 (zz (X b) + ((List.range 64).filter fun j => (Y j).toNat == b).length)) ∧
      q.val = (wrap 32 ((List.range 64).filter fun j => decide ((Y j).toNat < 64)).length).setWidth 2048)) ∧
  (∀ (s : State) (t : Trig) (x : Ctx), Runs s t x →
    ∀ Y : Nat → Word, Y = t.y.lane → ∀ w : Nat, w = (x.port oVxO2).scalar.toNat →
    ∀ fl : Word → Word, fl = flush (fmtFlush x.r.fmt) →
    (w % 4 < 3 → ∀ q : Nat → Nat × List Nat, (q = fun b => mxQuantise (w % 4 + 3) ((List.range 32).map fun j => ofF32 (Y (32 * b + j)))) →
      ExposesPair .vxMxq s t x (fun v r =>
        (∀ e, e < 64 → elemAt 8 v.val e = (q (e / 32)).2.getD (e % 32) 0) ∧
        v.lane 16 = wrap 32 ((q 0).1 + 256 * (q 1).1) ∧ (∀ j, 17 ≤ j → j < 64 → v.lane j = 0) ∧ r.scalar = v.lane 16) ∧
      ExposesPair .vxMxdq s t x (fun v r =>
        (∀ j, j < 64 → v.lane j = f32 (mxDecode (w % 4 + 3) (elemAt 8 t.y.val (64 + j / 32)) (elemAt 8 t.y.val j))) ∧ r.scalar = v.lane 0)) ∧
    (w % 4 = 3 → ∀ i ∈ [Instr.vxMxq, .vxMxdq], exec i s = .next (s.takeFault t.ctx t.bno
        { cls := 1, code := 0x13, flags := 1, slot := t.slot, subcode := 0, bno := t.bno, value := w })) ∧
    (∀ p ∈ [(Instr.vxExp2, exp2F32), (.vxLog2, log2F32), (.vxRcp, rcpF32), (.vxRsq, rsqF32), (.vxTanh, tanhF32)],
      ExposesPair p.1 s t x fun v q => (∀ j, j < 64 → v.lane j = fl (p.2 (fl (Y j)))) ∧ q.scalar = v.lane 0))

/-- Conversions between FP32 and the narrow formats on vx (R173, R174): widening moves part p exactly, narrowing rounds by fmt and replaces
part p; a reserved rounding mode or integer width raises FMT_RESERVED, and a trapping reserved code INT_RESERVED. That the value of
FMT_RESERVED is the format register is the model's choice (log entry 15). Each completes by its own effect: vxCvtF32Bf16Lo,
vxCvtF32Bf16Hi, vxCvtBf16F32, vxCvtF32E4m3, vxCvtE4m3F32, vxCvtF32E5m2, vxCvtE5m2F32, vxCvtF32L6, vxCvtL6F32, vxCvtF32S8, vxCvtS8F32,
vxCvtF32Int, vxCvtIntF32. -/
def Obligations.VectorConversions : Prop :=
  ∀ (s : State) (t : Trig) (x : Ctx), Runs s t x →
  ∀ Y : Nat → Word, Y = t.y.lane → ∀ p4 p8 : Nat, p4 = (x.port oVxO2).scalar.toNat % 4 → p8 = (x.port oVxO2).scalar.toNat % 8 →
  ∀ fault : Nat → Nat → Nat → State,
    (fault = fun cls code v => s.takeFault t.ctx t.bno
      { cls := cls, code := code, flags := 1, slot := t.slot, subcode := 0, bno := t.bno, value := v }) →
  (∀ p ∈ [
    (Instr.vxCvtF32Bf16Lo, fun j => ofBf16 (elemAt 16 t.y.val j)), (.vxCvtF32Bf16Hi, fun j => ofBf16 (elemAt 16 t.y.val (64 + j))),
    (.vxCvtF32E4m3, fun j => e4m3.decode (elemAt 8 t.y.val (64 * p4 + j))), (.vxCvtF32E5m2, fun j => e5m2.decode (elemAt 8 t.y.val (64 * p4 + j))),
    (.vxCvtF32L6, fun j => lnsDecode (elemAt 8 t.y.val (64 * p4 + j))),
    (.vxCvtF32S8, fun j => FV.ofInt (sext (elemAt 8 t.y.val (64 * p4 + j)) 8))],
    ExposesPair p.1 s t x fun v q => (∀ j, j < 64 → v.lane j = f32 (p.2 j)) ∧ q.scalar = v.lane 0) ∧
  (∀ m, Rnd.ofCode (fmtRnd x.r.fmt) = some m →
    ExposesPair .vxCvtBf16F32 s t x (fun v q =>
      (∀ j, j < 64 → elemAt 16 v.val j = bf16.encode m true (ofF32 (Y j))) ∧
      (∀ j, j < 64 → elemAt 16 v.val (64 + j) = bf16.encode m true (ofF32 ((x.port oVxO).lane j))) ∧ q.scalar = v.lane 0) ∧
    ∀ p ∈ [(Instr.vxCvtE4m3F32, e4m3.encode m true), (.vxCvtE5m2F32, e5m2.encode m true), (.vxCvtL6F32, lnsEncode m),
           (.vxCvtS8F32, fun a => (max (-128) (min 127 (a.toIntegral m)) % 256).toNat)],
      ExposesPair p.1 s t x fun v q =>
        (∀ e, e < 256 → elemAt 8 v.val e = if e / 64 = p4 then p.2 (ofF32 (Y (e % 64))) else elemAt 8 (x.port oVxO).val e) ∧
        q.scalar = v.lane 0) ∧
  (Rnd.ofCode (fmtRnd x.r.fmt) = none →
    ∀ i ∈ [Instr.vxCvtBf16F32, .vxCvtE4m3F32, .vxCvtE5m2F32, .vxCvtL6F32, .vxCvtS8F32],
    exec i s = .next (fault 1 0x19 x.r.fmt.toNat)) ∧
  (∀ w, (w = 8 ∧ fmtIwid x.r.fmt = 0 ∨ w = 4 ∧ fmtIwid x.r.fmt = 1) → ∀ P, P = (if w = 8 then p4 else p8) →
    (∀ k, k < 64 → (∀ j, j < k → (fmtInt x.r.fmt).traps (elemAt w t.y.val (64 * P + j)) = false) →
      (fmtInt x.r.fmt).traps (elemAt w t.y.val (64 * P + k)) = true →
      exec .vxCvtF32Int s = .next (fault 6 0x60 (64 * P + k))) ∧
    ((∀ j, j < 64 → (fmtInt x.r.fmt).traps (elemAt w t.y.val (64 * P + j)) = false) →
      ExposesPair .vxCvtF32Int s t x fun v q =>
        (∀ j, j < 64 → v.lane j = f32 (FV.ofInt ((fmtInt x.r.fmt).decode (elemAt w t.y.val (64 * P + j))))) ∧ q.scalar = v.lane 0) ∧
    (∀ m, Rnd.ofCode (fmtRnd x.r.fmt) = some m →
      ExposesPair .vxCvtIntF32 s t x fun v q =>
        (∀ e, e < 2048 / w → elemAt w v.val e =
          if e / 64 = P then (fmtInt x.r.fmt).encode m (ofF32 (Y (e % 64))) else elemAt w (x.port oVxO).val e) ∧ q.scalar = v.lane 0)) ∧
  (2 ≤ fmtIwid x.r.fmt → ∀ i ∈ [Instr.vxCvtF32Int, .vxCvtIntF32], exec i s = .next (fault 1 0x19 x.r.fmt.toNat)) ∧
  (fmtIwid x.r.fmt < 2 → Rnd.ofCode (fmtRnd x.r.fmt) = none → exec .vxCvtIntF32 s = .next (fault 1 0x19 x.r.fmt.toNat))

/-- Redirects of br (R156 to R158, R160): a target inside the image is taken after the delay bundle, call leaves bno + 2 in br.q and counts
the depth, and any other target, or a redirect in the end bundle of the innermost frame, raises ILL_TRIG. A brk pops its frame at issue,
so that the bundle closes the frame that is then innermost if it ends there (the model's reading, log entry 141). That an ILL_TRIG record
holds y is the model's choice (log entry 15). halt, yield, and the traps of br and sy (R162 to R164, R237): a halted task has no frame and
no redirect left, a yield makes the core switch, and both traps take CORE_TRAP with the code as value and the bundle that would issue next
as resume point. Each completes by its own effect: brJmp, brJma, brCall, brRet, brBrk, brHalt, brYield, brTrap, syTrap. -/
def Obligations.RedirectsHaltYieldTrap : Prop :=
  (∀ (s : State) (t : Trig) (x : Ctx) (k : Kernel), Runs s t x → s.kernelOf t.ctx = some k →
    ∀ inEnd : Bool, inEnd = (match x.r.loops with | [] => false | f :: _ => f.stop == t.bno) →
    ∀ fault : State, fault = s.takeFault t.ctx t.bno
      { cls := 1, code := 0x13, flags := 1, slot := t.slot, subcode := 0, bno := t.bno, value := t.y.scalar.toNat } →
    (∀ p ∈ [
      (Instr.brJmp, (t.bno : Int) + zs t.y.scalar, (0 : BitVec 8), []), (.brJma, zz t.y.scalar, 0, []),
      (.brCall, zz t.y.scalar, 1, [(qBr, PV.ofWord (wrap 32 (t.bno + 2)) false, 1)]), (.brRet, zz t.y.scalar, 255, [])],
      if inEnd = false ∧ 0 ≤ p.2.1 ∧ p.2.1 < k.bundles.length then
        exec p.1 s = .next (s.putCtx t.ctx { withResults x t p.2.2.2 with
          r := { x.r with redirect := some p.2.1.toNat, calld := x.r.calld + p.2.2.1 } })
      else exec p.1 s = .next fault) ∧
    (match x.r.loops with
     | [] => exec .brBrk s = .next fault
     | f :: fs =>
       if f.stop = t.bno then exec .brBrk s = .next fault
       else
         (t.delay = true →
           exec .brBrk s = .next (s.putCtx t.ctx { x with r := { x.r with redirect := some (f.stop + 1), loops := fs } })) ∧
         (t.delay = false → (∀ g ∈ fs.head?, g.stop ≠ t.bno) →
           exec .brBrk s = .next (s.putCtx t.ctx { x with r := { x.r with redirect := some (f.stop + 1), loops := fs, pc := t.bno + 1 } })) ∧
         (t.delay = false → ∀ g gs, fs = g :: gs → g.stop = t.bno → 1 < g.count → g.stages = none →
           exec .brBrk s = .next (s.putCtx t.ctx { x with r := { x.r with
             redirect := some (f.stop + 1), loops := { g with count := g.count - 1, trips := g.trips + 1 } :: gs, pc := g.start } })))) ∧
  (∀ (s : State) (t : Trig) (x : Ctx), Runs s t x →
    Answers .brHalt s (fun a => ∃ y, a = s.putCtx t.ctx y ∧ y.halted = true ∧ y.r.loops = [] ∧ y.r.redirect = none ∧
      y.flights = x.flights ∧ y.r.sr = x.r.sr ∧ y.r.vr = x.r.vr ∧ y.r.res = x.r.res ∧ y.acc = x.acc ∧ y.gate = x.gate) ∧
    exec .brYield s = .next (s.putCore (coreOf t.ctx)
      { s.core (coreOf t.ctx) with bubble := true, switched := true, sinceSwitch := 0 }) ∧
    ∀ i ∈ [Instr.brTrap, .syTrap], exec i s = .next (s.takeFault t.ctx x.r.pc
      { cls := 7, code := 0x70, flags := 0, slot := t.slot, subcode := 0, bno := t.bno, value := t.y.scalar.toNat }))

/-- Loop frames of br (R160, R161): what a legal loop and loops push, that a count of 0 goes on after the body, and that every other form
raises ILL_TRIG. Stage predicates (R161): in trip t of a staged loop of N iterations in S stages, stage k is active exactly when k − 1 ≤ t
< N + k − 1, and the rotation bases have moved once for each trip closed. A counted frame whose end bundle issues (R160): while trips
remain control goes back to its start, and after the last it goes past the end, with no other register changed. Each completes by its own
effect: brLoop, brLoops. -/
def Obligations.CountedAndStagedLoops : Prop :=
  (∀ (s : State) (t : Trig) (x : Ctx) (k : Kernel), Runs s t x → s.kernelOf t.ctx = some k →
    ∀ e n st : Nat, e = (x.portW oBrO).toNat → n = t.y.scalar.toNat → st = (x.portW oBrO2).toNat →
    ∀ ok : Prop, ok = (t.bno < e ∧ e < k.bundles.length ∧ x.r.loops.length < 4 ∧ t.delay = false ∧ ∀ f ∈ x.r.loops, f.stop ≠ t.bno) →
    ∀ fault : State, fault = s.takeFault t.ctx t.bno
      { cls := 1, code := 0x13, flags := 1, slot := t.slot, subcode := 0, bno := t.bno, value := t.y.scalar.toNat } →
    (ok → n = 0 → exec .brLoop s = .next (s.putCtx t.ctx { x with r := { x.r with pc := e + 1 } })) ∧
    (ok → n ≠ 0 → exec .brLoop s = .next (s.putCtx t.ctx { x with r := { x.r with
      loops := { start := t.bno + 1, stop := e, count := n, stages := none, n := n, trips := 1 } :: x.r.loops } })) ∧
    (¬ ok → exec .brLoop s = .next fault) ∧
    (∀ okS : Prop, okS = (ok ∧ 1 ≤ st ∧ st ≤ 7 ∧ ∀ f ∈ x.r.loops, f.stages = none) →
      (okS → n = 0 → exec .brLoops s = .next (s.putCtx t.ctx { x with r := { x.r with pc := e + 1 } })) ∧
      (okS → n ≠ 0 → ∃ pr : BitVec 8, (∀ j, j < 8 → pr.getLsbD j = if j = 1 then true else if 2 ≤ j ∧ j ≤ st then false else x.r.pr.getLsbD j) ∧
        exec .brLoops s = .next (s.putCtx t.ctx { x with r := { x.r with
          loops := { start := t.bno + 1, stop := e, count := n + st - 1, stages := some st, n := n, trips := 1 } :: x.r.loops,
          pr := pr } })) ∧
      (¬ okS → exec .brLoops s = .next fault))) ∧
  (∀ (r : Regs) (n st e start bno : Nat) (fs : List Frame), 1 ≤ st → st ≤ 7 → e = bno →
    ∀ tr : Nat, tr < n + st - 1 → 1 ≤ n →
    ∃ q : Regs, closings bno tr
        { startPreds st r with loops := { start := start, stop := e, count := n + st - 1, stages := some st, n := n, trips := 1 } :: fs } = q ∧
      (∀ k, 1 ≤ k → k ≤ st → (q.pred k = true ↔ k - 1 ≤ tr ∧ tr < n + k - 1)) ∧
      q.rbs = r.rbs + BitVec.ofNat 5 (31 * tr) ∧ q.rbv = r.rbv + BitVec.ofNat 4 (15 * tr) ∧
      q.loops = { start := start, stop := e, count := n + st - 1 - tr, stages := some st, n := n, trips := 1 + tr } :: fs) ∧
  (∀ (r : Regs) (f : Frame) (fs : List Frame) (bno : Nat), f.stop = bno → f.stages = none → r.loops = f :: fs → r.redirect = none →
      (∀ g ∈ fs, g.stop ≠ bno) →
    (1 < f.count → ∀ keep, r.advance bno keep =
      { r with pc := f.start, rep := none, loops := { f with count := f.count - 1, trips := f.trips + 1 } :: fs }) ∧
    (f.count = 1 → ∀ keep, r.advance bno keep = { r with pc := bno + 1, rep := none, loops := fs }))

/-- The format register (R146, R147, R187): a write of sy.fmt, or of its CBANK field by sy.cbsel, is not seen in the three cycles after its
own and is seen from the fourth on; bits 31 to 28 do not change. Flags, class and nothing (R236, R238): sy.fset, sy.fclr and sy.prio
change what their operand names, sy.nop changes nothing, and operand bits stated zero raise ILL_TRIG. Each completes by its own effect:
syFmt, syCbsel, syFset, syFclr, syPrio, syNop. -/
def Obligations.FormatAndFlagWrites : Prop :=
  (∀ (s : State) (t : Trig) (x : Ctx), Runs s t x → (∀ w ∈ x.r.fmtPend, w.due ≤ t.cyc + 4) →
    ∀ p ∈ [(Instr.syFmt, True, 0x0fffffff#32, t.y.scalar),
           (.syCbsel, t.y.scalar.toNat < 4, 0x00300000#32, wrap 32 (zz t.y.scalar % 4 * 2 ^ 20))],
    p.2.1 → Answers p.1 s fun a => ∃ r, a = s.putCtx t.ctx { x with r := r } ∧
      (∀ c, c < t.cyc + 4 → (r.landFmt c).fmt = (x.r.landFmt c).fmt) ∧
      (r.landFmt (t.cyc + 4)).fmt = ((x.r.landFmt (t.cyc + 4)).fmt &&& ~~~p.2.2.1) ||| (p.2.2.2 &&& p.2.2.1)) ∧
  (∀ (s : State) (t : Trig) (x : Ctx), Runs s t x →
    ∀ m : Nat, m = t.y.scalar.toNat →
    ∀ fault : State, fault = s.takeFault t.ctx t.bno
      { cls := 1, code := 0x13, flags := 1, slot := t.slot, subcode := 0, bno := t.bno, value := m } →
    (m < 256 → exec .syFset s = .next (s.putCtx t.ctx { x with r := { x.r with flags := x.r.flags ||| BitVec.ofNat 8 m } })) ∧
    (m < 256 → exec .syFclr s = .next (s.putCtx t.ctx { x with r := { x.r with flags := x.r.flags &&& ~~~(BitVec.ofNat 8 m) } })) ∧
    (256 ≤ m → ∀ i ∈ [Instr.syFset, .syFclr], exec i s = .next fault) ∧
    (m < 2 → exec .syPrio s = .next (s.putCtx t.ctx { x with prio := m == 1 })) ∧
    (2 ≤ m → exec .syPrio s = .next fault) ∧
    exec .syNop s = .next s ∧
    (4 ≤ m → exec .syCbsel s = .next fault))

/-- sy.sig and sy.dbg (R236, R355, R356, R370): with room in the window the signal record is written at the producer's entry with the stream,
bundle, barge, code and its number, which sy.q receives; a trace entry goes to the next of the core's 64 places when the die traces, and
otherwise nothing happens. The guest queue (R239, R240): a legal push enters the queue and clears its flag, a guest that is absent or
fenced makes it raise GUEST, and the two queries answer at once. The value of a GUEST record, the reset value of the sequence counter and
what gq.space counts are the model's choice or reading (log entries 15, 31, 32). Each completes by its own effect: sySig, syDbg, gqPush,
gqSpace, gqPoll. -/
def Obligations.SignalsTraceAndGuestQueue : Prop :=
  (∀ (s : State) (t : Trig) (x : Ctx), Runs s t x →
    (t.y.scalar.toNat < 2 ^ 16 → s.hs.cwWait = [] → (s.hs.cwProd - s.hs.cwCons).toNat ≠ 4096 →
      Answers .sySig s fun a => a.hs.cwProd = s.hs.cwProd + 1 ∧ SameMemory s a ∧
        (∃ y, a.ctx? t.ctx = some y ∧ vget y.r.res qSy PV.zero = PV.ofWord s.hs.cwProd false ∧ y.r.sr = x.r.sr ∧ y.r.vr = x.r.vr) ∧
        ∃ r, a.hs.cw.find (s.hs.cwProd.toNat % 4096) = some r ∧ r.length = 32 ∧ leNat (r.take 4) = 0x21 ∧
          leNat ((r.drop 4).take 4) = s.sidOf t.ctx % 2 ^ 32 ∧ leNat ((r.drop 8).take 4) = t.bno % 2 ^ 32 ∧
          leNat ((r.drop 20).take 4) = t.y.scalar.toNat ∧ leNat ((r.drop 24).take 8) = s.hs.cwProd.toNat) ∧
    (2 ^ 16 ≤ t.y.scalar.toNat → exec .sySig s = .next (s.takeFault t.ctx t.bno
      { cls := 1, code := 0x13, flags := 1, slot := t.slot, subcode := 0, bno := t.bno, value := t.y.scalar.toNat })) ∧
    ((s.die (s.dieOf t.ctx)).trcEn = true → ∀ k, k = s.core (coreOf t.ctx) →
      exec .syDbg s = .next (s.putCore (coreOf t.ctx) { k with
        trace := k.trace.put (k.traceCnt % 64) { bno := wrap 32 t.bno, cyc := wrap 32 t.cyc, y := t.y.scalar, hctx := t.ctx % 4 },
        traceCnt := (k.traceCnt + 1) % 2 ^ 32 })) ∧
    ((s.die (s.dieOf t.ctx)).trcEn = false → exec .syDbg s = .next s)) ∧
  (∀ (s : State) (t : Trig) (x : Ctx), Runs s t x →
    ∀ y o : Word, y = t.y.scalar → o = x.portW oGqO →
    ∀ usable : Bool, usable = (s.hs.guest.st == .present || s.hs.guest.st == .preempted) →
    ∀ legal : Prop, legal = (y.toNat % 32 = 0 ∧ y.toNat / 2 ^ 22 ≤ 47 ∧ y.toNat % 2 ^ 22 + 64 ≤ 2 ^ 22 ∧ o.toNat < 2 ^ 31 ∧
      o.toNat % 2 ^ 28 % 32 = 0 ∧ o.toNat % 2 ^ 28 / 2 ^ 22 ≤ 47) →
    (legal → usable = true → Answers .gqPush s fun a => ∃ g, a.wk.guestCmds = s.wk.guestCmds ++ [g] ∧ g.isStream = false ∧ g.addr = y.toNat ∧
      g.comp.toNat = o.toNat % 2 ^ 28 ∧ g.flag = o.toNat / 2 ^ 28 ∧ g.accepted = false ∧ g.done = none ∧ SameMemory s a ∧
      ∃ z, a.ctx? t.ctx = some z ∧ z.r.flags.getLsbD (o.toNat / 2 ^ 28) = false ∧ z.r.sr = x.r.sr ∧ z.r.vr = x.r.vr ∧
        vget z.r.pend qGq none = some g.id) ∧
    (legal → usable = false → exec .gqPush s = .next (s.takeFault t.ctx t.bno
      { cls := 12, code := 0xc0, flags := 1, slot := t.slot, subcode := 0, bno := t.bno, value := s.hs.guest.st.code })) ∧
    (∀ p ∈ [(Instr.gqSpace, if usable then wrap 32 (16 - s.gqUsed (coreOf t.ctx) : Nat) else 0xffffffff#32),
            (.gqPoll, bit (s.seqArrived y = true))],
      Answers p.1 s fun a => SameMemory s a ∧ a.wk = s.wk ∧
        ∃ z, a.ctx? t.ctx = some z ∧ vget z.r.res qGq PV.zero = PV.ofWord p.2 false ∧ z.r.sr = x.r.sr ∧ z.r.vr = x.r.vr))

/-- Codebook reads and writes (R180, R183 to R187): vx.cbx expands a slice through the active bank that its barge owns, a cbwr replaces one
half and the valid bit of an entry four cycles on and advances the generation, and a cbld makes the bank busy and clears its flag. Each
completes by its own effect: vxCbx, syCbld, syCbwr. -/
def Obligations.CodebookEffects : Prop :=
  ∀ (s : State) (t : Trig) (x : Ctx) (k : Kernel), Runs s t x → s.kernelOf t.ctx = some k →
  ∀ core : Nat, core = coreOf t.ctx →
  (∀ b mode w j m bank : Nat, bank = fmtCbank x.r.fmt → mode = fmtCbmode x.r.fmt → w = fmtCbw x.r.fmt →
    b = cbOutBits mode → m = 2048 / b → j = (x.port oVxO2).scalar.toNat % 16 → j < 2048 / w / m →
    k.cbmask / 2 ^ bank % 2 = 1 → (s.bank core bank).owner = some x.barge →
    ∀ idx : Nat → Nat, (idx = fun i => elemAt w t.y.val (j * m + i)) →
    ((∀ i, i < m → (s.bank core bank).valid.getLsbD (idx i) = true ∨ fmtIzero x.r.fmt = true) →
      ExposesPair .vxCbx s t x fun v q => q.scalar = v.lane 0 ∧ ∀ i, i < m → elemAt b v.val i =
        if (s.bank core bank).valid.getLsbD (idx i) then ((s.bank core bank).entry (idx i)).toNat % 2 ^ b else 0) ∧
    (∀ i, i < m → fmtIzero x.r.fmt = false → (s.bank core bank).valid.getLsbD (idx i) = false →
      (∀ h, h < i → (s.bank core bank).valid.getLsbD (idx h) = true) →
      exec .vxCbx s = .next (s.takeFault t.ctx t.bno
        { cls := 4, code := 0x40, flags := 1, slot := t.slot, subcode := 0, bno := t.bno, value := idx i + 256 * bank }))) ∧
  (∀ y d : Word, y = t.y.scalar → d = x.portW oSyO → ∀ bank : Nat, bank = y.toNat / 2 ^ 8 % 4 →
    y.toNat < 2 ^ 12 → k.cbmask / 2 ^ bank % 2 = 1 →
    Answers .syCbwr s fun a => SameMemory s a ∧ (∀ c, a.ctx? c = s.ctx? c) ∧
      ∃ e, a.bank core bank = { s.bank core bank with
          writes := (s.bank core bank).writes ++ [{ due := t.cyc + 4, index := y.toNat % 256, entry := e, valid := y.getLsbD 11 }],
          gen := (s.bank core bank).gen + 1, owner := some x.barge } ∧
        ∀ old, old = (s.bank core bank).settled.entry (y.toNat % 256) →
          e = if y.getLsbD 10 then d ++ old.extractLsb' 0 32 else old.extractLsb' 32 32 ++ d) ∧
  (∀ y : Word, y = t.y.scalar → ∀ bank n : Nat, bank = y.toNat % 4 → n = y.toNat / 2 ^ 5 % 2 ^ 9 →
    y.toNat < 2 ^ 14 → 1 ≤ n → n ≤ 256 → (x.portW oSyO).toNat % 32 = 0 → (x.portW oSyO).toNat / 2 ^ 22 ≤ 47 →
    (x.portW oSyO).toNat % 2 ^ 22 + 8 * n ≤ 2 ^ 22 → k.cbmask / 2 ^ bank % 2 = 1 →
    Answers .syCbld s fun a => SameMemory s a ∧ ∃ l, a.wk.cbLoads = s.wk.cbLoads ++ [l] ∧ l.bank = bank ∧ l.count = n ∧
      l.addr = x.portW oSyO ∧ l.flag = y.toNat / 4 % 8 ∧ (a.bank core bank).busy = some l.id ∧
      (a.bank core bank).owner = some x.barge ∧
      ∃ z, a.ctx? t.ctx = some z ∧ z.r.flags.getLsbD l.flag = false ∧ z.r.sr = x.r.sr ∧ z.r.vr = x.r.vr)

/-- What a core's clock brings to its banks and contexts (R77, R147, R151, R184, R186, R189): due results and format writes land on the four
contexts, due entry writes become visible, a load reads its source once the earlier stores to it are performed and then makes exactly its
entries valid, the others keeping their bits, and sets its flag, and a take gives the bank to the requester. Each completes by its own
effect: rotationCountExpiry, contextAged, exposedResultLand, fmtWriteEffect, cbwrVisible, codebookTake, smDivisionResult, cbldComplete. -/
def Obligations.CoreClockEvents : Prop :=
  ∀ (s : State) (core : Nat),
  (Answers (.exposedResultLand core) s fun a => SameMemory s a ∧
    ∀ h, h < 4 → ∀ x, s.ctx? (4 * core + h) = some x → ∃ y, a.ctx? (4 * core + h) = some y ∧
      y.flights = x.flights.filter (fun f => decide ((s.core core).cyc < f.due)) ∧ y.r = landFlights (s.core core).cyc x.flights x.r) ∧
  (Answers (.fmtWriteEffect core) s fun a => SameMemory s a ∧
    ∀ h, h < 4 → ∀ x, s.ctx? (4 * core + h) = some x → a.ctx? (4 * core + h) = some { x with r := x.r.landFmt (s.core core).cyc }) ∧
  (∀ c q qh due id, (s.core core).div = some (c, q, qh, due, id) → due ≤ (s.core core).cyc →
    Answers (.smDivisionResult core) s fun a => (a.core core).div = none ∧ SameMemory s a ∧
      ∀ x, s.ctx? c = some x → vget x.r.pend qSm none = some id → vget x.r.pend qSmH none = some id →
        ∃ y, a.ctx? c = some y ∧ vget y.r.res qSm PV.zero = q ∧ vget y.r.res qSmH PV.zero = qh ∧
          vget y.r.pend qSm none = none ∧ vget y.r.pend qSmH none = none ∧ y.r.sr = x.r.sr) ∧
  ((s.core core).switched = false → 512 ≤ (s.core core).sinceSwitch →
    Answers (.rotationCountExpiry core) s fun a => (a.core core).switched = true ∧ (a.core core).bubble = true ∧ SameMemory s a ∧
      ∀ c, a.ctx? c = s.ctx? c) ∧
  (s.agedDue core = true → Answers (.contextAged core) s fun a => (a.core core).switched = true ∧ (a.core core).bubble = true ∧
    SameMemory s a ∧ ∀ c, a.ctx? c = s.ctx? c) ∧
  (Answers (.cbwrVisible core) s fun a => SameMemory s a ∧ (∀ c, a.ctx? c = s.ctx? c) ∧
    ∀ b, b < 4 → a.bank core b = (s.bank core b).landed (s.core core).cyc) ∧
  (∀ l x, s.wk.cbLoads.find? (fun e => e.id == l.id) = some l → s.ctx? l.ctx = some x → l.source = none →
    s.storesOverTo l.ctx x l.id (s.physList l.ctx l.addr.toNat (8 * l.count)) = true →
    Answers (.cbldComplete l.id) s fun a => SameMemory s a ∧ (∀ c, a.ctx? c = s.ctx? c) ∧
      a.wk.cbLoads.find? (fun e => e.id == l.id) = some { l with source := some (s.cbSource l.ctx l.addr.toNat l.count) }) ∧
  (∀ l es, s.wk.cbLoads.find? (fun e => e.id == l.id) = some l → (s.ctx? l.ctx).isSome = true → l.source = some es →
    l.bank < 4 → l.count ≤ 256 → l.flag < 8 →
    Answers (.cbldComplete l.id) s fun a => SameMemory s a ∧ (a.bank l.core l.bank).busy = none ∧
      (a.bank l.core l.bank).gen = (s.bank l.core l.bank).gen + 1 ∧
      (∀ i, i < 256 → ((a.bank l.core l.bank).valid.getLsbD i = true ↔ i < l.count)) ∧
      (∀ i, l.count ≤ i → i < 256 → (a.bank l.core l.bank).entry i = (s.bank l.core l.bank).settled.entry i) ∧
      (∀ x, s.ctx? l.ctx = some x → ∃ y, a.ctx? l.ctx = some y ∧ y.r.flags.getLsbD l.flag = true ∧ y.r.sr = x.r.sr) ∧
      ∀ e ∈ a.wk.cbLoads, e.id ≠ l.id) ∧
  (∀ c bank ld x, (s.core core).take = some (c, bank, ld) → bank < 4 → s.ctx? c = some x →
    Answers (.codebookTake core) s fun a => (a.core core).take = none ∧ (a.bank core bank).owner = some x.barge ∧
      (a.bank core bank).saved = (s.bank core bank).settled.gen ∧ SameMemory s a)

/-- Register arithmetic of streams (R88, R115): the 64-bit result goes to rd, a write to g0 is discarded, the PC advances, and nothing else
changes, inside a bracket or outside. Stream control (R116, R137): a branch taken goes to PC + 1 plus its offset, call leaves the return
PC in rd, ret goes where rs1 says, a target outside the code is SQ_PC with no register written, and in a bracket none of them may stand.
Each completes by its own effect: li, addi, add, sub, mul, sll, srl, b, beq, bne, blt, call, ret. -/
def Obligations.StreamArithmeticAndControl : Prop :=
  (∀ (s : State) (sid : Nat) (x : Stream), RunsStream s sid x →
    ∀ (a b c : BitVec 5) (imm : BitVec 32) (G : BitVec 5 → DWord), (G = fun i => if i = 0 then 0 else vget x.g i.toNat 0) →
    ∀ B C : Int, B = (G b).toNat → C = (G c).toNat →
    ∀ p ∈ [
      (Instr.li a imm, wrap 64 imm.toInt), (.addi a b imm, wrap 64 (B + imm.toInt)), (.add a b c, wrap 64 (B + C)),
      (.sub a b c, wrap 64 (B - C)), (.mul a b c, wrap 64 (B * C)), (.sll a b c, wrap 64 (B * 2 ^ ((G c).toNat % 64))),
      (.srl a b c, wrap 64 (B / 2 ^ ((G c).toNat % 64)))],
    exec p.1 s = .next (goesOn s sid { x with g := if a = 0 then x.g else vset x.g a.toNat p.2 } (x.pc + 1))) ∧
  (∀ (s : State) (sid : Nat) (x : Stream), RunsStream s sid x →
    ∀ (a b : BitVec 5) (imm : BitVec 32) (G : BitVec 5 → DWord), (G = fun i => if i = 0 then 0 else vget x.g i.toNat 0) →
    ∀ rel : Int, rel = x.pc + 1 + imm.toInt →
    ∀ p ∈ [
      (Instr.b imm, true, rel, x.g, 0x10), (.beq a b imm, G a == G b, rel, x.g, 0x11), (.bne a b imm, G a != G b, rel, x.g, 0x12),
      (.blt a b imm, decide ((G a).toInt < (G b).toInt), rel, x.g, 0x13),
      (.call a imm, true, rel, if a = 0 then x.g else vset x.g a.toNat (wrap 64 (x.pc + 1)), 0x14),
      (.ret a, true, ((G a).toNat : Int), x.g, 0x15)],
    (x.bracket = none → p.2.1 = true → 0 ≤ p.2.2.1 → p.2.2.1 < x.image.words.length →
      exec p.1 s = .next (goesOn s sid { x with g := p.2.2.2.1 } p.2.2.1.toNat)) ∧
    (x.bracket = none → p.2.1 = true → ¬ (0 ≤ p.2.2.1 ∧ p.2.2.1 < x.image.words.length) →
      exec p.1 s = .next (s.sqFault sid 2 0x21 0 (wrap 64 p.2.2.1).toNat)) ∧
    (x.bracket = none → p.2.1 = false → exec p.1 s = .next (goesOn s sid x (x.pc + 1))) ∧
    (x.bracket ≠ none → exec p.1 s = .next (s.sqFault sid 2 0x22 0 p.2.2.2.2)))

/-- Counters, waits, ends and nothing (R139 to R143): depset writes a counter, depw and the two order instructions go on when there is nothing
to wait for and else block (which operations count at the scope di is the model's choice: log entry 107, and entry 62 for gop), a halt
with nothing running posts the completion record and is DONE, a trap stops the stream in FAULTED at its PC and posts SQ_TRAP with its
code, and nop does nothing. Each completes by its own effect: depw, depset, phase, fence, halt, trap, nop. -/
def Obligations.StreamOrderAndEnds : Prop :=
  ∀ (s : State) (sid : Nat) (x : Stream), RunsStream s sid x →
  exec .nop s = .next (goesOn s sid x (x.pc + 1)) ∧
  (x.bracket = none →
    (∀ (a : BitVec 5) (c : BitVec 6), c ≠ 0 → exec (.depset a c) s = .next (goesOn s sid
      { x with ctrs := vset x.ctrs c.toNat (wrap 32 (if a = 0 then 0 else vget x.g a.toNat 0).toNat) } (x.pc + 1))) ∧
    (∀ c : BitVec 6, c ≠ 0 → vget x.ctrs c.toNat 0 = 0 → exec (.depw c) s = .next (goesOn s sid x (x.pc + 1))) ∧
    (∀ c : BitVec 6, c ≠ 0 → vget x.ctrs c.toNat 0 ≠ 0 → exec (.depw c) s = .next (waits s sid x (.depw c.toNat))) ∧
    (∀ scope : BitVec 3, 3 ≤ scope.toNat → scope.toNat ≤ 5 → ∀ i ∈ [Instr.phase scope, .fence scope],
      (s.outstandingAt sid scope.toNat = false → exec i s = .next (goesOn s sid x (x.pc + 1))) ∧
      (s.outstandingAt sid scope.toNat = true → exec i s = .next (waits s sid x (.ops scope.toNat)))) ∧
    (WindowOpen s → s.running sid = [] → Answers .halt s fun a => SameMemory s a ∧
      (∃ y, a.stream? sid = some y ∧ y.st = .done ∧ y.pc = x.pc ∧ y.g = x.g ∧ y.t = x.t ∧ y.ctrs = x.ctrs) ∧
      ∃ r, Posts s a r ∧ r.length = 32 ∧ leNat (r.take 4) = 0x20 ∧ leNat ((r.drop 4).take 4) = sid % 2 ^ 32 ∧
        leNat ((r.drop 8).take 4) = x.pc % 2 ^ 32 ∧ leNat ((r.drop 16).take 8) = x.ordinal % 2 ^ 64) ∧
    (s.running sid ≠ [] → exec .halt s = .next (putStream s sid { x with st := .halted, wait := .none, haltPc := x.pc })) ∧
    (∀ code : BitVec 32, WindowOpen s → x.raised = [] → x.undo = [] → Answers (.trap code) s fun a => SameMemory s a ∧
      (∃ y, a.stream? sid = some y ∧ y.st = .faulted ∧ y.pc = x.pc ∧ y.g = x.g ∧ y.t = x.t ∧ y.ctrs = x.ctrs) ∧
      ∃ r, Posts s a r ∧ r.length = 32 ∧ leNat (r.take 1) = 7 ∧ leNat ((r.drop 2).take 2) = 0x71 ∧
        leNat ((r.drop 4).take 1) = sid % 2 ^ 8 ∧ leNat ((r.drop 8).take 4) = x.pc % 2 ^ 32 ∧
        leNat ((r.drop 24).take 8) = code.toNat))

/-- tdef (R118): on a mapped home with room at once, a new live record with the descriptor's shape is in RES_H on that die, rd's handle names
it, and no record that was live before has changed. Tensor instructions on a live record (R117 to R123, R286): tfree makes the handle
stale, tunpin and thint change one field, tuse attaches a list of the image, tpin counts one more pin of a tensor in H and leaves its busy
count, tstat reads the record, and a stale handle is HANDLE_STALE. Each completes by its own effect: tdef, tfree, tpin, tunpin, tuse,
thint, tstat. -/
def Obligations.TensorLife : Prop :=
  (∀ (s : State) (sid : Nat) (x : Stream), RunsStream s sid x → x.bracket = none → x.failed = none →
    ∀ (a : BitVec 5) (imm : BitVec 32) (d : Desc), x.image.descs[imm.toNat]? = some d →
    ∀ v, s.homeOf sid d = some v → v < 8 → s.mapped v = true → d.bytes ≤ 2 ^ 45 → s.freeIndex v (2 ^ 20) 0 < 0xfffff →
      (s.askH v (ceilDiv d.bytes pageBytes + (d.newRec (ceilDiv d.bytes pageBytes) 0).versionPages) (.stream sid) none none).1 = none →
      (∀ r i, s.rec? (v * 2 ^ 20 + i) = some r → 1 ≤ r.gen ∧ r.gen ≤ 511) →
    Answers (.tdef a imm) s fun u => ∃ t h r, u.rec? t = some r ∧ s.freeIndex v (2 ^ 20) 0 = t % 2 ^ 20 ∧ t / 2 ^ 20 = v ∧
      h = makeHandle t r.gen ∧ u.live? h = some r ∧
      r.d0 = d.d0 ∧ r.d1 = d.d1 ∧ r.d2 = d.d2 ∧ r.d3 = d.d3 ∧ r.fmt = d.fmt ∧ r.linear = d.linear ∧ r.pad = d.pad ∧ r.st = .resH ∧
      r.live = true ∧ r.pin = 0 ∧ r.busy = 0 ∧ r.recipe = none ∧ r.pages = ceilDiv d.bytes pageBytes ∧
      (∀ k q, k ≠ t → s.rec? k = some q → u.rec? k = some q) ∧
      ∃ y, u.stream? sid = some y ∧ y.pc = x.pc + 1 ∧ y.g = x.g ∧ y.t = vset x.t a.toNat h) ∧
  (∀ (s : State) (sid : Nat) (x : Stream), RunsStream s sid x → x.bracket = none →
    ∀ (a b : BitVec 5) (h : Word) (t : Nat), h = vget x.t a.toNat 0 → t = handleKey h →
    (s.live? h = none →
      (∀ i ∈ [Instr.tfree a, .tpin a, .tunpin a, .thint a 0, .tuse a 0, .tstat b a 0], exec i s = .next (s.sqFault sid 9 0x92 0 h.toNat))) ∧
    (∀ r, s.live? h = some r →
      (Answers (.tfree a) s fun u => u.live? h = none ∧ (∃ y, u.stream? sid = some y ∧ y.pc = x.pc + 1 ∧ y.st = .ready ∧ y.g = x.g ∧ y.t = x.t)) ∧
      (r.pin ≠ 0 → exec (.tunpin a) s = .next (goesOn (s.modRec t fun q => { q with pin := q.pin - 1 }) sid x (x.pc + 1))) ∧
      (∀ k : BitVec 4, k.toNat ≤ 5 →
        exec (.thint a k) s = .next (goesOn (s.modRec t fun q => { q with hint := k.toNat }) sid x (x.pc + 1))) ∧
      (∀ (ls : List (List Nat)) (imm : BitVec 32), x.image.uses = some ls → imm.toNat < ls.length →
        Answers (.tuse a imm) s fun u => SameMemory s u ∧ (∃ y, u.stream? sid = some y ∧ y.pc = x.pc + 1 ∧ y.g = x.g) ∧
          ∃ q pos, u.rec? t = some { r with use := some { sid := sid, list := imm.toNat, pos := pos }, nextUse := q } ∧
            q = (ls.getD imm.toNat [])[pos]? ∧ (∀ o, q = some o → x.ordinal ≤ o) ∧
            ∀ k, k < pos → ∀ o, (ls.getD imm.toNat [])[k]? = some o → o < x.ordinal) ∧
      (r.pin < 65535 → x.failed = none → x.raised = [] → isDiscard h = false → (r.st = .resH ∨ r.st = .near) →
        Answers (.tpin a) s fun u => SameMemory s u ∧ u.rec? t = some { r with pin := r.pin + 1 } ∧
          (∃ y, u.stream? sid = some y ∧ y.pc = x.pc + 1 ∧ y.st = .ready ∧ y.g = x.g ∧ y.t = x.t)) ∧
      (∀ p ∈ [((0 : BitVec 4), r.stateCode), (1, r.sizeBytes), (2, handleHome h), (3, r.nextUse.getD (2 ^ 64 - 1)), (4, r.pin),
              (5, r.busy), (6, if s.validRecipe r then 1 else 0)],
        exec (.tstat b a p.1) s = .next (goesOn s sid { x with g := if b = 0 then x.g else vset x.g b.toNat (wrap 64 p.2) } (x.pc + 1)))) ∧
    exec (.tstat b a 7) s = .next (goesOn s sid { x with g := if b = 0 then x.g else vset x.g b.toNat (wrap 64 x.ordinal) } (x.pc + 1)))

/-- Recipe brackets (R137, R295): rcpb opens one at its own PC with a copy of the registers in the lowest free frame, or with no frame when
the pool is empty, rcpe closes it and fixes the length of the recipes it holds, and an rcpe with none open is SQ_RECIPE. Each completes by
its own effect: rcpb, rcpe. -/
def Obligations.RecipeBrackets : Prop :=
  ∀ (s : State) (sid : Nat) (x : Stream), RunsStream s sid x →
  (x.bracket = none → ∀ k, freeFrame x.frames = some k →
    Answers .rcpb s fun a => SameMemory s a ∧ a.sq.recs = s.sq.recs ∧ ∃ y b, a.stream? sid = some y ∧ y.bracket = some b ∧
      b.startPc = x.pc ∧ b.frame = some k ∧ b.inputs = [] ∧ y.pc = x.pc + 1 ∧ y.g = x.g ∧ y.t = x.t ∧
      ∃ f, y.frames.find k = some f ∧ f.g = x.g ∧ f.t = x.t) ∧
  (x.bracket = none → (∀ k, k < 4096 → (x.frames.find k).isSome = true) →
    Answers .rcpb s fun a => SameMemory s a ∧ a.sq.recs = s.sq.recs ∧ ∃ y b, a.stream? sid = some y ∧ y.bracket = some b ∧
      b.startPc = x.pc ∧ b.frame = none ∧ b.inputs = [] ∧ y.frames = x.frames ∧ y.pc = x.pc + 1 ∧ y.g = x.g ∧ y.t = x.t) ∧
  (x.bracket ≠ none → exec .rcpb s = .next (s.sqFault sid 2 0x22 0 0x38)) ∧
  (x.bracket = none → exec .rcpe s = .next (s.sqFault sid 2 0x22 0 0x39)) ∧
  (∀ b, x.bracket = some b → b.inputs.eraseDups.length ≤ 16 → (∀ o ∈ s.sq.ops, o.bracket ≠ some b.id) →
    Answers .rcpe s fun a => SameMemory s a ∧
      (∀ t r q, s.rec? t = some r → r.recipe = some q → q.bracket = b.id →
        a.rec? t = some { r with recipe := some { q with len := x.pc + 1 - b.startPc } }) ∧
      (∀ t r, s.rec? t = some r → (∀ q, r.recipe = some q → q.bracket ≠ b.id) → a.rec? t = some r) ∧
      ∃ y, a.stream? sid = some y ∧ y.bracket = none ∧ y.pc = x.pc + 1 ∧ y.g = x.g ∧ y.t = x.t)

/-- The launching instructions (R112, R126, R128, R130 to R137, R295): with ready parameters and room in the launch queue, each appends one
operation of its own kind, with its parameters, counter and ordinal, and the stream goes on with its ordinal advanced; inside a bracket
opr and xform do so too, the bracket notes their inputs and outputs and the outputs receive its recipe, and the others are SQ_RECIPE; an
input in DROP with a valid recipe makes the stream wait for a replay of it. Each completes by its own effect: replay, opr, xform, route,
a2av, gop, coll. -/
def Obligations.LaunchDispatches : Prop :=
  ∀ (s : State) (sid : Nat) (x : Stream), RunsStream s sid x → x.failed = none → x.raised = [] →
  ∀ launches : Instr → Bool → OpKind → List (Word × Bool) → BitVec 6 → Prop,
  (launches = fun i inside kind ps ctr => (x.bracket = none ∨ inside = true) →
    ((∀ p ∈ ps, ParamReady s p) → s.queuedOn (sid / 16) < 64 →
      Answers i s fun a =>
        (∃ o ∈ a.sq.ops, (∀ q ∈ s.sq.ops, q ∈ a.sq.ops) ∧ a.sq.ops.length = s.sq.ops.length + 1 ∧ o.kind = kind ∧ o.params = ps ∧
          o.sid = sid ∧ o.die = sid / 16 ∧ o.ctr = ctr.toNat ∧ o.ordinal = x.ordinal ∧ o.pc = x.pc ∧ o.queued = true ∧ o.started = false ∧
          o.done = false ∧ o.bracket = x.bracket.bind fun b => b.frame.map fun _ => b.id) ∧
        (∃ y, a.stream? sid = some y ∧ y.pc = x.pc + 1 ∧ y.st = .ready ∧ y.ordinal = (x.ordinal + 1) % 2 ^ 64 ∧ y.g = x.g ∧ y.t = x.t ∧
          y.bracket = x.bracket.map fun b => { b with
            inputs := b.inputs ++ ((ps.filter fun p => !p.2).map Prod.fst).filter fun h => !b.written.contains h,
            written := b.written ++ (ps.filter fun p => p.2).map Prod.fst }) ∧
        ∀ b f h r, x.bracket = some b → b.frame = some f → (h, true) ∈ ps → isDiscard h = false →
          (∀ p ∈ ps, handleKey p.1 = handleKey h → p.2 = true) → a.rec? (handleKey h) = some r →
          r.recipe = some { sid := sid, start := b.startPc, len := 0, frame := f, bracket := b.id } ∧ r.est = 0xffffffff) ∧
    (∀ t r, (∀ p ∈ ps, s.paramOk p = true) → (∀ k ∈ keysOf ps, s.onTheMove k = false) → x.bound = none →
      (keysOf (ps.filter fun p => !p.2)).find? (fun k => s.stateOf k == .drop) = some t → s.rec? t = some r → s.validRecipe r = true →
      1 ≤ (s.die (sid / 16)).depth →
      Answers i s fun a => a.sq.ops = s.sq.ops ∧ ∃ y n, a.stream? sid = some y ∧ y.st = .blocked ∧ y.wait = .replay n ∧ y.pc = x.pc ∧
        y.g = x.g ∧ y.t = x.t ∧ y.ordinal = x.ordinal ∧ ∃ q ∈ a.sq.replays, q.id = n ∧ q.tensor = t ∧ q.depth = 1 ∧ q.started = false)) →
  ∀ (a b c : BitVec 5) (ctr : BitVec 6) (H : Nat → Word), (H = fun i => vget x.t i 0) →
  (∀ (mode : BitVec 2) (fixDie : BitVec 3) (nt : BitVec 4) (kernel : BitVec 16) (ng : BitVec 5) (g : DWord) (bs : List Byte) (image : Nat) (k : Kernel),
    (Instr.opr a b c mode fixDie nt kernel ctr ng).wf = true → x.image.kernels[kernel.toNat]? = some (bs, image) →
    s.kernel? image = some k → g = gGet x.g a → g.toNat % 2 ^ 24 ≠ 0 → g.toNat / 2 ^ 24 % 2 ^ 8 ≠ 0 → g.toNat / 2 ^ 32 < 2 ^ nt.toNat →
    k.resourceFault (g.toNat / 2 ^ 24 % 2 ^ 8) = none → (mode = 1 → s.mapped fixDie.toNat = true) →
    launches (.opr a b c mode fixDie nt kernel ctr ng) true
      (.opr image (g.toNat % 2 ^ 24) (g.toNat / 2 ^ 24 % 2 ^ 8) mode.toNat fixDie.toNat (x.tParams b nt.toNat ++ x.gParams c ng.toNat))
      ((List.range nt.toNat).map fun i => (H (b.toNat + i), g.getLsbD (32 + i))) ctr) ∧
  (∀ (kind fmt : BitVec 4) (dst src : Rec), (kind = 0 ∨ kind = 1 ∨ kind = 4) → fmt.toNat ≤ 10 → s.live? (H a.toNat) = some dst → s.live? (H b.toNat) = some src →
    xformOk kind.toNat fmt.toNat dst src = true →
    launches (.xform a b kind fmt ctr) true (.xform kind.toNat fmt.toNat) [(H b.toNat, false), (H a.toNat, true)] ctr) ∧
  (∀ kind : BitVec 4, (kind = 2 ∨ kind = 3) →
    launches (.xform a a kind 0 ctr) true (.xform kind.toNat 0) [(H a.toNat, false)] ctr) ∧
  (∀ (experts : BitVec 16) (ids gates perm counts offsets : Rec), experts ≠ 0 → c.toNat < 30 →
    s.live? (H a.toNat) = some ids → s.live? (H b.toNat) = some gates → s.live? (H c.toNat) = some perm →
    s.live? (H (c.toNat + 1)) = some counts → s.live? (H (c.toNat + 2)) = some offsets →
    routeOk experts.toNat ids gates perm counts offsets = true →
    launches (.route a b c experts ctr) false (.route experts.toNat)
      [(H a.toNat, false), (H b.toNat, false), (H c.toNat, true), (H (c.toNat + 1), true), (H (c.toNat + 2), true)] ctr) ∧
  (∀ (group : BitVec 16) (counts dst : Rec), s.live? (H b.toNat) = some counts → s.live? (H c.toNat) = some dst →
    (s.rankOf group.toNat (sid / 16)).isSome = true → counts.linear = true → counts.width = 32 →
    counts.elems = (s.group group.toNat).length →
    launches (.a2av a b c group ctr) false (.a2av group.toNat (s.groupNth group.toNat (sid / 16)))
      [(H a.toNat, false), (H b.toNat, false), (H c.toNat, true)] ctr) ∧
  (∀ (kind : BitVec 2) (group : BitVec 16) (src dst : Rec), kind ≠ 3 → s.live? (H a.toNat) = some src → s.live? (H b.toNat) = some dst →
    (s.rankOf group.toNat (sid / 16)).isSome = true → collShape kind.toNat (s.group group.toNat).length src dst = true →
    launches (.coll a b kind group ctr) false (.coll kind.toNat group.toNat (s.groupNth group.toNat (sid / 16)))
      [(H a.toNat, false), (H b.toNat, true)] ctr) ∧
  (∀ (countM1 : BitVec 2) (opcode : BitVec 16), a.toNat + countM1.toNat + 1 ≤ 32 → (s.hs.guest.st = .present ∨ s.hs.guest.st = .preempted) →
    launches (.gop a countM1 opcode ctr) false (.gop opcode.toNat) ((List.range (countM1.toNat + 1)).map fun i => (H (a.toNat + i), false)) ctr) ∧
  (x.bracket ≠ none → ∀ (g : BitVec 16) (k : BitVec 2), ∀ p ∈ [(Instr.route a b c g ctr, 0x32), (.a2av a b c g ctr, 0x33),
    (.gop a k g ctr, 0x34), (.coll a b k g ctr, 0x35)], exec p.1 s = .next (s.sqFault sid 2 0x22 0 p.2))

/-- Placement (R21, R22, R102, R129, R197): the first launch of a die's list places its next barge on the chosen cluster; each task starts
with the arguments in its first scalar registers, p0 set and everything else clear, and the granules of the plan are empty. Completes by
its own effect: placeBarge. -/
def Obligations.PlacementStartsTasks : Prop :=
  ∀ (s : State) (v p cl : Nat) (o : Op) (rest : List Op) (k : Kernel),
    s.stackOfDie v = some p → s.placeList v = o :: rest → s.kernel? o.image = some k → s.bestCluster p k.contexts o.tasks = some cl →
    s.resumeFirst v (s.prioOf o.sid) = false → s.moving v = false →
  Answers (.placeBarge v) s fun a => SameMemory s a ∧ ∃ b, a.sq.barges = s.sq.barges ++ [b] ∧ b.op = o.id ∧ b.g = o.placed ∧ b.die = v ∧
    b.cluster = cl ∧ b.st = .placed ∧ b.ctxs = (s.usable p cl k.contexts []).take o.tasks ∧
    (∀ i c, b.ctxs[i]? = some c → ∃ y, a.ctx? c = some y ∧ y.barge = b.id ∧ y.task = i ∧ y.halted = false ∧ y.r.pc = k.entry ∧
      y.r.pr = 1 ∧ y.r.flags = 0 ∧ y.r.fmt = 0x00004011#32 ∧ y.r.loops = [] ∧ y.r.rbs = 0 ∧ y.r.rbv = 0 ∧ y.flights = [] ∧ y.gate = [] ∧
      (∀ j, j < 64 → vget y.r.sr j PW.zero = PW.of (if j < k.params then o.args.getD j 0 else 0)) ∧
      ∀ j, j < 32 → vget y.r.vr j PV.zero = PV.zero) ∧
    (∀ c ∈ b.ctxs, ∀ g ∈ k.planGranules (coreOf c), a.fbit g = false) ∧
    ∀ c, c ∉ b.ctxs → a.ctx? c = s.ctx? c

/-- The life of a barge after its placement (R23, R307 to R313): a pre-emption stops it with its save area granted (that its 20 µs count from
the request is the model's reading of R309: log entry 112), a save with everything settled and the cross-die requests of the die drained
(R27) frees its contexts, a resume puts the saved contexts back, and a barge whose tasks have all ended and whose stores have been
performed retires. Each completes by its own effect: bargeRetire, preempt, saveComplete, resumeBarge. -/
def Obligations.BargeLifeCycle : Prop :=
  ∀ (s : State) (id : Nat) (b : Barge), s.barge? id = some b →
  (∀ k q, s.kernel? (((s.op? b.op).map Op.image).getD 0) = some k → s.toPreempt b = true → s.allocOf (.save id) none = some q →
    q.granted = true → q.pages = s.savePages b k →
    Answers (.preempt id) s fun a => SameMemory s a ∧ a.barge? id =
        some { b with st := .saving, since := s.nextId, saveBy := b.saveBy.orElse fun _ => some (s.dieTick b.die + 2000) } ∧
      ∀ c ∈ b.ctxs, ∀ x, s.ctx? c = some x → ∃ y, a.ctx? c = some y ∧ y.flights = [] ∧ y.marked = false) ∧
  (∀ k q u, s.kernel? (((s.op? b.op).map Op.image).getD 0) = some k → s.allocOf (.save id) none = some q → b.st = .saving →
    u = b.ctxs.foldl State.startTiles s → u.allMarked b = true → b.ctxs.all u.ctxSettled = true → u.crossDie b.die b.since = false →
    Answers (.saveComplete id) s fun a => (∃ g w, a.barge? id = some g ∧ g.st = .suspended ∧ g.save = some w ∧ g.ctxs = b.ctxs ∧
        w.pages = q.pages) ∧ ∀ c ∈ b.ctxs, a.ctx? c = none) ∧
  (∀ w p old, b.st = .suspended → b.save = some w → s.suspended (s.bargeSid b) = false → s.moving b.die = false →
    s.stackOfDie b.die = some p → old = stackOf (coreOf (b.ctxs.headD 0)) →
    (∀ c ∈ b.ctxs, s.ctx? (c + p * 1152 - old * 1152) = none) → s.pkg.fencedClusters.contains (clusterKey p b.cluster) = false →
    (∀ c ∈ b.ctxs, (s.core (coreOf c + p * 288 - old * 288)).fenced = false) → (∀ e ∈ w.ctxs, e.1 < b.ctxs.length) →
    s.rowsFree (coreKey p b.cluster 0) w = true → s.launchFirst b.die b.prio = false →
    (w.ctxs.map fun e => b.ctxs.getD e.1 0 + p * 1152 - old * 1152).Nodup → (∀ e ∈ w.ctxs, e.2.later = []) →
    Answers (.resumeBarge id) s fun a => (∃ g, a.barge? id = some g ∧ g.st = .placed ∧ g.save = none) ∧
      ∀ e ∈ w.ctxs, a.ctx? (b.ctxs.getD e.1 0 + p * 1152 - old * 1152) = some e.2) ∧
  (b.st = .placed → b.save = none → s.moving (s.bargeSid b / 16) = false →
    (∀ c ∈ b.ctxs, s.ctxQuiet c = true ∧ ∀ x, s.ctx? c = some x → x.halted = true) →
    (s.settleStores b).ms.held.any (fun h => h.barge == id) = false →
    Answers (.bargeRetire id) s fun a => (∀ c ∈ b.ctxs, a.ctx? c = none) ∧ ∀ g, a.barge? id = some g → g.st = .retired)

/-- Operations without barges, waiting records and retries of save areas (R112, R124, R136, R139, R312, R355, R364): an engine operation
leaves the launch queue when it starts, a gop behind the earlier ones of its stream; a data transformation is done when it completes, and
its decrement awaits the end of the tick, so that a depset of that tick goes first, and there the counter falls or, at 0, an error record
is posted; a gop completes when its packet has arrived, with an error record for a status that is not success; the first waiting record is
posted once there is room; and a release of H lets the barges of its die ask again. Each completes by its own effect: launchedOpComplete,
completionRecordPost, saveAreaRetry, launchedOpStart. -/
def Obligations.EngineOperationsAndPosting : Prop :=
  ∀ (s : State),
  (∀ id o, s.op? id = some o → o.started = false → o.done = false → (∀ k n m d f as, o.kind ≠ .opr k n m d f as) →
    ((∃ opcode, o.kind = .gop opcode) → ∀ p ∈ s.sq.ops, p.sid = o.sid → p.id < id → (∃ opcode, p.kind = .gop opcode) → p.started = true) →
    Answers (.launchedOpStart id) s fun a => SameMemory s a ∧
      a.op? id = some { o with started := true, queued := false, since := s.pkg.ioTick } ∧
      ∀ opcode, o.kind = .gop opcode → ∃ g, a.wk.guestCmds = s.wk.guestCmds ++ [g] ∧ g.isStream = true ∧ g.src = id ∧
        g.pkt.length = 52 ∧ leNat (g.pkt.take 2) = opcode % 2 ^ 16) ∧
  (∀ id o k f, s.op? id = some o → o.started = true → o.done = false → s.moving (o.sid / 16) = false → s.opRetried o = false →
    o.kind = .xform k f →
    (k = 0 ∨ k = 1 ∨ k = 2 ∨ k = 4) →
    Answers (.launchedOpComplete id) s fun a => (∀ p, a.op? id = some p → p.done = true) ∧
      a.sq.decs = s.sq.decs ++ (if o.replay = none ∧ o.ctr ≠ 0 then [(o.sid, o.ctr, o.pc)] else [])) ∧
  (∀ v sid c pc x, s.sq.decs = [(sid, c, pc)] → sid / 16 = v → s.mapped v = true → s.stream? sid = some x → c < 64 →
    (vget x.ctrs c 0 ≠ 0 → (s.applyDecs v).sq.decs = [] ∧ SameMemory s (s.applyDecs v) ∧
      (s.applyDecs v).stream? sid = some { x with ctrs := vset x.ctrs c (vget x.ctrs c 0 - 1) }) ∧
    (vget x.ctrs c 0 = 0 → WindowOpen s → (s.applyDecs v).stream? sid = some x ∧ ∃ r, Posts s (s.applyDecs v) r ∧ r.length = 32 ∧
      leNat (r.take 1) = 13 ∧ leNat ((r.drop 1).take 1) = 0x0c ∧ leNat ((r.drop 2).take 2) = 0xd0 ∧ leNat ((r.drop 24).take 8) = c)) ∧
  (∀ id o opcode g p, s.op? id = some o → o.started = true → o.done = false → s.moving (o.sid / 16) = false → s.opRetried o = false →
    o.kind = .gop opcode → s.wk.guestCmds.find? (fun g => g.isStream && g.src == id) = some g → g.done = some p → WindowOpen s →
    Answers (.launchedOpComplete id) s fun a => (∀ q, a.op? id = some q → q.done = true) ∧ (∀ h ∈ a.wk.guestCmds, h.id ≠ g.id) ∧
      (p.status ≠ 0 → ∃ r, a.hs.cw.find (s.hs.cwProd.toNat % 4096) = some r ∧ r.length = 32 ∧ leNat (r.take 1) = 12 ∧
        leNat ((r.drop 2).take 2) = 0xc0 ∧ leNat ((r.drop 24).take 8) = p.status.toNat)) ∧
  (∀ r after rest, s.hs.cwWait = (r, after) :: rest → (∀ pid, after ≠ .ctxResumed pid) → (s.hs.cwProd - s.hs.cwCons).toNat ≠ 4096 →
    Answers .completionRecordPost s fun a => SameMemory s a ∧ a.hs.cwProd = s.hs.cwProd + 1 ∧ a.hs.cwWait = rest ∧
      a.hs.cw.find (s.hs.cwProd.toNat % 4096) = some r) ∧
  (∀ v, Answers (.saveAreaRetry v) s fun a => SameMemory s a ∧
    ∀ e, e ∈ a.sq.retryList ↔ e ∈ s.sq.retryList ∧ ¬ (e.2 = true ∧ ∀ g, s.barge? e.1 = some g → g.die = v))

/-- What the transfer engines compute (R127, R130, R132, R134, R135): once an operation has read its inputs, which nobody has written since it
started, it has an element to store for each place that the rule names: a converted, transposed or requantised one for xform; for route
the assignments in stable order of their expert with their gates, the counts and the offsets; for a2av the rows in ascending order of
sender; for coll the gathered rows, or with two ranks the rounded sums; and at its completion those elements are in the destination and
nothing else has changed. One FP32 addition of two ranks rounds the same in either order; that the elements land in one step at the
completion unless a turn of the engine lands some before is the model's form of R127 (log entry 21). Completes by its own effect:
launchedOpComplete. -/
def Obligations.TransferResults : Prop :=
  ∀ (s : State) (id : Nat) (o : Op), s.op? id = some o → s.engineFree o = true →
  (∀ w ∈ s.sq.ops, w.old = []) → (s.sq.ops.map (·.id)).Nodup →
  ∀ stores : Nat → Nat → Nat → Nat → (TElem → Prop) → Prop,
  (stores = fun op t i j P => ∃ w es e, (s.readInputs o).op? op = some w ∧ w.out = some es ∧ (t, e) ∈ es ∧ e.row = i ∧ e.col = j ∧ P e) →
  ∀ el : Nat → Rec → Nat → Nat → TElem, el = s.homeElem →
  (∀ kind f hs hd src dst, o.out = none → o.kind = .xform kind f → o.params = [(hs, false), (hd, true)] → isDiscard hd = false →
    s.rec? (handleKey hs) = some src → s.rec? (handleKey hd) = some dst → xformOk kind f dst src = true →
    (kind = 0 → ∀ i j, i < dst.rows → j < dst.d0 → stores id (handleKey hd) i j fun e =>
      e.bits = elemBits dst.fmt dst.intFmt .rne (elemValueScaled src.fmt src.intFmt (el (handleKey hs) src i j).scale (el (handleKey hs) src i j).bits)) ∧
    (kind = 1 → dst.width = src.width → ∀ i j, i < dst.rows → j < dst.d0 → stores id (handleKey hd) i j fun e =>
      e.bits = (el (handleKey hs) src (i / dst.d1 * src.d1 + j) (i % dst.d1)).bits) ∧
    (kind = 4 → ∀ i j, i < dst.rows → j < dst.d0 → ∀ vs : List FV,
      (vs = (List.range src.d0).map fun k =>
        elemValueScaled src.fmt src.intFmt (el (handleKey hs) src i k).scale (el (handleKey hs) src i k).bits) →
      stores id (handleKey hd) i j fun e => e.bits = (mxRow dst.fmt true vs).1.getD j 0 ∧ e.scale = (mxRow dst.fmt true vs).2.getD (j / 32) 0)) ∧
  (∀ experts hi hg hp hc hf ids gates perm counts offsets, o.out = none → o.kind = .route experts →
    o.params = [(hi, false), (hg, false), (hp, true), (hc, true), (hf, true)] →
    (∀ h ∈ [hp, hc, hf], isDiscard h = false) → s.rec? (handleKey hi) = some ids → s.rec? (handleKey hg) = some gates →
    s.rec? (handleKey hp) = some perm → s.rec? (handleKey hc) = some counts → s.rec? (handleKey hf) = some offsets →
    routeOk experts ids gates perm counts offsets = true →
    ∀ gate key : Nat → Nat, (gate = fun x => (el (handleKey hg) gates (x / gates.d0) (x % gates.d0)).bits) →
    (key = fun x => ((fun i : Int => if 0 ≤ i ∧ i < experts ∧ gate x % 2 ^ 31 ≠ 0 ∧ gate x % 2 ^ 31 ≤ 0x7f800000 then i.toNat else experts)
      (BitVec.ofNat 16 (el (handleKey hi) ids (x / ids.d0) (x % ids.d0)).bits).toInt)) →
    ∃ order : List Nat, order.Perm (List.range ids.elems) ∧
      order.Pairwise (fun x y => key x < key y ∨ (key x = key y ∧ x < y)) ∧
      (∀ i x, order[i]? = some x → stores id (handleKey hp) i 0 (fun e => e.bits = x) ∧ stores id (handleKey hp) i 1 fun e => e.bits = gate x) ∧
      ∀ n, n ≤ experts →
        stores id (handleKey hc) (n / counts.d0) (n % counts.d0) (fun e => e.bits = (order.filter fun x => key x == n).length) ∧
        stores id (handleKey hf) (n / offsets.d0) (n % offsets.d0) fun e => e.bits = (order.filter fun x => decide (key x < n)).length) ∧
  (∀ g n ps, o.out = none → o.collective = some (g, n) → s.localParts g n (s.localRanks g) = some ps → s.peerRanks g = [] →
    s.collAgrees o ps = true → (∀ p ∈ ps, ∀ w, p.op = some w → w.msgs = [] ∧ s.op? w.id = some w) → (ps.map (·.rank)).Nodup →
    ∀ p ∈ ps, ∀ w src dst, p.op = some w → s.rec? w.srcKey = some src → s.rec? w.dstKey = some dst →
    (o.collKind ≠ 3 → collShape o.collKind (s.group g).length src dst = true) →
    (∀ q ∈ ps, ∀ v vr, q.op = some v → s.rec? v.srcKey = some vr →
      (o.collKind = 1 → ∀ i j, i < vr.rows → j < src.d0 → stores w.id w.dstKey (i / src.d1 * dst.d1 + q.rank * src.d1 + i % src.d1) j fun e =>
        e.bits = (el v.srcKey vr i j).bits) ∧
      ((o.collKind = 0 ∨ o.collKind = 2) → (s.group g).length = 2 → q.rank ≠ p.rank → ∀ i j, i < dst.rows → j < dst.d0 →
        ∀ row, row = (if o.collKind = 2 then i / dst.d1 * src.d1 + p.rank * dst.d1 + i % dst.d1 else i) →
        ∀ term : Nat → Rec → Word, (term = fun t r => f32 (elemValue src.fmt src.intFmt (el t r row j).bits)) →
        stores w.id w.dstKey i j fun e =>
          e.bits = elemBits dst.fmt dst.intFmt .rne (ofF32 (addF32 (term w.srcKey src) (term v.srcKey vr)))) ∧
      (o.collKind = 3 → (∀ u ∈ ps, ∀ z, u.op = some z → s.a2avFail (s.group g).length (s.countTable (s.group g).length ps o) u.rank z = none) →
        ∀ count : Nat → Nat → Nat, (count = fun k i => ((((s.countTable (s.group g).length ps o).getD k []).map Prod.fst).getD i 0).toNat) →
        ∀ i j, i < count q.rank p.rank → j < dst.d0 →
          stores w.id w.dstKey (sumNats ((List.range q.rank).map fun k => count k p.rank) + i) j fun e =>
            e.bits = (el v.srcKey vr (sumNats ((List.range p.rank).map fun k => count q.rank k) + i) j).bits))) ∧
  (∀ t r es cells, o.out = some (es.map fun e => (t, e)) → es ≠ [] → s.rec? t = some r → r.msa = false →
    cells = (elemCells t r (fun off => (s.homeByte (storeAddr t off)).1) es).1 → LinesFit s (cells.map Prod.fst) →
    (∀ c ∈ cells, storeTensor c.1 = t) → (∀ k f, o.kind ≠ .xform k f ∨ (k ≠ 2 ∧ k ≠ 3)) → (∀ k n m d f as, o.kind ≠ .opr k n m d f as) → (∀ c, o.kind ≠ .gop c) →
    Answers (.launchedOpComplete id) s fun a => (∀ p, a.op? id = some p → p.done = true) ∧
      (o.bracket = none → o.replay = none → (∀ k ∈ keysOf o.params, ∀ q, s.rec? k = some q → q.live = true ∧ q.st ≠ .drop) →
        (∀ c ∈ cells, (a.homeByte c.1).1 = c.2) ∧ ∀ b, b ∉ cells.map Prod.fst → (a.homeByte b).1 = (s.homeByte b).1))

/-- The residency engine (R286, R289 to R293, R340): a covered request is granted, one that is not takes the first victim of the order by its
cheapest option and is granted when that covers it or waits for the spill, and one that nothing can cover fails its stream with TIER_FULL
and the bytes it asked for, copies end in SPILL_L and RES_H, a granted fetch begins its copy, and the two cost registers of the near pool
and the overflow reserve take their fields. Victims (R287, R293): a dead tensor is taken before every other, the others in descending
distance, and nothing that is pinned, busy, versioned or atomic is taken. Each completes by its own effect: victimSelection,
spillCopyComplete, fetch, overflowReserveRefill, cstNearwWrite, cmResvWrite, fetchCopyComplete. -/
def Obligations.ResidencyAndVictims : Prop :=
  (∀ (s : State),
    (∀ v q, s.sq.allocs.find? (fun e => e.die == v && !e.granted) = some q →
      (q.pages ≤ s.availH v → Answers (.victimSelection v) s fun a => SameMemory s a ∧ a.sq.recs = s.sq.recs ∧
        a.sq.allocs = s.sq.allocs.map fun e => if e.id = q.id then { e with granted := true } else e) ∧
      (∀ sid x, q.who = .stream sid → s.stream? sid = some x → s.availH v + s.inFlight q.spills < q.pages → s.victimOrder v q.minDist = [] →
        Answers (.victimSelection v) s fun a => SameMemory s a ∧ (∀ e ∈ a.sq.allocs, e.id ≠ q.id) ∧
          a.stream? sid = some { x with failed := some (0x91, q.pages * 65536) }) ∧
      (∀ t r rest w, s.availH v < q.pages → q.spills = [] → s.victimOrder v q.minDist = t :: rest → s.rec? t = some r →
        w = (if s.distance r = none then s.dropTensor t
             else match cheapest (s.options t r) with
               | some (_, .compress) => (if r.st = .near then s.demote t else s).compressStorage t
               | some (_, .spill) => s.startSpill t
               | some (_, .drop) => s.dropTensor t
               | none => s) →
        (q.pages ≤ w.availH v → Answers (.victimSelection v) s fun a => a.sq.recs = w.sq.recs ∧ ∃ e ∈ a.sq.allocs, e.id = q.id ∧ e.granted = true) ∧
        (s.distance r ≠ none → (∃ n, cheapest (s.options t r) = some (n, .spill)) → w.availH v < q.pages →
          q.pages ≤ w.availH v + w.inFlight [t] →
          Answers (.victimSelection v) s fun a => ∃ u, a.rec? t = some u ∧ u.st = .moving ∧ u.toL = true ∧
            ∃ e ∈ a.sq.allocs, e.id = q.id ∧ e.granted = false ∧ e.spills = [t]))) ∧
    (∀ t r, s.rec? t = some r → r.stored = true → r.st = .moving → s.tensorBusy t = false → s.updateFree = true →
      (r.toL = true → Answers (.spillCopyComplete t) s fun a => ∃ q, a.rec? t = some q ∧ q.st = .spillL ∧ q.toL = false ∧ q.gen = r.gen) ∧
      (r.toL = false → Answers (.fetchCopyComplete t) s fun a => ∃ q, a.rec? t = some q ∧ q.st = .resH ∧ q.gen = r.gen)) ∧
    (∀ t r q, s.rec? t = some r → r.st = .spillL → s.allocOf (.fetch t) (some t) = some q → q.granted = true →
      Answers (.fetch t) s fun a => SameMemory s a ∧ a.rec? t = some { r with st := .moving, toL := false } ∧ ∀ e ∈ a.sq.allocs, e.id ≠ q.id) ∧
    (∀ v k rest f s1, v < 8 → s.mapped v = true → s.lackingReserve v = k :: rest → (s.askH v 1 .reserve (some (v * 16 + k)) none).1 = none →
      s.takeFrame v 3 = some (f, s1) →
      Answers (.overflowReserveRefill v) s fun a => a.ms.reserve = s.ms.reserve ++ [(v, k, f)] ∧ a.sq.recs = s.sq.recs) ∧
    (∀ (v : Nat) (val : BitVec 32), v < 8 → s.pkg.recovery = false →
      (Answers (.cmResvWrite v val) s fun a => SameMemory s a ∧ (a.die v).cmResv = val.toNat % 16 ∧ ∀ w, w ≠ v → a.die w = s.die w) ∧
      (val.toNat % 16 ≤ 8 → Answers (.cstNearwWrite v val) s fun a => (a.die v).nearw = val.toNat % 16 ∧ ∀ w, w ≠ v → a.die w = s.die w) ∧
      (8 < val.toNat % 16 → exec (.cstNearwWrite v val) s = .next s))) ∧
  (∀ (s : State) (v : Nat) (beyond : Option Nat) (i j t u : Nat), i < j → (s.victimOrder v beyond)[i]? = some t →
      (s.victimOrder v beyond)[j]? = some u →
    ∃ r q, (t, r) ∈ s.sq.recs ∧ (u, q) ∈ s.sq.recs ∧ r.pin = 0 ∧ r.busy = 0 ∧ r.ver = false ∧ r.msa = false ∧
      (s.distance q = none → s.distance r = none) ∧
      ∀ d e, s.distance r = some d → s.distance q = some e → e ≤ d)

/-- Replays of dropped tensors (R138, R297 to R299): the first step puts the tensor in REBUILD and takes the registers of its recipe's frame;
one that is too deep, or whose recipe is no longer valid, fails with RECIPE_DEPTH and its depth or 0, and the stream that waits for it
learns so; a word of register arithmetic changes the replay's registers, another that launches nothing changes nothing, and a launching
word whose inputs are ready appends an operation with no ordinal, counter or recipe; and a finished replay leaves every live tensor it
bound in RES_H. Each completes by its own effect: replay, replayComplete. -/
def Obligations.ReplaySteps : Prop :=
  ∀ (s : State) (id : Nat) (r : ReplayRun), s.replay? id = some r → r.id = id → id < s.nextId →
  (∀ x q y f, r.started = false → s.mayStart r = true → r.depth ≤ r.bound → s.rec? r.tensor = some x → x.st = .drop → x.stored = false →
    x.recipe = some q → s.recipeValid q = true → s.stream? q.sid = some y → y.frames.find q.frame = some f →
    Answers (.replay id) s fun a => SameMemory s a ∧ a.rec? r.tensor = some { x with st := .rebuild } ∧
      ∃ n, a.replay? id = some n ∧ n.started = true ∧ n.g = f.g ∧ n.t = f.t ∧ n.at_ = q.start + 1 ∧ n.sid = q.sid ∧ n.bound_ = [r.tensor]) ∧
  (∀ value, r.started = false → s.mayStart r = true →
    ((r.bound < r.depth ∧ value = r.depth) ∨
     (r.depth ≤ r.bound ∧ value = 0 ∧ ∃ x, s.rec? r.tensor = some x ∧ x.st = .drop ∧ ∀ q, x.recipe = some q → s.recipeValid q = false)) →
    r.parent = none → r.ctx = none → r.raised = [] → r.bound_ = [] →
    Answers (.replay id) s fun a => SameMemory s a ∧ a.sq.recs = s.sq.recs ∧ a.replay? id = none ∧
      ∀ sid y, s.stream? sid = some y → a.stream? sid = some (if y.st = .blocked ∧ y.wait = .replay id then { y with failed := some (0x90, value) } else y)) ∧
  (∀ y w i, r.started = true → r.at_ < r.stop → (∀ t ∈ r.bound_, ∀ q, s.rec? t = some q → q.stored = true) → s.stream? r.sid = some y →
    y.image.words[r.at_]? = some w → decodeStream w = .ok i → (s.sq.replays.map (·.id)).Nodup →
    (∀ a b imm, i = .addi a b imm → ∀ v, v = wrap 64 (((if b = 0 then 0 else vget r.g b.toNat 0 : DWord).toNat : Int) + imm.toInt) →
      Answers (.replay id) s fun z => SameMemory s z ∧ z.sq.recs = s.sq.recs ∧ z.sq.ops = s.sq.ops ∧
        ∃ n, z.replay? id = some n ∧ n.at_ = r.at_ + 1 ∧ n.t = r.t ∧ n.g = if a = 0 then r.g else vset r.g a.toNat v) ∧
    (i = .nop → Answers (.replay id) s fun z => SameMemory s z ∧ z.sq.recs = s.sq.recs ∧ z.sq.ops = s.sq.ops ∧
        ∃ n, z.replay? id = some n ∧ n.at_ = r.at_ + 1 ∧ n.t = r.t ∧ n.g = r.g) ∧
    (∀ a b kind fmt ctr ps, i = .xform a b kind fmt ctr → r.word = some ps → (ps.filter fun p => !p.2).length ≤ r.nextIn →
      s.queuedOn (r.tensor / 2 ^ 20) < 64 →
      Answers (.replay id) s fun z => (∃ n, z.replay? id = some n ∧ n.at_ = r.at_ + 1 ∧ n.g = r.g ∧ n.t = r.t ∧ n.word = none) ∧
        ∃ o, z.sq.ops = s.sq.ops ++ [o] ∧ o.kind = .xform kind.toNat fmt.toNat ∧ o.params = ps ∧ o.replay = some id ∧ o.ctr = 0 ∧
          o.bracket = none ∧ o.done = false ∧ ∀ sid x, s.stream? sid = some x → ∃ x', z.stream? sid = some x' ∧ x'.ordinal = x.ordinal)) ∧
  (r.started = true → r.stop ≤ r.at_ → (∀ o ∈ s.sq.ops, o.replay ≠ some id) →
    (∀ t ∈ r.bound_, ∃ q, s.rec? t = some q ∧ q.stored = true ∧ q.live = true) →
    Answers (.replayComplete id) s fun a => a.replay? id = none ∧ ∀ t ∈ r.bound_, ∃ q, a.rec? t = some q ∧ q.st = .resH)

/-- The gv unit's triggers (R193, R226 to R231, R315): each operation joins the work in flight with its handle, index and operands, an
operation with a result marks gv.q pending, a store enters the context's gate, no memory changes, and an odd index of a 64-bit form raises
ILL_TRIG. Each completes by its own effect: gvLd32, gvLd64, gvSt32, gvSt64, gvLdv, gvVadd, gvVchk, gvVclr, gvCasv, gvAmoAdd, gvAmoFadd,
gvAmoMin, gvAmoMax, gvAmoSwap, gvAmoCas, gvRedAdd, gvRedFadd. -/
def Obligations.GlobalTriggers : Prop :=
  ∀ (s : State) (t : Trig) (x : Ctx), Runs s t x →
  ∀ p ∈ [
    (Instr.gvLd32, true, false, false), (.gvLd64, true, false, true), (.gvSt32, false, true, false), (.gvSt64, false, true, true),
    (.gvLdv, true, false, false), (.gvVadd, true, false, false), (.gvVchk, true, false, false), (.gvVclr, false, false, false),
    (.gvCasv, true, false, false), (.gvAmoAdd, true, false, false), (.gvAmoFadd, true, false, false), (.gvAmoMin, true, false, false),
    (.gvAmoMax, true, false, false), (.gvAmoSwap, true, false, false), (.gvAmoCas, true, false, false), (.gvRedAdd, false, false, false),
    (.gvRedFadd, false, false, false)],
  (p.2.2.2 = true ∧ t.y.scalar.toNat % 2 = 1 → exec p.1 s = .next (s.takeFault t.ctx t.bno
    { cls := 1, code := 0x13, flags := 1, slot := t.slot, subcode := 0, bno := t.bno, value := t.y.scalar.toNat })) ∧
  (¬ (p.2.2.2 = true ∧ t.y.scalar.toNat % 2 = 1) → Answers p.1 s fun a => SameMemory s a ∧ a.ms = s.ms ∧
    (∀ c, c ≠ t.ctx → a.ctx? c = s.ctx? c) ∧
    ∃ o y, a.wk.gv = s.wk.gv ++ [o] ∧ o.ctx = t.ctx ∧ o.handle = x.portW oGvO ∧ o.idx = t.y.scalar.toNat ∧ o.o2 = x.port oGvO2 ∧
      o.o3 = x.port oGvO3 ∧ o.bno = t.bno ∧ a.ctx? t.ctx = some y ∧ y.r.sr = x.r.sr ∧ y.r.vr = x.r.vr ∧ y.r.flags = x.r.flags ∧ y.r.res = x.r.res ∧
      (p.2.1 = true → vget y.r.pend qGv none = some o.id) ∧ (p.2.1 = false → y.r.pend = x.r.pend) ∧
      (p.2.2.1 = false → y.gate = x.gate) ∧
      (p.2.2.1 = true → ∃ g, y.gate = x.gate ++ [g] ∧ g.isGlobal = true ∧ g.opId = o.id ∧ g.released = false))

/-- Global accesses (R226, R227, R229 to R231), once their order lets them act: vchk tells whether every entry of the validate set still has
its version, and vclr empties the set; on a tensor with 32-bit elements of whose die nothing is held and whose line has a way in the L2, a
load delivers the word at its home, or the pair of words, a versioned one its line's version too, vadd appends to the set and delivers its
length until that is full, an atomic delivers the old word and leaves the new one, a reduction leaves it and delivers nothing, and casv
stores only when the version is the one named. No other byte of any home changes. Completes by its own effect: gvAccessComplete. -/
def Obligations.GlobalAccessResults : Prop :=
  ∀ (s : State) (id : Nat) (o : GvOp) (x : Ctx), s.wk.gv.find? (fun e => e.id == id) = some o → s.ctx? o.ctx = some x →
    s.gvMay x o = true →
  ∀ gives : Bool → (PV → Ctx → State → Prop) → Prop, (gives = fun result P => Answers (.gvAccessComplete id) s fun a =>
    (∀ e ∈ a.wk.gv, e.id ≠ id) ∧ ∃ y, a.ctx? o.ctx = some y ∧ (result = true → vget y.r.pend qGv none = none) ∧ y.r.sr = x.r.sr ∧
      y.r.vr = x.r.vr ∧ P (vget y.r.res qGv PV.zero) y a) →
  (o.code = 6 → vget x.r.pend qGv none = some id → ∀ holds : Prop, (holds = (x.r.vover = false ∧
    ∀ e ∈ x.r.vlist, ∃ r, s.opLive? o.ctx e.1 = some r ∧ s.versionAt (handleKey e.1) r e.2.1.toNat = e.2.2)) →
    gives true fun q y a => SameMemory s a ∧ y.r.vlist = x.r.vlist ∧ (holds → q.scalar = 1) ∧ (¬ holds → q.scalar = 0)) ∧
  (o.code = 7 → gives false fun _ y a => SameMemory s a ∧ y.r.vlist = [] ∧ y.r.vover = false) ∧
  (∀ r, x.gate = [] → s.ms.held = [] → s.live? o.handle = some r → r.width = 32 → r.linear = true → r.msa = false →
    (o.idx + 2) * 4 ≤ 2 ^ 45 → o.idx + 2 ≤ r.elems → (o.code = 1 → o.idx % 2 = 0) →
    WayFree s (storeAddr (handleKey o.handle) (4 * o.idx)) → (o.code ≠ 15 → o.code ≠ 16 → vget x.r.pend qGv none = some id) →
    ∀ place : Nat → List Nat, (place = fun i => (List.range 4).map fun k => storeAddr (handleKey o.handle) (4 * i + k)) →
    ∀ home : State → Nat → Word, (home = fun a i => BitVec.ofNat 32 (leNat ((place i).map fun b => (a.homeByte b).1))) →
    ∀ same : List Nat → State → Prop, (same = fun but a => ∀ b, b ∉ but → (a.homeByte b).1 = (s.homeByte b).1) →
    ∀ line ver, line = lineOf (storeAddr (handleKey o.handle) (4 * o.idx)) → ver = s.ms.versions.get line 0 →
    ∀ old b c : Word, old = home s o.idx → b = o.o2.scalar → c = o.o3.scalar →
    (o.code = 0 → gives true fun q _ a => q.scalar = old ∧ same [] a) ∧
    (o.code = 1 → gives true fun q _ a => q.lane 0 = old ∧ q.lane 1 = home s (o.idx + 1) ∧ same [] a) ∧
    (o.code = 4 → vget x.r.pend qGvV none = some id → gives true fun q y a => q.scalar = old ∧
      (vget y.r.res qGvV PV.zero).scalar = ver ∧ same [] a) ∧
    (o.code = 5 → x.r.vlist.length < 8 → gives true fun q y a => q.scalar = wrap 32 (x.r.vlist.length + 1) ∧
      y.r.vlist = x.r.vlist ++ [(o.handle, BitVec.ofNat 32 o.idx, b)] ∧ y.r.vover = x.r.vover ∧ same [] a) ∧
    (o.code = 5 → 8 ≤ x.r.vlist.length → gives true fun q y a => q.scalar = 0xffffffff#32 ∧ y.r.vlist = x.r.vlist ∧ y.r.vover = true ∧
      same [] a) ∧
    (∀ p ∈ [(9, true, wrap 32 (zz old + zz b)), (10, true, f32 ((ofF32 old).add (ofF32 b))), (11, true, if zs b < zs old then b else old),
            (12, true, if zs old < zs b then b else old), (13, true, b), (14, true, if old = c then b else old),
            (15, false, wrap 32 (zz old + zz b)), (16, false, f32 ((ofF32 old).add (ofF32 b)))],
      o.code = p.1 → gives p.2.1 fun q _ a => (p.2.1 = true → q.scalar = old) ∧ home a o.idx = p.2.2 ∧ same (place o.idx) a ∧
        (r.ver = true → a.ms.versions.get line 0 = ver + 1)) ∧
    (o.code = 8 → ver = c → vget x.r.pend qGvV none = some id → gives true fun q y a => q.scalar = 1 ∧ home a o.idx = b ∧
      a.ms.versions.get line 0 = ver + 1 ∧ (vget y.r.res qGvV PV.zero).scalar = ver + 1 ∧ same (place o.idx) a) ∧
    (o.code = 8 → ver ≠ c → vget x.r.pend qGvV none = some id → gives true fun q y a => q.scalar = 0 ∧
      a.ms.versions.get line 0 = ver ∧ (vget y.r.res qGvV PV.zero).scalar = ver ∧ same [] a))

/-- Stores on their way (R271, R273, R276, R279, R315): the gate performs a released scratchpad store byte by byte and touches no other byte,
a drained store leaves the collector and its bytes are at their homes, with every home open the deadline at di empties what it published,
and a publication at pk leaves nothing of its context held and gives bn.q 0. A write-back (R329, R330, R338 to R340): the line leaves the
L2, and no byte of it, of a compressed page no byte of its block, has another value at its home than before; a compressed block is packed
again in place when it fits and else goes to an overflow slot, and with no slot free the write-back is held; a line of the near pool stays
(R289). Each completes by its own effect: storeGateDrain, bnPubComplete, collectorDrain, diDrainDeadline, l2Writeback. -/
def Obligations.CollectorAndWriteBack : Prop :=
  (∀ (s : State),
    (∀ c x g, s.ctx? c = some x → x.gate = [g] → g.isGlobal = false → s.mayDrain c x g = true →
      (∀ p ∈ g.cells, (s.core (coreOfPhys p.1)).fenced = false) → (g.cells.map Prod.fst).Nodup →
      Answers (.storeGateDrain c) s fun a => (∀ p ∈ g.cells, a.byte p.1 = p.2) ∧ SameMemoryBut (g.cells.map Prod.fst) s a ∧
        a.ctx? c = some { x with gate := [] }) ∧
    (∀ id h, s.ms.held.find? (fun e => e.id == id) = some h → s.mayLeave h = true →
      s.heldMay h = true → (h.bytes.map Prod.fst).Nodup →
      ((∀ p ∈ h.bytes, (s.ms.l2.find (lineOf p.1)).isSome = true) ∨ ∃ l, (∀ p ∈ h.bytes, lineOf p.1 = l) ∧ WayFree s (l * 256)) →
      Answers (.collectorDrain id) s fun a => (∀ e ∈ a.ms.held, e.id ≠ id) ∧
        ∀ p ∈ h.bytes, s.isMsa p.1 = false → (a.homeByte p.1).1 = p.2) ∧
    ((s.ms.held.Pairwise fun h k => h.id < k.id) → (∀ h ∈ s.ms.held, ∀ k ∈ s.ms.held, h.die = k.die → overlaps h k = true → h.ver = k.ver) →
    (∀ v, HomesOpen s → Answers (.diDrainDeadline v) s fun a =>
      ∀ h ∈ a.ms.held, h.die = v → h.ver = false → ∀ d, h.deadline = some d → s.dieTick v < d) ∧
    (∀ id p x, s.wk.pubs.find? (fun e => e.id == id) = some p → s.ctx? p.ctx = some x → s.pubReady x p = true →
      vget x.r.pend qBn none = some id → HomesOpen s →
      Answers (.bnPubComplete id) s fun a => (∀ e ∈ a.wk.pubs, e.id ≠ id) ∧
        (∃ y, a.ctx? p.ctx = some y ∧ vget y.r.res qBn PV.zero = PV.ofWord 0 false ∧ vget y.r.pend qBn none = none) ∧
        ((p.code = 3 ∨ p.code = 5) → 4 ≤ p.scope → ∀ h ∈ a.ms.held, ¬ (h.ctx = p.ctx ∧ h.barge = x.barge))))) ∧
  (∀ (s : State) (line : Nat),
    (∀ r, s.rec? (storeTensor (line * 256)) = some r → r.st = .near → exec (.l2Writeback line) s = .next s) ∧
    (∀ e, (∀ r, s.rec? (storeTensor (line * 256)) = some r → r.st ≠ .near) →
      s.homeLeaf? (storeTensor (line * 256)) (storeOff (line * 256)) = some e →
      (pteC e.1 = false → Answers (.l2Writeback line) s fun a => a.ms.l2.find line = none ∧
        ∀ i, i < 256 → (a.homeByte (line * 256 + i)).1 = (s.homeByte (line * 256 + i)).1) ∧
      (pteC e.1 = true → ∀ l packed block v, s.ms.l2.find line = some l → l.mask ≠ 0 → block = blockKey (line * 256) →
        v = storeTensor (line * 256) / 2 ^ 20 → packed = (s.mergedBlock line l).flatMap (fun g => granuleBytes (granuleTag g) g) →
        (packed.length ≤ s.ms.allots.get block 0 → ((List.range packed.length).map (s.packedAddr (line * 256))).Nodup →
          Answers (.l2Writeback line) s fun a => a.ms.l2.find line = none ∧ a.ms.bmaps = s.ms.bmaps ∧
            ∀ b, blockKey b = block → (a.homeByte b).1 = (s.homeByte b).1) ∧
        (s.ms.allots.get block 0 < packed.length → ∀ k, s.freeSlot v = some k → k < 2 ^ 20 →
          Answers (.l2Writeback line) s fun a => a.ms.l2.find line = none ∧ a.ms.bmaps.get block 0 = BitVec.ofNat 32 (2 ^ 31 + k * 128) ∧
            ∀ b, blockKey b = block → (a.homeByte b).1 = (s.homeByte b).1) ∧
        (s.ms.allots.get block 0 < packed.length → s.freeSlot v = none → exec (.l2Writeback line) s = .next s))))

/-- Tables and harvests (R323, R324, R357, R372): lost entries are rewritten; a pending update is written into the eight replicas one at a
time in ascending order, where an entry that stays present keeps its D bit, then leaves no core with an old translation of its pages, and
is reported with its last part; and a harvest, asked for or forced by the timer, leaves no dirty bit in any TLB. Each completes by its own
effect: tableUpdate, dirtyHarvest, forcedHarvest. -/
def Obligations.TablesAndHarvests : Prop :=
  ∀ (s : State),
  (s.ms.broken ≠ [] → Answers .tableUpdate s fun a => SameMemory s a ∧ a.ms.broken = []) ∧
  (∀ u rest, s.ms.broken = [] → s.hs.tuQueue = u :: rest →
    (u.pages ≠ [] → u.stack < 8 → (u.stack = 0 → s.hs.guest.shoots = [] ∧ ∃ r, s.rec? u.tensor = some r ∧ r.stored = true) →
      (u.pages.map Prod.fst).Nodup → (∀ q ∈ u.pages, q.1 < 2 ^ 29) →
      Answers .tableUpdate s fun a => SameMemory s a ∧ a.hs.tuQueue = { u with stack := u.stack + 1 } :: rest ∧
        (∀ q ∈ u.pages, a.leaf? u.stack u.tensor (q.1 * 65536) = if pteV q.2 then some (q.2 |||
          (((s.leaf? u.stack u.tensor (q.1 * 65536)).map Prod.fst).getD 0 &&& 0x80#64), 16) else none) ∧
        ∀ p, p ≠ u.stack → a.table p = s.table p) ∧
    (u.pages ≠ [] → u.stack = 8 → Answers .tableUpdate s fun a => a.hs.tuQueue = { u with pages := [] } :: rest ∧
      ∀ k c, (k, c) ∈ a.cores → ∀ e ∈ c.tlb, e.tensor = u.tensor → e.page ∉ u.pages.map Prod.fst) ∧
    (u.pages = [] → s.hs.guest.shoots = [] → u.last = true → Answers .tableUpdate s fun a => SameMemory s a ∧ a.hs.tuQueue = rest ∧
      a.hs.tuDone = s.hs.tuDone + 1 ∧ ∃ q, a.hs.tu.find (s.hs.tuDone.toNat % 64) = some q ∧ q.status = 0)) ∧
  (∀ p ∈ [(Instr.dirtyHarvest, s.pkg.harvest = true), (.forcedHarvest, s.pkg.harvestDue ≤ s.pkg.ioTick)], p.2 →
    Answers p.1 s fun a => SameMemory s a ∧ ∀ k c, (k, c) ∈ a.cores → ∀ e ∈ c.tlb, e.dirty = false) ∧
  (s.pkg.harvest = true → Answers .dirtyHarvest s fun a => a.pkg.harvest = false) ∧
  (s.pkg.harvestDue ≤ s.pkg.ioTick → Answers .forcedHarvest s fun a => a.pkg.harvestDue = s.pkg.harvestDue + 200000)

/-- Requests and migrations of the memory system (R300, R322, R335, R341, R342, R345): a held segment with no access under way moves its hot
page to the frame that the allocator names in a cool channel and is held no longer than the guest takes to acknowledge, a notification
leaves its queue and its counter starts again, a bank is under refresh between its two events, a retried request waits for its hint and
stands before later ones to its address until it is performed, also when it is retried again, and one without a response after 10 000
ticks is given up with TIMEOUT. What TIMEOUT leaves of the access, the hint counted in ticks of 16 cycles and the pages that a migration
moves are the model's readings (log entries 38, 5 and 69). Each completes by its own effect: gvAccessComplete, segmentMigration,
accessNotification, retryResponse, retryReissue, refresh, crossDieRequestTimeout. -/
def Obligations.MemorySystemEvents : Prop :=
  ∀ (s : State),
  (∀ t seg r, s.rec? t = some r → (t, seg) ∈ s.ms.heldSegs → r.st ≠ .moving → s.segBusy t seg = false →
    s.updateFree = true → s.hs.tuBusy = false →
    (Answers (.segmentMigration t seg false) s fun a => a.sq.recs = s.sq.recs ∧
      (a.hs.guest.shoots = [] → (t, seg) ∉ a.ms.heldSegs) ∧ (a.hs.guest.shoots ≠ [] → (t, seg) ∈ a.releasing)) ∧
    (∀ k e f, k < r.pages → k < 2 ^ 29 → k / 32 = seg → s.pkg.fencedChannels = [] → s.ownLeaf? t k = some e →
      (s.placesWhere t r (s.hotAddr (t / 2 ^ 20))).filter (fun p => r.placePage p / 32 == seg && s.ms.hot.contains (t, p)) = [k] →
      s.nextFrame (t / 2 ^ 20) 0 = some f → f / 2 ^ 20 < 16 →
      Answers (.segmentMigration t seg false) s fun a => a.ownFrame? t k = some f ∧ (t, k) ∉ a.ms.hot)) ∧
  (∀ v n, s.ms.notes.find? (fun e => e.1 == v) = some n →
    Answers (.accessNotification v) s fun a => SameMemory s a ∧ a.ms.counters.find n.2 = none) ∧
  (∀ bank busy, Answers (.refresh bank busy) s fun a => SameMemory s a ∧ (bank ∈ a.ms.refreshing ↔ busy = true) ∧
    ∀ b, b ≠ bank → (b ∈ a.ms.refreshing ↔ b ∈ s.ms.refreshing)) ∧
  (∀ id hint x xs, s.sentAddrs id = x :: xs → s.ms.refreshing ≠ [] → (∀ r ∈ s.retrying, r.id = id → r.again = true) →
    Answers (.retryResponse id hint) s fun a => SameMemory s a ∧
      (∃ rs, a.ms.retries.map (fun r => (r.id, r.sector)) = s.retrying.map (fun r => (r.id, r.sector)) ++ rs) ∧
      (∀ r ∈ a.ms.retries, r.id = id → r.again = false ∧ s.dieTick (storeTensor (r.sector * 64) / 2 ^ 20) * 16 + hint ≤ r.due * 16) ∧
      ∀ y ∈ x :: xs, ∃ r ∈ a.ms.retries, r.id = id ∧ r.sector = y / 64) ∧
  (∀ id, (∀ r ∈ s.ms.retries, r.id = id → r.due ≤ s.dieTick (storeTensor (r.sector * 64) / 2 ^ 20)) →
    Answers (.retryReissue id) s fun a => SameMemory s a ∧
      (s.sentAddrs id ≠ [] → a.ms.retries = s.ms.retries.map fun r => if r.id = id then { r with again := true } else r) ∧
      (s.sentAddrs id = [] → a.ms.retries = s.ms.retries.filter fun r => r.id != id)) ∧
  (∀ id o r rest, s.wk.gv.find? (fun e => e.id == id) = some o → s.retrying = r :: rest → r.id ≠ id →
    (∃ y ∈ s.gvAddrs o, y / 64 = r.sector) → exec (.gvAccessComplete id) s = .next s) ∧
  (∀ id o sent x, s.wk.gv.find? (fun e => e.id == id) = some o → o.sent = some sent → sent + 10000 ≤ s.dieTick (s.dieOf o.ctx) →
    s.ctx? o.ctx = some x → ∃ v, exec (.crossDieRequestTimeout id) s = .next (({ s with wk := { s.wk with gv := s.wk.gv.filter fun e => e.id != id } }).takeFault o.ctx
      x.r.pc { cls := 8, code := 0x80, flags := 0, slot := o.slot, subcode := 0, bno := o.bno, value := v }))

/-- The ls unit's triggers (R193, R194, R196, R203 to R206, R315): a legal operation joins the work in flight with its address and operands,
marks ls.q pending when it has a result, and changes no memory yet; a plain store enters the gate with its bytes; an address outside the
core, or not aligned to the access, raises ILL_TRIG with the address, and so do an illegal count and phase. That getf is legal at every
alignment is the model's reading (log entry 12). Each completes by its own effect: lsLd8S, lsLd8Z, lsLd16S, lsLd16Z, lsLd32, lsLdv, lsSt8,
lsSt16, lsSt32, lsStv, lsLdwf, lsLdwfe, lsStwe, lsStfull, lsLdvwf, lsLdvwfe, lsStvwe, lsSetf, lsSete, lsGetf, lsFence, lsAmoAdd, lsAmoCas,
lsAmoSwap, lsAmoMax, lsBarInit, lsBarArrive, lsBarWait, lsBarQuery. -/
def Obligations.ScratchTriggers : Prop :=
  ∀ (s : State) (t : Trig) (x : Ctx), Runs s t x →
  ∀ (y n ph : Nat) (fault : Nat → State), y = t.y.scalar.toNat → n = (x.portW oLsO).toNat → ph = (x.port oLsO2).scalar.toNat →
  (fault = fun v => s.takeFault t.ctx t.bno
    { cls := 1, code := 0x13, flags := 1, slot := t.slot, subcode := 0, bno := t.bno, value := v }) →
  ∀ legal : Nat → Nat → Prop, (legal = fun bytes align => y / 2 ^ 22 ≤ 47 ∧ y % 2 ^ 22 + bytes ≤ 2 ^ 22 ∧ y % align = 0) →
  ∀ queues : Instr → Bool → Prop, (queues = fun i result => Answers i s fun a => SameMemory s a ∧ a.fbits = s.fbits ∧
    (∀ c, c ≠ t.ctx → a.ctx? c = s.ctx? c) ∧
    ∃ o z, a.wk.ls = s.wk.ls ++ [o] ∧ o.ctx = t.ctx ∧ o.addr = t.y.scalar ∧ o.o2 = x.port oLsO2 ∧ o.done = none ∧ o.cyc = t.cyc ∧
      a.ctx? t.ctx = some z ∧ z.r.sr = x.r.sr ∧ z.r.vr = x.r.vr ∧ z.r.flags = x.r.flags ∧ z.gate = x.gate ∧
      z.r.pend = (if result then vset x.r.pend qLs (some o.id) else x.r.pend)) →
  (∀ p ∈ [
    (Instr.lsLd8S, 1, 1, true), (.lsLd8Z, 1, 1, true), (.lsLd16S, 2, 2, true), (.lsLd16Z, 2, 2, true), (.lsLd32, 4, 4, true),
    (.lsLdv, 256, 32, true), (.lsStfull, 4, 4, false), (.lsGetf, 1, 1, true), (.lsAmoAdd, 4, 4, true), (.lsAmoCas, 4, 4, true),
    (.lsAmoSwap, 4, 4, true), (.lsAmoMax, 4, 4, true), (.lsBarQuery, 16, 16, true)],
    (legal p.2.1 p.2.2.1 → queues p.1 p.2.2.2) ∧ (¬ legal p.2.1 p.2.2.1 → exec p.1 s = .next (fault y))) ∧
  queues .lsFence true ∧
  (∀ i ∈ [Instr.lsSetf, .lsSete], (1 ≤ n → n ≤ 8192 → legal (32 * n) 32 → queues i false) ∧
    ((n < 1 ∨ 8192 < n) → exec i s = .next (fault n)) ∧ (1 ≤ n → n ≤ 8192 → ¬ legal (32 * n) 32 → exec i s = .next (fault y))) ∧
  (∀ i ∈ [Instr.lsBarInit, .lsBarArrive], (legal 16 16 → n ≠ 0 → queues i true) ∧ (¬ legal 16 16 → exec i s = .next (fault y)) ∧
    (legal 16 16 → n = 0 → exec i s = .next (fault 0))) ∧
  (legal 16 16 → ph < 16 → queues .lsBarWait true) ∧ (¬ legal 16 16 → exec .lsBarWait s = .next (fault y)) ∧
  (legal 16 16 → 16 ≤ ph → exec .lsBarWait s = .next (fault ph)) ∧
  (∀ p ∈ [(Instr.lsLdwf, 4, 4, true), (.lsLdwfe, 4, 4, true), (.lsStwe, 4, 4, false), (.lsLdvwf, 256, 32, true), (.lsLdvwfe, 256, 32, true),
          (.lsStvwe, 256, 32, false)],
    (legal p.2.1 p.2.2.1 → Answers p.1 s fun a => ∃ o z, a.wk.ls.length = s.wk.ls.length + 1 ∧ o ∈ a.wk.ls ∧ o.ctx = t.ctx ∧
      o.addr = t.y.scalar ∧ o.id = s.nextId ∧ (isLocal t.ctx y = false → o.done = none ∧ SameMemory s a ∧ a.fbits = s.fbits) ∧
      a.ctx? t.ctx = some z ∧ z.r.pend = (if p.2.2.2 then vset x.r.pend qLs (some o.id) else x.r.pend)) ∧
    (¬ legal p.2.1 p.2.2.1 → exec p.1 s = .next (fault y))) ∧
  (∀ p ∈ [(Instr.lsSt8, 1, 1, leBytes 1 n), (.lsSt16, 2, 2, leBytes 2 n), (.lsSt32, 4, 4, leBytes 4 n),
          (.lsStv, 256, 32, leBytes 256 (x.port oLsO2).val.toNat)],
    (legal p.2.1 p.2.2.1 → Answers p.1 s fun a => SameMemory s a ∧ a.fbits = s.fbits ∧ a.wk = s.wk ∧ ∃ z g, a.ctx? t.ctx = some z ∧
      z.r = x.r ∧ z.gate = x.gate ++ [g] ∧ g.isGlobal = false ∧ g.released = false ∧
      g.cells = (List.range p.2.1).map fun i => (s.phys t.ctx (y + i), p.2.2.2.getD i 0)) ∧
    (¬ legal p.2.1 p.2.2.1 → exec p.1 s = .next (fault y)))

/-- Scratchpad operations that are performed (R198 to R202): a load gives the bytes at its address with the extension of its form, an atomic
gives the old word and leaves the new one, a waiting load empties and a waiting store fills its granules, setf and sete change one granule
at a time, upwards (the model's order: log entry 21), until the last, the fence gives 0; every byte outside the word or vector addressed
keeps its value. A remote full/empty operation (R200): once its order and the bits of its granules allow it, it is performed at its core,
and its context keeps waiting only for the response. Each completes by its own effect: lsAccessComplete, remoteFePerformed. -/
def Obligations.ScratchResultsAndFullEmpty : Prop :=
  (∀ (s : State) (id : Nat) (o : LsOp) (x : Ctx), s.wk.ls.find? (fun e => e.id == id) = some o → s.ctx? o.ctx = some x → x.gate = [] →
      o.done = none → o.arrived = none → o.late = none → s.lsMay x o = true → s.lsReady o = true →
      (isLocal o.ctx o.addr.toNat = true → o.cyc + 3 ≤ (s.core (coreOf o.ctx)).cyc) →
      (∀ k, (s.core k).fenced = false) → o.addr.toNat % alignOf (max 1 (lsWidth o.code)) = 0 →
    ∀ as : Nat → List Nat, (as = fun n => (List.range n).map fun i => s.phys o.ctx (o.addr.toNat + i)) →
    ∀ value : State → Nat → Nat, (value = fun a n => leNat ((as n).map a.byte)) →
    ∀ ends : (PV → State → Prop) → Prop, (ends = fun P => Answers (.lsAccessComplete id) s fun a => (∀ e ∈ a.wk.ls, e.id ≠ id) ∧
      ∃ y, a.ctx? o.ctx = some y ∧ y.r.sr = x.r.sr ∧ y.r.vr = x.r.vr ∧ y.r.flags = x.r.flags ∧ P (vget y.r.res qLs PV.zero) a) →
    ∀ gives : (PV → State → Prop) → Prop, (gives = fun P => vget x.r.pend qLs none = some id → ends P) →
    (∀ p ∈ [(0, wrap 32 (sext (value s 1) 8)), (1, wrap 32 (value s 1)), (2, wrap 32 (sext (value s 2) 16)), (3, wrap 32 (value s 2)),
            (4, wrap 32 (value s 4)), (10, wrap 32 (value s 4))],
      o.code = p.1 → gives fun q a => q.val = (p.2 : Word).setWidth 2048 ∧ SameMemory s a ∧ a.fbits = s.fbits) ∧
    ((o.code = 5 ∨ o.code = 14) → gives fun q a => q.val.toNat = value s 256 ∧ SameMemory s a ∧ a.fbits = s.fbits) ∧
    (∀ p ∈ [(11, 4), (15, 256)], o.code = p.1 → gives fun q a => q.val.toNat = value s p.2 ∧ SameMemory s a ∧
      ∀ g ∈ as p.2, a.fbit g = false) ∧
    (∀ p ∈ [(12, 4, o.o.scalar.toNat), (13, 4, o.o.scalar.toNat), (16, 256, o.o2.val.toNat)], o.code = p.1 →
      ends fun _ a => value a p.2.1 = p.2.2 ∧ SameMemoryBut (as p.2.1) s a ∧ ∀ g ∈ as p.2.1, a.fbit g = true) ∧
    (∀ p ∈ [(17, true), (18, false)], o.code = p.1 → o.addr.toNat % 32 = 0 → ∀ n g : Nat, n = o.o.scalar.toNat → o.pos < n →
      g = s.phys o.ctx (o.addr.toNat + 32 * o.pos) →
      (o.pos + 1 = n → ends fun _ a => SameMemory s a ∧ a.fbit g = p.2 ∧ ∀ h, h / 32 ≠ g / 32 → a.fbit h = s.fbit h) ∧
      (o.pos + 1 < n → Answers (.lsAccessComplete id) s fun a => SameMemory s a ∧ a.fbit g = p.2 ∧ (∀ h, h / 32 ≠ g / 32 → a.fbit h = s.fbit h) ∧
        a.wk.ls.find? (fun e => e.id == id) = some { o with pos := o.pos + 1 } ∧ a.ctxs = s.ctxs)) ∧
    (o.code = 19 → gives fun q a => q.scalar = bit (s.fbit (s.phys o.ctx o.addr.toNat) = true) ∧ SameMemory s a) ∧
    (o.code = 20 → gives fun q a => q.scalar = 0 ∧ SameMemory s a ∧ a.fbits = s.fbits) ∧
    (∀ w b c : Word, w = wrap 32 (value s 4) → b = o.o.scalar → c = o.o2.scalar →
      ∀ p ∈ [(21, wrap 32 (zz w + zz b)), (22, if w = b then c else w), (23, b), (24, if zs w < zs b then b else w)],
      o.code = p.1 → gives fun q a => q.scalar = w ∧ value a 4 = (p.2 : Word).toNat ∧ SameMemoryBut (as 4) s a ∧ a.fbits = s.fbits)) ∧
  (∀ (s : State) (id : Nat) (o : LsOp) (x : Ctx), s.wk.ls.find? (fun e => e.id == id) = some o → s.ctx? o.ctx = some x →
      (lsWaits o.code).isSome = true → isLocal o.ctx o.addr.toNat = false → o.done = none → s.lsMay x o = true → s.lsReady o = true →
    Answers (.remoteFePerformed id) s fun a => a.ctxs = s.ctxs ∧ (∃ w ∈ a.wk.ls, w.id = id ∧ w.done.isSome = true) ∧
      (lsWaits o.code = some true → SameMemory s a))

/-- Barrier objects (R203 to R208): what init, arrive, wait and query return and leave in the object, that an arrival beyond the pending count
sets Overrun and counts nothing, that it posts BAR_OVERRUN with its count and an init of an object with waiters BAR_BUSY with the address
and their number, and that an expired wait gives 1 while its phase still stands and 0 when it is over. Each completes by its own effect:
lsAccessComplete, barWaitTimeout. -/
def Obligations.BarrierObjects : Prop :=
  ∀ (s : State) (id : Nat) (o : LsOp) (x : Ctx) (b : BarObj), s.wk.ls.find? (fun e => e.id == id) = some o → s.ctx? o.ctx = some x →
    o.addr.toNat % 16 = 0 → b = s.bar o → (∀ k, (s.core k).fenced = false) →
  (o.done = none → o.arrived = none → o.late = none → s.lsMay x o = true → s.lsReady o = true →
    (isLocal o.ctx o.addr.toNat = true → o.cyc + 3 ≤ (s.core (coreOf o.ctx)).cyc) → vget x.r.pend qLs none = some id →
    ∀ n : Nat, n = o.o.scalar.toNat →
    ∀ gives : (Word → State → Prop) → Prop, (gives = fun P => Answers (.lsAccessComplete id) s fun a =>
      SameMemoryBut (s.barPhys o) s a ∧ (∀ e ∈ a.wk.ls, e.id ≠ id) ∧
      ∃ y, a.ctx? o.ctx = some y ∧ y.r.sr = x.r.sr ∧ P (vget y.r.res qLs PV.zero).scalar a) →
    (o.code = 25 → b.waiters = 0 → gives fun q a => q = 0 ∧
      a.bar o = { pending := n, expected := n, phase := 0, overrun := false, waiters := 0, completions := 0 }) ∧
    (o.code = 25 → b.waiters ≠ 0 → gives fun q a => q = 0 ∧ (a.bar o).phase = b.phase ∧ (a.bar o).pending = b.pending) ∧
    (o.code = 26 → n < b.pending → gives fun q a => q.toNat = b.phase ∧ (a.bar o).pending = b.pending - n ∧ (a.bar o).phase = b.phase ∧
      (a.bar o).completions = b.completions ∧ (a.bar o).overrun = b.overrun) ∧
    (o.code = 26 → n = b.pending → gives fun q a => q.toNat = b.phase + 16 ∧ (a.bar o).pending = b.expected ∧
      (a.bar o).phase = (b.phase + 1) % 16 ∧ (a.bar o).completions = (b.completions + 1) % 2 ^ 32) ∧
    (o.code = 26 → b.pending < n → gives fun q a => q.toNat = b.phase + 256 ∧ (a.bar o).overrun = true ∧ (a.bar o).pending = b.pending ∧
      (a.bar o).phase = b.phase) ∧
    (∀ p ∈ [(25, b.waiters ≠ 0, 0x51, o.addr.toNat + 2 ^ 32 * b.waiters), (26, b.pending < n, 0x50, n)], o.code = p.1 → p.2.1 →
      x.halted = false → x.stop = none → s.actionFor x.pid 5 = 0 → WindowOpen s →
      Answers (.lsAccessComplete id) s fun a => (∃ y st, a.ctx? o.ctx = some y ∧ y.stop = some st ∧ st.cls = 5 ∧ st.resume = x.r.pc) ∧
        ∃ r, Posts s a r ∧ r.length = 32 ∧ leNat (r.take 1) = 5 ∧ leNat ((r.drop 1).take 1) = 0 ∧ leNat ((r.drop 2).take 2) = p.2.2.1 ∧
          leNat ((r.drop 24).take 8) = p.2.2.2) ∧
    (o.code = 28 → gives fun q a => q.toNat = b.pending ∧ a.bar o = b) ∧
    (o.code = 27 → b.phase ≠ o.o2.scalar.toNat → gives fun q a => q = 0 ∧ a.bar o = b) ∧
    (o.code = 27 → b.phase = o.o2.scalar.toNat → n = 0 → gives fun q a => q = 1 ∧ a.bar o = b) ∧
    (o.code = 27 → b.phase = o.o2.scalar.toNat → n ≠ 0 → Answers (.lsAccessComplete id) s fun a =>
      (a.bar o).waiters = (b.waiters + 1) % 2 ^ 24 ∧ (a.bar o).phase = b.phase ∧ ∃ w ∈ a.wk.ls, w.id = id ∧ w.done = none ∧
        w.arrived = some (s.holderCyc o))) ∧
  (s.waitExpired o = true → Answers (.barWaitTimeout id) s fun a => (a.bar o).waiters = b.waiters - 1 ∧ (a.bar o).phase = b.phase ∧
    SameMemoryBut (s.barPhys o) s a ∧ ∃ w ∈ a.wk.ls, w.id = id ∧ w.done = some (num (if b.phase = o.o2.scalar.toNat then 1 else 0)))

/-- Stream ports (R209 to R212): sbind captures its set and counts, and keeps ahead of its own what an o port still buffers; an illegal word,
count or alignment raises ILL_TRIG; sunbind unbinds the port and reports how many elements were moved; the transfer path appends the
element at the next address of an i port to its buffer, and writes the oldest element of an o port to memory. What an o port still
buffers, which a push of the same bundle left, staying ahead, and the value of ILL_TRIG are the model's readings or choices (log entries
10 and 15). Each completes by its own effect: streamElementTransfer, lsSbind, lsSunbind. -/
def Obligations.StreamPorts : Prop :=
  ∀ (s : State),
  (∀ (t : Trig) (x : Ctx), Runs s t x →
    ∀ y c port m : Nat, y = t.y.scalar.toNat → c = (x.portW oLsO).toNat → port = y % 8 → m = (if t.y.scalar.getLsbD 12 then 32 else 4) →
    ∀ fault : Nat → State, (fault = fun v => s.takeFault t.ctx t.bno
      { cls := 1, code := 0x13, flags := 1, slot := t.slot, subcode := 0, bno := t.bno, value := v }) →
    ∀ aligned : Prop, aligned = (∀ v ∈ [t.ag.a.val, t.ag.n.val, t.ag.b.val, t.ag.k.val, t.ag2.n.val], v.toNat % m = 0) →
    (y < 2 ^ 14 → c % 2 ^ 16 ≠ 0 → c / 2 ^ 16 ≠ 0 → aligned → ∃ b : Binding,
      exec .lsSbind s = .next (s.putCtx t.ctx { x with r := { x.r with binds := vset x.r.binds port (some b) } }) ∧
      b.a = t.ag.a.val ∧ b.n = t.ag.n.val ∧ b.m = t.ag2.n.val ∧ b.b = t.ag.b.val ∧ b.k = t.ag.k.val ∧ b.c1 = c % 2 ^ 16 ∧ b.c2 = c / 2 ^ 16 ∧
      b.wide = t.y.scalar.getLsbD 12 ∧ b.fe = t.y.scalar.getLsbD 13 ∧ b.taken = 0 ∧ b.moved = 0 ∧
      b.buf = (match vget x.r.binds port none with | some q => if port < 4 then [] else q.buf | none => [])) ∧
    (2 ^ 14 ≤ y → exec .lsSbind s = .next (fault y)) ∧
    (y < 2 ^ 14 → (c % 2 ^ 16 = 0 ∨ c / 2 ^ 16 = 0) → exec .lsSbind s = .next (fault c)) ∧
    (y < 2 ^ 14 → c % 2 ^ 16 ≠ 0 → c / 2 ^ 16 ≠ 0 → ¬ aligned → exec .lsSbind s = .next (fault y)) ∧
    (8 ≤ y → exec .lsSunbind s = .next (fault y)) ∧
    (y < 8 → ∀ n, n = (match vget x.r.binds port none with | some b => if b.closed then 0 else b.taken | none => 0) →
      Answers .lsSunbind s fun a => SameMemory s a ∧ ∃ o z, a.wk.ls = s.wk.ls ++ [o] ∧ o.o = num n ∧ a.ctx? t.ctx = some z ∧
        (∀ b, vget z.r.binds port none = some b → b.closed = true) ∧ vget z.r.pend qLs none = some o.id)) ∧
  (∀ (c : Nat) (x : Ctx) (p : Nat) (b : Binding), s.ctx? c = some x → vget x.r.binds p none = some b → x.gate = [] → (∀ o ∈ s.wk.ls, o.ctx ≠ c) →
    (p < 4 → b.moved < b.c1 * b.c2 → b.buf.length < 8 → elementLegal b b.moved = true → s.awaiting x b.born = false →
      x.pushedBefore b.born = false → (b.fe = true → s.elementF (s.elementPhys c b b.moved) true = true) →
      Answers (.streamElementTransfer c p) s fun a => SameMemory s a ∧ ∃ z q e, a.ctx? c = some z ∧
        vget z.r.binds p none = some q ∧ q.buf = b.buf ++ [e] ∧ q.moved = b.moved + 1 ∧ q.taken = b.taken ∧ e.addr = elementAddr b b.moved ∧
        (b.wide = false → e.val.scalar = wrap 32 (leNat ((s.elementPhys c b b.moved).map s.byte))) ∧
        (b.wide = true → e.val.val.toNat = leNat ((s.elementPhys c b b.moved).map s.byte)) ∧
        (b.fe = true → ∀ g ∈ s.elementPhys c b b.moved, a.fbit g = false)) ∧
    (∀ e rest, 4 ≤ p → p < 8 → b.buf = e :: rest → (∀ o ∈ s.wk.gv, o.ctx ≠ c) → s.awaiting x e.id = false → x.pushedBefore e.id = false →
      e.wide = false → e.addr % 4 = 0 → (∀ j, (s.core j).fenced = false) → (e.fe = true → s.elementF (s.elemPhys c e) false = true) →
      Answers (.streamElementTransfer c p) s fun a => SameMemoryBut (s.elemPhys c e) s a ∧
        leNat ((s.elemPhys c e).map a.byte) = e.val.scalar.toNat ∧ (e.fe = true → ∀ g ∈ s.elemPhys c e, a.fbit g = true) ∧
        ∃ z, a.ctx? c = some z ∧ z.r.sr = x.r.sr ∧ z.r.vr = x.r.vr ∧ ∀ q, vget z.r.binds p none = some q → q.buf = rest))

/-- The triggers of a barrier network (R232 to R234): an arrival joins the open round of its pair, or opens one, with its vote, and waits
unless it only arrives; a wait for a round that is over answers 0 at once and otherwise joins the waiting; an illegal scope or operand
raises ILL_TRIG. A round of a barrier network is over (R233): once every barge of its scope has been placed, and each participant has
arrived with its scratchpad stores performed, or has halted or retired, the round is gone, and those that wait get 0, the OR or the AND of
the votes; until then nothing changes. The triggers of publication, acquire, phase and fence (R235): a legal one joins the operations
under way and marks bn.q pending, and an operand outside its form raises ILL_TRIG. Each completes by its own effect: bnRoundComplete,
bnSync, bnArrive, bnWait, bnPub, bnAcq, bnPhase, bnFence, bnVoteAny, bnVoteAll. -/
def Obligations.BarriersRoundsAndPublication : Prop :=
  (∀ (s : State) (t : Trig) (x : Ctx), Runs s t x →
    ∀ y scope bid key : Nat, y = t.y.scalar.toNat → scope = y % 8 → bid = y / 8 % 4 → key = scope * 4 + bid →
    ∀ vote : Bool, vote = (x.portW oBnO).getLsbD 0 →
    ((y < 32 ∧ scope < 5) →
      (∀ p ∈ [(Instr.bnSync, true), (.bnArrive, false), (.bnVoteAny, true), (.bnVoteAll, true)],
        ∀ before : Option Round, before = s.openRound t.ctx scope bid →
        Answers p.1 s fun a => SameMemory s a ∧ ∃ r ∈ a.wk.rounds, ∃ tk, r.scope = scope ∧ r.bid = bid ∧ r.unit = s.bnUnit t.ctx scope ∧
          r.complete = false ∧ (∀ q, before = some q → r.id = q.id) ∧ r.arrived = ((before.map Round.arrived).getD []) ++ [(x.pid, tk)] ∧
          (p.1 = .bnVoteAny → r.orVote = (((before.map Round.orVote).getD false) || vote)) ∧
          (p.1 = .bnVoteAll → r.andVote = (((before.map Round.andVote).getD true) && vote)) ∧
          ∃ z, a.ctx? t.ctx = some z ∧ z.lastArr.find key = some r.id ∧ z.r.sr = x.r.sr ∧ z.r.vr = x.r.vr ∧ z.gate = x.gate ∧
            z.r.pend = (if p.2 then vset x.r.pend qBn (some tk) else x.r.pend) ∧
            (p.2 = true → ∃ w ∈ r.waiting, w.1 = x.pid ∧ w.2 / 4 = tk)) ∧
      ((∀ i, x.lastArr.find key = some i → ∀ r ∈ s.wk.rounds, r.id ≠ i) → Answers .bnWait s fun a => a.wk = s.wk ∧ SameMemory s a ∧
        ∃ z, a.ctx? t.ctx = some z ∧ vget z.r.res qBn PV.zero = PV.ofWord 0 false ∧ vget z.r.pend qBn none = none ∧ z.r.sr = x.r.sr) ∧
      (∀ i r, x.lastArr.find key = some i → r ∈ s.wk.rounds → r.id = i → r.complete = false → (∀ q ∈ s.wk.rounds, q.id = i → q = r) →
        Answers .bnWait s fun a => SameMemory s a ∧ (∃ z tk, a.ctx? t.ctx = some z ∧ z.r.pend = vset x.r.pend qBn (some tk) ∧
          ({ r with waiting := r.waiting ++ [(x.pid, tk * 4)] } : Round) ∈ a.wk.rounds))) ∧
    (¬ (y < 32 ∧ scope < 5) → ∀ i ∈ [Instr.bnSync, .bnArrive, .bnVoteAny, .bnVoteAll, .bnWait], exec i s = .next (s.takeFault t.ctx t.bno
      { cls := 1, code := 0x13, flags := 1, slot := t.slot, subcode := 0, bno := t.bno, value := y }))) ∧
  (∀ (s : State) (r : Round), s.wk.rounds.find? (fun q => q.id == r.id) = some r →
    (s.unplaced r = false → (∀ pid ∈ s.members r, s.counted r pid = true) → Answers (.bnRoundComplete r.id) s fun a => (∀ q ∈ a.wk.rounds, q.id ≠ r.id) ∧
      SameMemory s a ∧ a.fbits = s.fbits ∧
      ∀ pid tk kind b x c, r.waiting = [(pid, tk * 4 + kind)] → kind < 3 → s.barge? (pid / 2 ^ 10) = some b → b.save = none →
        b.ctxs[pid % 2 ^ 10]? = some c → s.ctx? c = some x → vget x.r.pend qBn none = some tk →
        ∃ y, a.ctx? c = some y ∧ vget y.r.pend qBn none = none ∧ (vget y.r.res qBn PV.zero).scalar =
          (if kind = 1 then bit (r.orVote = true) else if kind = 2 then bit (r.andVote = true) else 0)) ∧
    ((s.unplaced r = true ∨ ∃ pid ∈ s.members r, s.counted r pid = false) → exec (.bnRoundComplete r.id) s = .next s)) ∧
  (∀ (s : State) (t : Trig) (x : Ctx), Runs s t x → ∀ y : Nat, y = t.y.scalar.toNat →
    ∀ p ∈ [(Instr.bnPub, 3, y < 6), (.bnAcq, 4, y < 6), (.bnPhase, 5, y < 6), (.bnFence, 6, y = 0)],
    (p.2.2 → exec p.1 s = .next { s with
      nextId := s.nextId + 1,
      wk := { s.wk with pubs := s.wk.pubs ++ [{ id := s.nextId, ctx := t.ctx, code := p.2.1, scope := y, before := s.nextId }] },
      ctxs := s.ctxs.put t.ctx { x with r := { x.r with pend := vset x.r.pend qBn (some s.nextId) } } }) ∧
    (¬ p.2.2 → exec p.1 s = .next (s.takeFault t.ctx t.bno
      { cls := 1, code := 0x13, flags := 1, slot := t.slot, subcode := 0, bno := t.bno, value := y })))

/-- Marks (R314, R316): at a boundary that needs a mark of its kind, and with the earlier translations done, a mark copies the registers with
the results that the next bundle may read and the results still in flight, releases the gated stores to the drain and opens a new region;
nothing else of the machine changes. Each completes by its own effect: restartMark, implicitMark. -/
def Obligations.MarksCopyTheContext : Prop :=
  ∀ (s : State) (c : Nat) (x : Ctx), s.ctx? c = some x →
  ∀ p ∈ [(Instr.restartMark c, true), (.implicitMark c, false)],
  (s.needsMark c = some p.2 → s.untranslated c = false → ∀ landed : Ctx, landed = x.land (x.last + 1) →
    exec p.1 s = .next (s.putCtx c { x with
      r := landed.r, flights := landed.flights, gate := x.gate.map fun g => { g with released := true },
      shadow := some (landed.r, landed.inFlight), region := s.nextId, issued := 0, marked := true, needMark := false })) ∧
  ((s.needsMark c ≠ some p.2 ∨ s.untranslated c = true) → exec p.1 s = .next s)

/-- A core's cycle (R70, R71, R75, R303 to R305): in a bubble, or with no context that may issue, the cycle counter advances and every
register, result and loop frame stays; a bundle whose moves can all go on issues, its plain writes take effect on values read before the
bundle, and its triggers wait in order; a bundle that finds a fault changes no register and takes it with its own number. That a core
number past the last stops under a name (log entry 94) and the order in which one bundle's triggers execute (log entries 95 and 105) are
the model's choices. Completes by its own effect: bundleIssue. -/
def Obligations.BundlesIssue : Prop :=
  ∀ (s : State) (core : Nat), (2304 ≤ core → exec (.bundleIssue core) s = .fault .noSuchUnit) ∧ (core < 2304 → s.coreDue core = none →
  ((s.core core).bubble = true ∨ s.candidate core = none → Answers (.bundleIssue core) s fun a =>
    (a.core core).cyc = (s.core core).cyc + 1 ∧ a.micro = s.micro ∧ SameMemory s a ∧ a.wk = s.wk ∧
    ∀ c x, s.ctx? c = some x → ∃ y, a.ctx? c = some y ∧ y.r = x.r ∧ y.flights = x.flights ∧ y.gate = x.gate ∧ y.halted = x.halted) ∧
  (∀ h c x b ms, (s.core core).bubble = false → s.candidate core = some h → h < 4 → c = ctxOf core h → s.ctx? c = some x →
    s.attempt c (s.core core).cyc = .go b ms →
    Answers (.bundleIssue core) s fun a => (a.core core).cyc = (s.core core).cyc + 1 ∧ (a.core core).current = h ∧ SameMemory s a ∧
      a.wk = s.wk ∧ a.nextId = s.nextId + 8 ∧ a.micro = (trigsInOrder ms).map (trigOf c x x.r.pc (s.core core).cyc) ∧
      (∃ y, a.ctx? c = some y ∧ y.r = issueRegs b ms s.nextId x.r ∧ y.last = (s.core core).cyc ∧ y.gate = x.gate ∧ y.acc = x.acc ∧
        y.halted = x.halted ∧ y.stop = x.stop) ∧
      ∀ d x', d ≠ c → s.ctx? d = some x' → ∃ y, a.ctx? d = some y ∧ y.r = x'.r ∧ y.flights = x'.flights ∧ y.gate = x'.gate) ∧
  (∀ h c x f, (s.core core).bubble = false → s.candidate core = some h → h < 4 → c = ctxOf core h → s.ctx? c = some x →
    s.attempt c (s.core core).cyc = .fault f → x.halted = false → x.stop = none → s.actionFor x.pid f.cls = 0 →
    Answers (.bundleIssue core) s fun a => (a.core core).cyc = (s.core core).cyc + 1 ∧ SameMemory s a ∧ a.micro = s.micro ∧
      ∃ y st, a.ctx? c = some y ∧ y.r = x.r ∧ y.stop = some st ∧ st.cls = f.cls ∧ st.resume = x.r.pc))

/-- Which bundle is illegal, by the checks of its words in their order: header, then slot by slot source, destination, trigger code, a br
trigger under REP and width, then the counted limits, two moves on one stream port, one destination, one unit (R62, R70, R74, R85, R86).
All non-empty slots count, whatever their guards. A bundle that passes is the fields of its words. The operands of ILL_HDR and ILL_WIDTH,
and that the i ports come before the o ports, are the model's choice (log entry 15). -/
def Obligations.BundlesDecode : Prop :=
  ∀ (s : State) (c cyc : Nat) (x : Ctx) (k : Kernel), s.ctx? c = some x → s.alive c x = true → s.kernelOf c = some k →
  ∀ fault : Nat → Nat → Nat → Nat → Attempt, (∀ code slot bno v, fault code slot bno v =
    .fault { cls := 1, code := code, flags := flPrecise, slot := slot, subcode := 0, bno := bno, value := v }) →
  (k.bundles.length ≤ x.r.pc → s.attempt c cyc = fault 0x10 8 k.bundles.length k.bundles.length) ∧
  ∀ (ws : List Word) (h : Word) (nlit rep : Nat), k.bundles[x.r.pc]? = some ws → h = ws.headD 0 → nlit = (h.extractLsb' 21 3).toNat →
  rep = (h.extractLsb' 8 8).toNat →
  ((h.extractLsb' 16 3 ≠ 0 ∨ h.extractLsb' 0 8 ≠ 0 ∨ ws.length < 7 + nlit) → s.attempt c cyc = fault 0x10 8 x.r.pc h.toNat) ∧
  (h.extractLsb' 16 3 = 0 → h.extractLsb' 0 8 = 0 → 7 + nlit ≤ ws.length →
    ∀ (ms : List Move) (view vsrc srcOk dstOk trigOk repOk widthOk : Move → Prop),
    ms = ((List.range 8).map fun j => moveOfWord j (slotWord ws j)).filter (fun m => m.guard != 8) →
    view = (fun m => 0x180 ≤ m.src ∧ m.src < 0x200) →
    vsrc = (fun m => (0x40 ≤ m.src ∧ m.src < 0x60) ∨ m.src ∈ [0xba, 0xbb, 0xbc, 0xbe, 0xe5]) →
    srcOk = (fun m => m.src < 0xac ∨ (0xb0 ≤ m.src ∧ m.src < 0xc3) ∨ (0xe0 ≤ m.src ∧ m.src < 0xef) ∨
      (0x100 ≤ m.src ∧ m.src < 0x100 + nlit) ∨ 0x180 ≤ m.src) →
    dstOk = (fun m => m.dst < 0xa0 ∨ (0xa1 ≤ m.dst ∧ m.dst < 0xac) ∨ (0xb0 ≤ m.dst ∧ m.dst < 0xcf) ∨ 0x200 ≤ m.dst) →
    trigOk = (fun m => m.dst < 0x200 ∨ (decodeTrigger m.dst).isSome = true) →
    repOk = (fun m => rep = 0 ∨ m.dst < 0x280 ∨ 0x290 ≤ m.dst) →
    widthOk = (fun m => ¬ (vsrc m ∧ 0xa1 ≤ m.dst ∧ m.dst < 0xa8) ∧ ¬ (view m ∧ (m.dst < 0x40 ∨ (0x60 ≤ m.dst ∧ m.dst < 0xa8) ∨
      (0xb0 ≤ m.dst ∧ m.dst < 0xc4) ∨ (0xc9 ≤ m.dst ∧ m.dst < 0xcf)))) →
    (∀ pre m post, ms = pre ++ m :: post → (∀ q ∈ pre, srcOk q ∧ dstOk q ∧ trigOk q ∧ repOk q ∧ widthOk q) →
      (¬ srcOk m → s.attempt c cyc = fault 0x11 m.slot x.r.pc m.src) ∧
      (srcOk m → ¬ dstOk m → s.attempt c cyc = fault 0x12 m.slot x.r.pc m.dst) ∧
      (srcOk m → dstOk m → ¬ trigOk m → s.attempt c cyc = fault 0x13 m.slot x.r.pc m.dst) ∧
      (srcOk m → dstOk m → trigOk m → ¬ repOk m → s.attempt c cyc = fault 0x18 m.slot x.r.pc m.dst) ∧
      (srcOk m → dstOk m → trigOk m → repOk m → ¬ widthOk m → s.attempt c cyc = fault 0x14 m.slot x.r.pc m.src)) ∧
    ((∀ m ∈ ms, srcOk m ∧ dstOk m ∧ trigOk m ∧ repOk m ∧ widthOk m) →
      ∀ (limits : List ((Move → Bool) × Nat × (Move → Nat))) (keys : List (Nat × (Move → Option Nat) × (Move → Nat))),
      limits = [(fun m : Move => decide (m.src < 0x40), 6, Move.src), (fun m : Move => decide (m.dst < 0x40), 4, Move.dst),
        (fun m : Move => (decide (0x40 ≤ m.src) && decide (m.src < 0x60)) || (decide (0x180 ≤ m.src) && decide (m.src < 0x200)), 3, Move.src),
        (fun m : Move => decide (0x40 ≤ m.dst) && decide (m.dst < 0x60), 2, Move.dst), (fun m : Move => decide (0x180 ≤ m.src) && decide (m.src < 0x200), 2, Move.src)] →
      keys = [(0x15, fun m : Move => if 0xa8 ≤ m.src && m.src < 0xac then some m.src else none, Move.src),
        (0x15, fun m : Move => if 0xa8 ≤ m.dst && m.dst < 0xac then some m.dst else none, Move.dst), (0x16, fun m : Move => some m.dst, Move.dst),
        (0x17, fun m : Move => if 0x200 ≤ m.dst then some (unitOf m.dst) else none, Move.dst)] →
      (∀ i l m, limits[i]? = some l → (∀ q ∈ limits.take i, (ms.filter q.1).length ≤ q.2.1) → (ms.filter l.1)[l.2.1]? = some m →
        s.attempt c cyc = fault 0x15 8 x.r.pc (l.2.2 m)) ∧
      ((∀ q ∈ limits, (ms.filter q.1).length ≤ q.2.1) →
        (∀ i e pre m post u, keys[i]? = some e → (∀ q ∈ keys.take i, (ms.filterMap q.2.1).Nodup) → ms = pre ++ m :: post →
          (pre.filterMap e.2.1).Nodup → e.2.1 m = some u → u ∈ pre.filterMap e.2.1 → s.attempt c cyc = fault e.1 8 x.r.pc (e.2.2 m)) ∧
        ((∀ q ∈ keys, (ms.filterMap q.2.1).Nodup) → s.nextBundle c x = .ok
          { waitf := h.extractLsb' 24 8, mark := h.getLsbD 20, clrf := h.getLsbD 19, rep := rep, lits := (ws.drop 7).take nlit,
            moves := ms }))))

/-- What a legal bundle does (R70 to R73, R75, R79 to R81, R85, R376): it waits for its flags before its first issue, and for ports, queues,
limits and divisions; a pop or push of a port with no binding, a view pushed to a narrow port and a poisoned source fault, an illegal
bundle before any other class and then the lowest slot; otherwise exactly its unguarded moves issue, each value in the width of its
destination. An issue clears the named flags the first time, writes registers and predicates and counts its repetitions. -/
def Obligations.BundleChecks : Prop :=
  ∀ (s : State) (c cyc : Nat) (x : Ctx) (b : Bundle), s.ctx? c = some x → s.alive c x = true → s.nextBundle c x = .ok b →
  ∀ (act : List Move) (core : Nat), core = c / 4 →
  act = b.moves.filter (fun m => m.guard == 0 || (m.guard < 8 && x.r.pr.getLsbD m.guard) || (8 < m.guard && !x.r.pr.getLsbD (m.guard - 8))) →
  ((x.r.rep = none ∧ x.r.flags &&& b.waitf ≠ b.waitf) → s.attempt c cyc = .wait) ∧
  ((x.r.rep = none → x.r.flags &&& b.waitf = b.waitf) → markNeed x b act = none → x.gate.length + gatedStores act ≤ 64 →
    (∀ t, (s.core core).take = some t → t.1 ≠ c) →
    (∀ m ∈ act, ∀ y : Word, y = (s.moveValue c x x.r.pc b.lits m).scalar →
      ((0xb0 ≤ m.src ∧ m.src < 0xc3 ∧ vget x.r.pend (m.src - 0xb0) none ≠ none) ∨
       (∃ p, 0xa8 ≤ m.src ∧ m.src < 0xac ∧ vget x.r.binds (m.src - 0xa8) none = some p ∧ p.buf = [] ∧ elementLegal p p.taken = true) ∨
       (∃ p, 0xa8 ≤ m.dst ∧ m.dst < 0xac ∧ vget x.r.binds (m.dst - 0xa4) none = some p ∧ p.closed = false ∧ 8 ≤ p.buf.length ∧
         elementLegal p p.taken = true ∧ (p.wide = true ∨ m.src < 0x180 ∨ 0x200 ≤ m.src)) ∨
       (0x240 ≤ m.dst ∧ m.dst < 0x260 ∧ ∃ d, (s.core core).div = some d ∧ (d.1 = c ∨ (0x244 ≤ m.dst ∧ m.dst ≤ 0x247))) ∨
       (0x244 ≤ m.dst ∧ m.dst ≤ 0x247 ∧ ∃ f ∈ x.flights, f.port = 2 ∧ cyc < f.due) ∨
       (0x292 ≤ m.dst ∧ m.dst < 0x2a0 ∧ 16 ≤ (s.mxOf core).length) ∨ (0x2a0 ≤ m.dst ∧ m.dst < 0x2b0 ∧ 4 ≤ (s.rwOf core).length) ∨
       (0x2b0 ≤ m.dst ∧ m.dst < 0x2b5 ∧ (32 ≤ (s.tilesOf core).length ∨ x.r.tlimit ≤ s.outstanding c)) ∨
       (0x2c0 ≤ m.dst ∧ m.dst < 0x2e0 ∧ ¬ (0x2c6 ≤ m.dst ∧ m.dst ≤ 0x2c9) ∧ m.dst ≠ 0x2dd ∧
         16 ≤ (s.wk.ls.filter fun o => o.ctx == c).length) ∨
       (∃ full, 0x2c0 ≤ m.dst ∧ m.dst < 0x2e0 ∧ lsWaits (m.dst - 0x2c0) = some full ∧ isLocal c y.toNat = true ∧
         ∃ g ∈ granules y.toNat (lsWidth (m.dst - 0x2c0)), s.fbit (s.phys c g) ≠ full) ∨
       (m.dst = 0x360 ∧ 16 ≤ s.gqUsed core)) → s.attempt c cyc = .wait) ∧
    (∀ m, act = [m] → ∀ fault : Nat → Nat → Nat → Attempt, (∀ cls code v, fault cls code v =
        .fault { cls := cls, code := code, flags := flPrecise, slot := m.slot, subcode := 0, bno := x.r.pc, value := v }) →
      ((0xa8 ≤ m.src ∧ m.src < 0xac ∧ vget x.r.binds (m.src - 0xa8) none = none ∧ m.dst < 0xa8) → s.attempt c cyc = fault 1 0x11 m.src) ∧
      ((m.src < 0xa8 ∧ 0xa8 ≤ m.dst ∧ m.dst < 0xac ∧ ∀ p, vget x.r.binds (m.dst - 0xa4) none = some p → p.closed = true) →
        s.attempt c cyc = fault 1 0x12 m.dst) ∧
      ((m.src < 0x40 ∧ (vget x.r.sr (x.r.sIndex m.src) PW.zero).poi = true ∧ m.dst < 0xa8) → s.attempt c cyc = fault 11 0xb0 m.src)) ∧
    (∀ found : List (Nat × Found), found = s.foundMoves c x cyc (s.liveMoves c x b act) → (∀ q ∈ found, q.2.need ≠ .wait) →
      ∀ pre post j f e, found = pre ++ (j, f) :: post →
      ((∀ q ∈ pre, ∀ g ∈ q.2.fails, g.cls ≠ 1) → (∃ l r, f.fails = l ++ e :: r ∧ ∀ g ∈ l, g.cls ≠ 1) → e.cls = 1 →
        s.attempt c cyc = .fault (e.info j x.r.pc)) ∧
      ((∀ q ∈ found, ∀ g ∈ q.2.fails, g.cls ≠ 1) → (∀ q ∈ pre, q.2.fails = []) → f.fails.head? = some e →
        s.attempt c cyc = .fault (e.info j x.r.pc))) ∧
    (act = [] → s.attempt c cyc = .go b []) ∧
    (∀ d ms, s.attempt c cyc = .go d ms → d = b ∧ ms.map Live.move = act ∧
      (∀ l ∈ ms, ∀ (w : Word) (v : PV), w = (vget x.r.sr (x.r.sIndex l.move.src) PW.zero).val →
        v = vget x.r.vr (x.r.vIndex (l.move.src - 0x40)) PV.zero →
        (l.move.src < 0x40 → l.val.scalar = w ∧ ((0x40 ≤ l.move.dst ∧ l.move.dst < 0x60) → ∀ j < 64, l.val.lane j = w)) ∧
        ((0x40 ≤ l.move.src ∧ l.move.src < 0x60) → l.val.scalar = v.lane 0 ∧ ((0x40 ≤ l.move.dst ∧ l.move.dst < 0x60) → l.val = v))) ∧
      (∀ (id : Nat) (r : Regs), r = issueRegs b ms id x.r →
        r.flags = (if x.r.rep = none ∧ b.clrf = true then x.r.flags &&& ~~~b.waitf else x.r.flags) ∧
        (x.r.rep = none → b.rep ≠ 0 → r.rep = some b.rep ∧ r.pc = x.r.pc) ∧
        (∀ n, x.r.rep = some (n + 2) → r.rep = some (n + 1) ∧ r.pc = x.r.pc) ∧
        ((x.r.rep = some 1 ∨ (x.r.rep = none ∧ b.rep = 0)) → r.rep = none ∧ r.redirect = none ∧
          (x.r.redirect = none → x.r.loops = [] → r.pc = x.r.pc + 1) ∧
          (∀ goal, x.r.redirect = some goal → (∀ m ∈ act, ¬ (0x287 ≤ m.dst ∧ m.dst ≤ 0x289)) → r.pc = goal)) ∧
        (∀ l ∈ ms, l.move.dst < 0x40 → vget r.sr (x.r.sIndex l.move.dst) PW.zero = l.val.toPW) ∧
        (∀ l ∈ ms, 0x40 ≤ l.move.dst → l.move.dst < 0x60 → vget r.vr (x.r.vIndex (l.move.dst - 0x40)) PV.zero = l.val) ∧
        (∀ l ∈ ms, 0xa1 ≤ l.move.dst → l.move.dst < 0xa8 → x.r.loops = [] →
          r.pr.getLsbD (l.move.dst - 0xa0) = l.val.scalar.getLsbD 0) ∧
        (∀ i < 64, (∀ m ∈ act, m.dst < 0x40 → x.r.sIndex m.dst ≠ i) → vget r.sr i PW.zero = vget x.r.sr i PW.zero))))

/-- The triggers of tx (R213 to R215, R217, R218, R220, R224): a legal command joins the queue with the operands of its trigger, clears its
flag and its fingerprint, and moves nothing yet; tx.ldr goes to the tail slot of its ring and advances the tail; a bad shape, flag word,
format, rounding or address raises its fault; tx.qlim, tx.qspc and tx.fpr do as their operands say. The value in the record of ILL_TRIG
and FMT_RESERVED (log entry 15), the bounds of a shape (log entry 29) and the reserved SF of tx.pf (log entry 30) are the model's choices.
Each completes by its own effect: txLd, txLdr, txSt, txCp, txPf, txFpr, txQlim, txQspc. -/
def Obligations.TileTriggers : Prop :=
  ∀ (s : State) (t : Trig) (x : Ctx), Runs s t x →
  ∀ y sh fl sf f : Nat, y = t.y.scalar.toNat → sh = (x.portW oTxS).toNat → fl = (x.portW oTxF).toNat → sf = fl / 32 % 16 → f = fl % 8 →
  ∀ fault : Nat → Nat → State, (fault = fun code v => s.takeFault t.ctx t.bno
    { cls := 1, code := code, flags := 1, slot := t.slot, subcode := 0, bno := t.bno, value := v }) →
  ∀ shapeOk fmtOk : Prop, shapeOk = (sh < 2 ^ 18 ∧ 1 ≤ sh % 512 ∧ sh % 512 ≤ 256 ∧ 1 ≤ sh / 512 ∧ sh / 512 ≤ 256) →
    fmtOk = (sf ≤ 10 ∧ (sf = 6 → field x.r.fmt 12 2 < 2) ∧ (sf ≠ 7 → rndReserved x.r.fmt = false)) →
  ∀ tile : Tile, tile = padTile x.r.fmt (x.portW oTxS) (x.portW oTxF) →
  ∀ fits : Nat → Prop, (fits = fun a => ((8 ≤ sf ∧ sf ≤ 10) → tile.cols % 32 = 0) ∧ tile.bytes ≤ 2 ^ 18 ∧ a / 2 ^ 22 ≤ 47 ∧ a % 2 ^ 22 + tile.bytes ≤ 2 ^ 22 ∧
    a % 32 = 0) →
  ∀ queues : Instr → Nat → Nat → Prop, (queues = fun i code dst => Answers i s fun a => SameMemory s a ∧ a.fbits = s.fbits ∧
    (∀ c, c ≠ t.ctx → a.ctx? c = s.ctx? c) ∧
    (∃ k, a.wk.tiles = s.wk.tiles ++ [k] ∧ k.ctx = t.ctx ∧ k.code = code ∧ k.dst = dst ∧ k.y = y ∧ k.h = x.portW oTxH ∧ k.h2 = x.portW oTxH2 ∧
      k.c = x.portW oTxC ∧ k.c2 = x.portW oTxC2 ∧ k.sh.toNat = sh ∧ k.fl.toNat = fl ∧ k.fmt = x.r.fmt ∧ k.started = false ∧ k.bad = none) ∧
    ∃ z, a.ctx? t.ctx = some z ∧ z.r.flags = x.r.flags &&& ~~~(1#8 <<< f) ∧ vget z.r.fprs f Fpr.zero = Fpr.zero ∧ z.r.sr = x.r.sr ∧
      z.r.vr = x.r.vr ∧ z.r.pend = x.r.pend ∧ z.gate = x.gate) →
  (∀ p ∈ [(Instr.txLd, 0), (.txSt, 2)],
    (shapeOk → fl < 2 ^ 12 → fmtOk → fits y → queues p.1 p.2 y) ∧
    (shapeOk → fl < 2 ^ 12 → fmtOk → tile.bytes ≤ 2 ^ 18 → ((8 ≤ sf ∧ sf ≤ 10) → tile.cols % 32 = 0) → ¬ fits y → exec p.1 s = .next (fault 0x13 y)) ∧
    (shapeOk → fl < 2 ^ 12 → fmtOk → (2 ^ 18 < tile.bytes ∨ (8 ≤ sf ∧ sf ≤ 10 ∧ tile.cols % 32 ≠ 0)) → exec p.1 s = .next (fault 0x13 sh))) ∧
  (∀ q, s.ringOf t.ctx y = some q → y < 16 →
    (shapeOk → fl < 2 ^ 12 → fmtOk → fits (s.tailAddr t.ctx y) → tile.bytes ≤ q.slotSize → queues .txLdr 1 (s.tailAddr t.ctx y)) ∧
    (shapeOk → fl < 2 ^ 12 → fmtOk → fits (s.tailAddr t.ctx y) → q.slotSize < tile.bytes → exec .txLdr s = .next (fault 0x13 y)) ∧
    (∀ b, shapeOk → fl < 2 ^ 12 → fmtOk → fits (s.tailAddr t.ctx y) → tile.bytes ≤ q.slotSize → s.bargeOf t.ctx = some b →
      Answers .txLdr s fun a => a.ringPos t.ctx y = ((s.ringPos t.ctx y).1, ((s.ringPos t.ctx y).2 + 1) % q.slots))) ∧
  ((s.ringOf t.ctx (y % 16) = none ∨ 16 ≤ y) → shapeOk → fl < 2 ^ 12 → fmtOk → exec .txLdr s = .next (fault 0x13 y)) ∧
  (shapeOk → fl < 2 ^ 12 → rndReserved x.r.fmt = false → queues .txCp 3 y) ∧
  (shapeOk → fl < 2 ^ 12 → rndReserved x.r.fmt = true → exec .txCp s = .next (fault 0x19 x.r.fmt.toNat)) ∧
  (shapeOk → fl < 2 ^ 12 → sf ≤ 10 → fl / 8 % 2 = 0 → queues .txPf 4 y) ∧
  (shapeOk → fl < 2 ^ 12 → sf ≤ 10 → fl / 8 % 2 = 1 → exec .txPf s = .next (fault 0x13 fl)) ∧
  (shapeOk → fl < 2 ^ 12 → 10 < sf → exec .txPf s = .next (fault 0x19 sf)) ∧
  (∀ i ∈ [Instr.txLd, .txLdr, .txSt, .txCp, .txPf], (¬ shapeOk → exec i s = .next (fault 0x13 sh)) ∧
    (shapeOk → 2 ^ 12 ≤ fl → exec i s = .next (fault 0x13 fl))) ∧
  (∀ i ∈ [Instr.txLd, .txLdr, .txSt], shapeOk → fl < 2 ^ 12 → ¬ fmtOk → exec i s = .next (fault 0x19 (if 10 < sf then sf else x.r.fmt.toNat))) ∧
  (1 ≤ y → y ≤ 32 → exec .txQlim s = .next (s.putCtx t.ctx { x with r := { x.r with tlimit := y } })) ∧
  ((y < 1 ∨ 32 < y) → exec .txQlim s = .next (fault 0x13 y)) ∧
  (Answers .txQspc s fun a => a.wk = s.wk ∧ SameMemory s a ∧ ∃ z, a.ctx? t.ctx = some z ∧ z.r.sr = x.r.sr ∧ vget z.r.pend qTx none = none ∧
    (vget z.r.res qTx PV.zero).scalar.toNat = min (32 - (s.wk.tiles.filter fun k => k.core == coreOf t.ctx).length)
      (x.r.tlimit - (s.wk.tiles.filter fun k => k.ctx == t.ctx).length)) ∧
  (y < 32 → (∀ w ∈ s.wk.fprWaits, w.id < s.nextId) →
    ((∀ k ∈ s.wk.tiles, k.ctx = t.ctx → tileFlag k.fl ≠ y % 8) → Answers .txFpr s fun a => SameMemory s a ∧ ∃ z, a.ctx? t.ctx = some z ∧
      vget z.r.pend qTx none = none ∧ z.r.sr = x.r.sr ∧ ∀ p, p = vget x.r.fprs (y % 8) Fpr.zero →
      (vget z.r.res qTx PV.zero).scalar = (if y / 8 = 0 then p.nan else if y / 8 = 1 then p.mx else if y / 8 = 2 then p.s else p.q)) ∧
    ((∃ k ∈ s.wk.tiles, k.ctx = t.ctx ∧ tileFlag k.fl = y % 8) → Answers .txFpr s fun a => SameMemory s a ∧ ∃ z, a.ctx? t.ctx = some z ∧
      vget z.r.pend qTx none = some s.nextId ∧ vget z.r.res qTx PV.zero = vget x.r.res qTx PV.zero)) ∧
  (32 ≤ y → exec .txFpr s = .next (fault 0x13 y))

/-- Tile commands under way (R215, R219, R221 to R225): a stale handle or a failing pair ends the command with its fault and moves no data;
one page after another is translated; a command starts once all are; a load lands its next granule, sets it full and its flag with the
last; a store of FP32 leaves every element of the tensor at its home, and every other byte of every home as it was, and with CE its source
empty; every finished command sets its flag. That a load lands one granule a step in ascending order, and a store, copy or prefetch
finishes what it has left in one step, is the model's choice (log entry 21). Each completes by its own effect: tileCmdTranslate,
tileCmdComplete, translationWalk. -/
def Obligations.TileCommands : Prop :=
  ∀ (s : State) (id : Nat) (k : TileCmd) (x : Ctx), s.wk.tiles.find? (fun e => e.id == id) = some k → s.ctx? k.ctx = some x →
  ∀ flag : State → Prop, (flag = fun a => (∀ e ∈ a.wk.tiles, e.id ≠ id) ∧ ∃ y, a.ctx? k.ctx = some y ∧
    y.r.flags = x.r.flags ||| (1#8 <<< tileFlag k.fl) ∧ y.r.sr = x.r.sr ∧ y.r.vr = x.r.vr) →
  ∀ home : State → Nat → Nat → Nat, (home = fun a t i => leNat ((List.range 4).map fun b => (a.homeByte (storeAddr t (4 * i + b))).1)) →
  ∀ others : State → List Nat → Prop, (others = fun a as => ∀ b, (∀ e ∈ as, b < e ∨ e + 4 ≤ b) → (a.homeByte b).1 = (s.homeByte b).1) →
  ∀ pad : State → Nat → Nat, (pad = fun a i => leNat ((List.range 4).map fun b => a.byte (s.phys k.ctx (k.dst + i + b)))) →
  (s.wk.gv.find? (fun e => e.id == id) = none →
    (∀ h, k.listed = false → s.staleHandle k = some h → ∃ z : State, z.wk.tiles = s.wk.tiles.filter (fun e => e.id != id) ∧ z.mem = s.mem ∧
      exec (.translationWalk id) s = .next (z.imprecise k.ctx
        { cls := 9, code := 0x92, flags := 0, slot := k.slot, subcode := 0, bno := k.bno, value := h.toNat })) ∧
    (∀ p, k.listed = false → s.staleHandle k = none → s.sides k = some p → pairOk k p.1 p.2 = false →
      ∃ (z : State) (v : Nat), z.wk.tiles = s.wk.tiles.filter (fun e => e.id != id) ∧ z.mem = s.mem ∧
      exec (.translationWalk id) s = .next (z.imprecise k.ctx
        { cls := 1, code := 0x1a, flags := 0, slot := k.slot, subcode := 0, bno := k.bno, value := v })) ∧
    (∀ t p w rest e, k.listed = true → k.todo = (t, p, w) :: rest → s.mayWalk k.core id t p = true → s.coreLeaf k.core t p = some e → checkPage (some e) w false = none →
      Answers (.translationWalk id) s fun a => SameMemory s a ∧ a.ctxs = s.ctxs ∧ ({ k with todo := rest } : TileCmd) ∈ a.wk.tiles) ∧
    (∀ t p w rest, k.listed = true → k.todo = (t, p, w) :: rest → s.mayWalk k.core id t p = true → s.coreLeaf k.core t p = none → k.code = 4 →
      Answers (.translationWalk id) s fun a => SameMemory s a ∧ a.ctxs = s.ctxs ∧ ({ k with todo := rest } : TileCmd) ∈ a.wk.tiles) ∧
    (∀ t p w rest, k.listed = true → k.todo = (t, p, w) :: rest → s.mayWalk k.core id t p = false →
      exec (.translationWalk id) s = .next (s.queueWalk k.core id)) ∧
    (∀ t p w rest, k.listed = true → k.todo = (t, p, w) :: rest → s.mayWalk k.core id t p = true → s.coreLeaf k.core t p = none → k.code ≠ 4 → x.halted = false → x.stop = none →
      s.actionFor x.pid 3 = 0 →
      Answers (.translationWalk id) s fun a => SameMemory s a ∧ (∀ e ∈ a.wk.tiles, e.id ≠ id) ∧
        ∃ y st, a.ctx? k.ctx = some y ∧ y.stop = some st ∧ st.cls = 3 ∧ y.flights = (if x.shadow.isSome then [] else x.flights))) ∧
  (k.listed = true → k.todo = [] → k.started = false → (∀ q ∈ s.wk.tiles, q.ctx = k.ctx → q.id ≤ id → q.started = true ∨ q.walked = true) →
    Answers (.tileCmdTranslate id) s fun a => SameMemory s a ∧ a.ctxs = s.ctxs ∧
      ({ k with started := true, sent := s.tileSent k } : TileCmd) ∈ a.wk.tiles) ∧
  (s.tileMay k = false → exec (.tileCmdComplete id) s = .next s) ∧
  (∀ r, s.tileMay k = true → k.code ≤ 1 → s.opLive? k.ctx k.h = some r → s.mayLand k = false → exec (.tileCmdComplete id) s = .next s) ∧
  (∀ r, s.tileMay k = true → k.code ≤ 1 → s.opLive? k.ctx k.h = some r → s.mayLand k = true →
    k.dst % 32 = 0 → 32 * k.pos + 32 ≤ k.tile.bytes → (s.core (coreOfPhys (s.phys k.ctx (k.dst + 32 * k.pos)))).fenced = false → k.bad = none →
    ∀ cv, cv = convert r.side k.pad (fmtRound k.fmt) (k.freeScale r.side k.pad) k.tile.rows k.tile.cols
      (fun a b => (s.tensorElem k (handleKey k.h) r (k.place a b).1 (k.place a b).2).1) →
    Answers (.tileCmdComplete id) s fun a =>
      (∀ i, i < 32 → a.byte (s.phys k.ctx (k.dst + 32 * k.pos + i)) = (k.tile.build cv.1 cv.2).getD (32 * k.pos + i) 0) ∧
      (∀ p, p < devBase → p ∉ s.physList k.ctx (k.dst + 32 * k.pos) 32 → a.byte p = s.byte p) ∧
      (LinesFit s (s.tileAddrs k) → tileRPL k.fl = false → SameMemoryBut (s.physList k.ctx (k.dst + 32 * k.pos) 32) s a) ∧ a.fbit (s.phys k.ctx (k.dst + 32 * k.pos)) = true ∧
      (r.fmt = 0 → tileSF k.fl = 0 → r.linear = true → k.tr = false → ∀ i j, i < k.nr → j < k.nc →
        32 * k.pos ≤ i * k.tile.pitch + 4 * j → i * k.tile.pitch + 4 * j < 32 * k.pos + 32 → pad a (i * k.tile.pitch + 4 * j) =
          (if k.c2.toNat + j < r.d0 ∧ k.c.toNat + i < r.rows then leNat ((List.range 4).map fun b =>
             (s.viewByte k.ctx id (storeAddr (handleKey k.h) (4 * ((k.c.toNat + i) * r.d0 + k.c2.toNat + j) + b))).1)
           else r.pad.toNat)) ∧
      (32 * k.pos + 32 ≠ k.tile.bytes → a.ctxs = s.ctxs ∧ ∃ q ∈ a.wk.tiles, q.id = id ∧ q.pos = k.pos + 1) ∧ (32 * k.pos + 32 = k.tile.bytes → flag a)) ∧
  (∀ r, s.tileMay k = true → k.code = 2 → s.sourceReady x k = true → s.opLive? k.ctx k.h = some r → k.gated = [] → k.got = [] → k.out = none → k.dst % 32 = 0 →
    (∀ g ∈ x.gate, g.isGlobal = true ∨ id ≤ g.opId) →
    (∀ g ∈ granules k.dst k.tile.bytes, (s.core (coreOfPhys (s.phys k.ctx g))).fenced = false ∧ (k.fw = true → s.fbit (s.phys k.ctx g) = true)) →
    HomesOpen s → LinesFit s (s.tileAddrs k) → s.ms.held = [] → r.fmt = 0 → r.linear = true →
    r.msa = false → r.ver = false → tileSF k.fl = 0 → k.tr = false → r.elems * 4 ≤ 2 ^ 45 →
    Answers (.tileCmdComplete id) s fun a => flag a ∧ SameMemory s a ∧ (tileCE k.fl = false → a.fbits = s.fbits) ∧
      (tileCE k.fl = true → ∀ g ∈ granules k.dst k.tile.bytes, a.fbit (s.phys k.ctx g) = false) ∧
      (∀ i j, i < k.nr → j < k.nc → k.c2.toNat + j < r.d0 → k.c.toNat + i < r.rows →
        home a (handleKey k.h) ((k.c.toNat + i) * r.d0 + k.c2.toNat + j) = pad s (i * k.tile.pitch + 4 * j)) ∧
      others a ((((List.range k.nr).flatMap fun i => (List.range k.nc).map fun j => (k.c.toNat + i, k.c2.toNat + j)).filter fun e =>
        r.inside e.1 e.2).map fun e => storeAddr (handleKey k.h) (4 * (e.1 * r.d0 + e.2)))) ∧
  (s.tileMay k = true → k.code = 2 → s.sourceReady x k = true → s.opLive? k.ctx k.h = none → tileSF k.fl ≠ 6 → k.got = [] → k.out = none →
    (k.fw = true → ∀ g ∈ granules k.dst k.tile.bytes, (s.core (coreOfPhys (s.phys k.ctx g))).fenced = false ∧ s.fbit (s.phys k.ctx g) = true) →
    Answers (.tileCmdComplete id) s fun a => flag a ∧ SameMemory s a ∧ others a []) ∧
  (s.tileMay k = true → k.code = 2 → s.sourceReady x k = true → k.got = [] → k.out = none → k.fw = true → granules k.dst k.tile.bytes ≠ [] →
    (∀ g ∈ granules k.dst k.tile.bytes, s.fbit (s.phys k.ctx g) = false) →
    Answers (.tileCmdComplete id) s fun a => SameMemory s a ∧ a.ctxs = s.ctxs ∧ a.fbits = s.fbits ∧ k ∈ a.wk.tiles) ∧
  (∀ r r2, s.tileMay k = true → k.code = 3 → k.bad = none → s.opLive? k.ctx k.h = some r → s.opLive? k.ctx k.h2 = some r2 → HomesOpen s →
    LinesFit s (s.tileAddrs k) → handleKey k.h ≠ handleKey k.h2 →
    x.gate = [] → r.fmt = 0 → r2.fmt = 0 → r.linear = true → r2.linear = true →
    r2.msa = false → r2.ver = false → k.tr = false → r.elems * 4 ≤ 2 ^ 45 → r2.elems * 4 ≤ 2 ^ 45 → s.ms.held = [] → k.out = none →
    Answers (.tileCmdComplete id) s fun a => flag a ∧ SameMemory s a ∧ a.fbits = s.fbits ∧
      others a ((((List.range k.nr).flatMap fun i => (List.range k.nc).map fun j => (k.y + i, k.c2.toNat + j)).filter fun e =>
        r2.inside e.1 e.2).map fun e => storeAddr (handleKey k.h2) (4 * (e.1 * r2.d0 + e.2))) ∧
      ∀ i j, i < k.nr → j < k.nc → k.c2.toNat + j < r.d0 → k.c.toNat + i < r.rows → k.c2.toNat + j < r2.d0 → k.y + i < r2.rows →
        home a (handleKey k.h2) ((k.y + i) * r2.d0 + k.c2.toNat + j) = home s (handleKey k.h) ((k.c.toNat + i) * r.d0 + k.c2.toNat + j)) ∧
  (s.tileMay k = true → k.code = 4 → k.bad = none → Answers (.tileCmdComplete id) s fun a => flag a ∧ a.fbits = s.fbits ∧ a.ms.held = s.ms.held ∧
    (∀ p, p < devBase → a.byte p = s.byte p) ∧ (LinesFit s (s.tileAddrs k) → tileRPL k.fl = false → SameMemory s a))

/-- The triggers of mx (R243, R244, R246, R249 to R251, R254): mx.shape and mx.ring write their registers, every other legal trigger takes an
entry of the operand queue with what it carries and marks mx.q pending. A field or tile bound out of range, a transposed MX operand,
columns that do not fill a codebook group or an MX run, an undeclared ring, a slot too small for its operand and a destination out of
place raise ILL_TRIG, a reserved matrix or drain format FMT_RESERVED, and a format-7 operand of an unclaimed bank CB_BANK. The values of
these records, but for CB_BANK, and which violation is reported first are the model's choice (log entry 15). Each completes by its own
effect: mxShape, mxRing, mxMma, mxMmaz, mxMmasm, mxDrain, mxDrainf, mxZero, mxLdacc, mxScale, mxRowstat, mxSmreset, mxFence. -/
def Obligations.MatrixTriggers : Prop :=
  ∀ (s : State) (t : Trig) (x : Ctx), Runs s t x →
  ∀ (y o : Nat) (sh f : Word), y = t.y.scalar.toNat → o = (x.portW oMxO).toNat → sh = x.r.shape → f = x.r.fmt →
  ∀ (m n kb tiles : Nat), m = sh.toNat % 256 → n = sh.toNat / 256 % 256 → kb = sh.toNat / 2 ^ 16 % 32 → tiles = ceilDiv m 32 * ceilDiv n 32 →
  ∀ empty : Prop, empty = (m = 0 ∨ n = 0) →
  ∀ fault : Nat → State, (fault = fun v => s.takeFault t.ctx t.bno
    { cls := 1, code := 0x13, flags := 1, slot := t.slot, subcode := 0, bno := t.bno, value := v }) →
  ∀ reserved : State, reserved = s.takeFault t.ctx t.bno
    { cls := 1, code := 0x19, flags := 1, slot := t.slot, subcode := 0, bno := t.bno, value := f.toNat } →
  ∀ queues : Instr → Nat → Prop, (queues = fun i code => Answers i s fun a => SameMemory s a ∧ a.fbits = s.fbits ∧
    (∀ c, c ≠ t.ctx → a.ctx? c = s.ctx? c) ∧
    ∃ q z, a.wk.mx = s.wk.mx ++ [q] ∧ q.ctx = t.ctx ∧ q.core = coreOf t.ctx ∧ q.code = code ∧ q.y = t.y.scalar ∧ q.o.val = x.portW oMxO ∧
      q.fmt = f ∧ q.shape = sh ∧ q.ring = x.r.ring ∧ q.trig = t.cyc ∧ q.start = none ∧ a.ctx? t.ctx = some z ∧
      z.r.pend = vset x.r.pend qMx (some q.id) ∧ z.r.sr = x.r.sr ∧ z.r.vr = x.r.vr ∧ z.r.flags = x.r.flags ∧ z.acc = x.acc ∧ z.gate = x.gate) →
  ((y < 2 ^ 21 ∧ 1 ≤ y / 2 ^ 16 ∧ y / 2 ^ 16 ≤ 16 ∧ y % 256 ≤ 128 ∧ y / 256 % 256 ≤ 128) →
    exec .mxShape s = .next (s.putCtx t.ctx { x with r := { x.r with shape := t.y.scalar } })) ∧
  (¬ (y < 2 ^ 21 ∧ 1 ≤ y / 2 ^ 16 ∧ y / 2 ^ 16 ≤ 16 ∧ y % 256 ≤ 128 ∧ y / 256 % 256 ≤ 128) → exec .mxShape s = .next (fault y)) ∧
  (y < 2 ^ 12 → exec .mxRing s = .next (s.putCtx t.ctx { x with r := { x.r with ring := BitVec.ofNat 12 y } })) ∧
  (2 ^ 12 ≤ y → exec .mxRing s = .next (fault y)) ∧
  (∀ p ∈ [(Instr.mxZero, 7, y < 64 ∧ y % 8 + y / 8 + 1 ≤ 8), (.mxScale, 9, y < 64 ∧ y % 8 + y / 8 % 4 + 1 ≤ 8), (.mxRowstat, 10, y < 512),
          (.mxSmreset, 11, y < 8), (.mxFence, 12, y = 0)],
    (p.2.2 → queues p.1 p.2.1) ∧ (¬ p.2.2 → exec p.1 s = .next (fault y))) ∧
  (o < 8 → y / 2 ^ 22 ≤ 47 → y % 2 ^ 22 + 4096 ≤ 2 ^ 22 → y % 32 = 0 → queues .mxLdacc 8) ∧ (8 ≤ o → exec .mxLdacc s = .next (fault o)) ∧
  (o < 8 → ¬ (y / 2 ^ 22 ≤ 47 ∧ y % 2 ^ 22 + 4096 ≤ 2 ^ 22 ∧ y % 32 = 0) → exec .mxLdacc s = .next (fault y)) ∧
  (∀ layoutOk ringsOk : Bool → Bool → Prop, (layoutOk = fun ta tb =>
      (fmtMxs f = true → ¬ (8 ≤ fmtA f ∧ fmtA f ≤ 10 ∧ ta = true) ∧ ¬ (8 ≤ fmtB f ∧ fmtB f ≤ 10 ∧ tb = false)) ∧
      (¬ empty → fmtA f = 7 → ta = true → m % cbGroup f = 0) ∧ (¬ empty → fmtB f = 7 → tb = false → n % cbGroup f = 0)) →
    (ringsOk = fun ta tb =>
      (∃ q, s.ringOf t.ctx (x.r.ring.toNat % 16) = some q ∧ (¬ empty → (tileA f sh ta).bytes ≤ q.slotSize)) ∧
      (∃ q, s.ringOf t.ctx (x.r.ring.toNat / 16 % 16) = some q ∧ (¬ empty → (tileB f sh tb).bytes ≤ q.slotSize))) →
    ∀ reads claimed : Prop, reads = (¬ empty ∧ (fmtA f = 7 ∨ fmtB f = 7)) →
    claimed = (∃ k, s.kernelOf t.ctx = some k ∧ k.cbmask / 2 ^ fmtCbank f % 2 = 1) →
    ∀ softmax : Prop, softmax = (y < 1024 ∧ m ≤ 32 ∧ n ≤ 32 ∧ y / 8 % 8 + y / 64 % 4 + 1 ≤ 8 ∧
      (y % 8 < y / 8 % 8 ∨ y / 8 % 8 + y / 64 % 4 + 1 ≤ y % 8)) →
    (∀ p ∈ [(Instr.mxMma, 2, 3, y < 32 ∧ y % 8 + tiles ≤ 8), (.mxMmaz, 3, 3, y < 32 ∧ y % 8 + tiles ≤ 8), (.mxMmasm, 4, 8, softmax)],
      ∀ ta tb : Bool, ta = t.y.scalar.getLsbD p.2.2.1 → tb = t.y.scalar.getLsbD (p.2.2.1 + 1) →
      (¬ p.2.2.2 → exec p.1 s = .next (fault y)) ∧
      (p.2.2.2 → matrixReserved f = true → exec p.1 s = .next reserved) ∧
      (p.2.2.2 → matrixReserved f = false → ¬ (layoutOk ta tb ∧ ringsOk ta tb) → exec p.1 s = .next (fault y)) ∧
      (p.2.2.2 → matrixReserved f = false → layoutOk ta tb → ringsOk ta tb → reads → ¬ claimed →
        exec p.1 s = .next (s.takeFault t.ctx t.bno
          { cls := 4, code := 0x41, flags := 1, slot := t.slot, subcode := 0, bno := t.bno, value := fmtCbank f })) ∧
      (p.2.2.2 → matrixReserved f = false → layoutOk ta tb → ringsOk ta tb → (reads → claimed) → queues p.1 p.2.1))) ∧
  (∀ d : Tile, d = drainTile f sh ((x.portW oMxO).getLsbD 3) →
    ∀ fields runs here : Prop, fields = (o % 8 + tiles ≤ 8) → runs = (¬ empty → 8 ≤ d.code → d.code ≤ 10 → d.cols % 32 = 0) →
      here = (y / 2 ^ 22 ≤ 47 ∧ y % 2 ^ 22 + d.bytes ≤ 2 ^ 22 ∧ y % 32 = 0) →
    ∀ kept : Prop, kept = (∃ q, s.ringOf t.ctx (x.r.ring.toNat / 256 % 16) = some q ∧
      (¬ empty → (preTile (x.portW oMxO) sh).bytes ≤ q.slotSize)) →
    (∀ p ∈ [(Instr.mxDrain, 5, o < 32 ∧ fields, True), (.mxDrainf, 6, o < 256 ∧ o / 32 % 4 ≠ 3 ∧ fields, kept)],
      (¬ p.2.2.1 → exec p.1 s = .next (fault o)) ∧
      (p.2.2.1 → drainReserved f = true → exec p.1 s = .next reserved) ∧
      (p.2.2.1 → drainReserved f = false → ¬ runs → exec p.1 s = .next (fault o)) ∧
      (p.2.2.1 → drainReserved f = false → runs → ¬ here → exec p.1 s = .next (fault y)) ∧
      (p.2.2.1 → drainReserved f = false → runs → here → ¬ p.2.2.2 → exec p.1 s = .next (fault o)) ∧
      (p.2.2.1 → drainReserved f = false → runs → here → p.2.2.2 → queues p.1 p.2.1)))

/-- Operations of the matrix engine (R248, R249, R252 to R256): the head of the queue starts in the cycle that R249 gives once what it waits
for is there, with the effect that its code has on the accumulators and side registers it finds, writes its destination granule by
granule, and retires with that effect, its rings popped and mx.q delivered. That the operands are read at the start, destination granules
are written one a step and the accumulators change at retirement is the model's choice (log entry 23). Each completes by its own effect:
mxOpStart, mxOpRetire. -/
def Obligations.MatrixOperations : Prop :=
  ∀ (s : State) (core : Nat) (o : MxOp) (x : Ctx), s.mxHead core = some o → s.ctx? o.ctx = some x →
  ∀ (e : MxEff) (late : Option FaultInfo), (e, late) = s.mxEffect x o →
  (o.start = none → s.mxReady x o = true → Answers (.mxOpStart core) s fun a => SameMemory s a ∧ a.ctxs = s.ctxs ∧ a.fbits = s.fbits ∧
    ∃ q ∈ a.wk.mx, q.id = o.id ∧ q.eff = e ∧ q.fault = late ∧ q.start = some (max o.trig (max (s.core core).mxVis ((s.core core).cyc - 1)))) ∧
  ((o.start ≠ none ∨ s.mxReady x o = false) → exec (.mxOpStart core) s = .next s) ∧
  (∀ u g a0 b0 rest, o.start = some u → o.eff.out.find? (s.granuleFree x o) = some g → g.1 = (a0, b0) :: rest → (g.1.map Prod.fst).Nodup →
    (s.core (coreOfPhys a0)).fenced = false → Answers (.mxOpRetire core) s fun a => (∀ c ∈ g.1, a.byte c.1 = c.2) ∧
      SameMemoryBut (g.1.map Prod.fst) s a ∧ a.fbit a0 = true ∧ a.ctxs = s.ctxs ∧ ∃ q ∈ a.wk.mx, q.id = o.id ∧ q.eff.out = o.eff.out.erase g) ∧
  (∀ u, o.start = some u → o.eff.out = [] → u + mxLatency o ≤ (s.core core).cyc → o.fault = none → vget x.r.pend qMx none = some o.id →
    Answers (.mxOpRetire core) s fun a => SameMemory s a ∧ (∀ q ∈ a.wk.mx, q.id ≠ o.id) ∧
      (∃ z, a.ctx? o.ctx = some z ∧ z.acc = setMany x.acc 0 o.eff.acc ∧ z.rmax = setMany x.rmax negInf o.eff.rmax ∧
        z.rsum = setMany x.rsum 0 o.eff.rsum ∧ vget z.r.res qMx PV.zero = o.eff.q ∧ vget z.r.pend qMx none = none ∧ z.r.sr = x.r.sr ∧ z.r.vr = x.r.vr) ∧
      ∀ r n q b, (r, n) ∈ mxReads o → r < 16 → s.ringOf o.ctx r = some q → s.bargeOf o.ctx = some b → (∀ p ∈ mxReads o, p.1 < 16) →
        (∀ g ∈ granules (s.headAddr o.ctx r) q.slotSize, a.fbit (s.phys o.ctx g) = false) ∧
        a.ringPos o.ctx r = (((s.ringPos o.ctx r).1 + 1) % q.slots, (s.ringPos o.ctx r).2)) ∧
  (o.code ≠ 10 → e.q.scalar = 0) ∧
  ∀ (after : Nat → Word), (after = fun k => (setMany x.acc 0 e.acc).get k 0) →
  ∀ (m n kb b : Nat), m = shapeM o.shape → n = shapeN o.shape → kb = shapeKB o.shape → b = field o.y 0 3 →
  ∀ block : Nat → Nat → Nat → Word, (block = fun i j k => blockSum o.fmt (o.book.getD noBook) (s.mxOperands o).1 i j k) →
  ((o.code = 2 ∨ o.code = 3) → 0 < m → 0 < n → 1 ≤ kb →
    (∀ i j, i < m → j < n → ∃ v : Nat → Word,
      v 0 = (if o.code = 3 then block i j 0 else addF32 (x.accAt (regionKey b n i j)) (block i j 0)) ∧
      (∀ k, k + 1 < kb → v (k + 1) = addF32 (v k) (block i j (k + 1))) ∧ after (regionKey b n i j) = v (kb - 1)) ∧
    (∀ k, (∀ i j, i < m → j < n → k ≠ regionKey b n i j) → after k = x.accAt k) ∧ e.rmax = [] ∧ e.rsum = [] ∧ e.out = []) ∧
  ((fmtA o.fmt = 1 ∨ fmtA o.fmt = 2) → (fmtB o.fmt = 1 ∨ fmtB o.fmt = 2) → ∀ p : Operands, p = (s.mxOperands o).1 → ∀ i j k, block i j k =
    f32 (sumFV ((List.range 32).map fun d =>
      (elemValue (fmtA o.fmt) (fmtInt o.fmt) (if p.ta then p.a.elem p.na (32 * k + d) i else p.a.elem p.na i (32 * k + d))).mul
      (elemValue (fmtB o.fmt) (fmtInt o.fmt) (if p.tb then p.b.elem p.nb j (32 * k + d) else p.b.elem p.nb (32 * k + d) j))))) ∧
  (o.code = 4 → 0 < m → 0 < n → m ≤ 32 → n ≤ 32 → 1 ≤ kb → ∀ so w : Nat, so = o.y.toNat / 8 % 8 → w = o.y.toNat / 64 % 4 + 1 →
    (b < so ∨ so + w ≤ b) → ∀ i, i < m → ∃ (S : Nat → Nat → Word) (mNew alpha : Word) (P : Nat → Word),
      (∀ j, j < n → S j 0 = block i j 0 ∧ ∀ k, k + 1 < kb → S j (k + 1) = addF32 (S j k) (block i j (k + 1))) ∧
      mNew = (List.range n).foldl (fun a j => maxF32 a (mulF32 o.o.val (S j (kb - 1)))) (x.rmaxAt so i) ∧
      alpha = (if mNew = negInf then 0x3f800000#32 else exp2F32 (subF32 (x.rmaxAt so i) mNew)) ∧
      (∀ j, P j = if mNew = negInf then 0 else exp2F32 (subF32 (mulF32 o.o.val (S j (kb - 1))) mNew)) ∧
      (setMany x.rmax negInf e.rmax).get (sideKey so i) negInf = mNew ∧
      (setMany x.rsum 0 e.rsum).get (sideKey so i) 0 =
        f32 ((List.range n).foldl (fun a j => a.add (ofF32 (P j))) ((ofF32 alpha).mul (ofF32 (x.rsumAt so i)))) ∧
      (∀ j, j < n → after (accKey b i j) = P j) ∧
      ∀ u c, so ≤ u → u < so + w → c < 32 → after (accKey u i c) = mulF32 (x.accAt (accKey u i c)) alpha) ∧
  (o.code = 7 → ∀ w, w = o.y.toNat / 8 % 8 + 1 → (∀ k, b * 1024 ≤ k → k < (b + w) * 1024 → after k = 0) ∧
    (∀ k, (k < b * 1024 ∨ (b + w) * 1024 ≤ k) → after k = x.accAt k) ∧ e.rmax = [] ∧ e.rsum = []) ∧
  (o.code = 8 → ∀ u, u = field o.o.val 0 3 → (∀ i, i < 1024 → (after (u * 1024 + i)).toNat =
      leNat (s.seenBytes o.ctx 0 (s.physList o.ctx (o.y.toNat + 4 * i) 4)).1) ∧
    (∀ k, (k < u * 1024 ∨ (u + 1) * 1024 ≤ k) → after k = x.accAt k) ∧ e.rmax = [] ∧ e.rsum = []) ∧
  (o.code = 9 → ∀ w, w = o.y.toNat / 8 % 4 + 1 → (∀ k, b * 1024 ≤ k → k < (b + w) * 1024 → after k = mulF32 (x.accAt k)
      (if o.y.getLsbD 5 then rcpF32 (x.rsumAt b (k % 1024 / 32)) else o.o.val)) ∧
    (∀ k, (k < b * 1024 ∨ (b + w) * 1024 ≤ k) → after k = x.accAt k) ∧ e.rmax = [] ∧ e.rsum = []) ∧
  (o.code = 10 → e.acc = [] ∧ e.q.scalar = (if o.y.getLsbD 8 then x.rsumAt b (o.y.toNat / 8 % 32) else x.rmaxAt b (o.y.toNat / 8 % 32))) ∧
  (o.code = 11 → e.acc = [] ∧ ∀ i, i < 32 → (setMany x.rmax negInf e.rmax).get (sideKey b i) negInf = negInf ∧
    (setMany x.rsum 0 e.rsum).get (sideKey b i) 0 = 0) ∧
  (∀ db pitch, db = field o.o.val 0 3 → pitch = ceilDiv (n * 32) 256 * 32 → 0 < m → 0 < n → fmtDrain o.fmt = 0 → o.o.val.getLsbD 3 = false →
    ∀ i j c, i < m → j < n → c < 4 →
    (o.code = 5 → ∃ g ∈ e.out, (s.phys o.ctx (o.y.toNat + i * pitch + 4 * j + c),
      (leBytes 4 (x.accAt (regionKey db n i j)).toNat).getD c 0) ∈ g.1) ∧
    (o.code = 6 → ∀ z : Word, z = (let p := preTile o.o.val o.shape
        f32 (elemValue p.code (fmtInt 0) (p.elem (s.slotNat o.ctx (s.headAddr o.ctx (ringP o.ring)) p.bytes).1 i j))) →
      ∃ g ∈ e.out, (s.phys o.ctx (o.y.toNat + i * pitch + 4 * j + c),
        (leBytes 4 (actDeriv (field o.o.val 5 2) (x.accAt (regionKey db n i j)) z).toNat).getD c 0) ∈ g.1)) ∧
  (∀ g z one : Word, one = 0x3f800000#32 → actDeriv 0 g z = (if (ofF32 0).lt (ofF32 z) then g else 0) ∧
    ∀ sg, sg = rcpF32 (addF32 one (exp2F32 (f32 ((ofF32 z).neg.mul (ofF32 0x3fb8aa3b#32))))) →
      actDeriv 2 g z = mulF32 g (mulF32 sg (fmaF32 z (subF32 one sg) one)))

/-- The row engine (R260 to R264): a legal trigger joins the queue with its descriptor and marks rw.q pending, a violation raises ILL_TRIG;
the head of the queue completes once its latency is over, rows in ascending order by the computation of its code, and a slot operation
claims, saves, loads or frees. That a command's arrays are read and written only as it completes is the model's choice (log entry 22).
Each completes by its own effect: rwCmdComplete, rwFstat, rwFsmx, rwNorm, rwBln, rwBrms, rwBsm, rwSlot, rwFree. -/
def Obligations.RowEngine : Prop :=
  (∀ (s : State) (t : Trig) (x : Ctx), Runs s t x →
    ∀ y o : Nat, y = t.y.scalar.toNat → o = (x.portW oRwO).toNat →
    ∀ fault : Nat → State, (fault = fun v => s.takeFault t.ctx t.bno
      { cls := 1, code := 0x13, flags := 1, slot := t.slot, subcode := 0, bno := t.bno, value := v }) →
    ∀ owned : Nat → Prop, (owned = fun n => ((s.core (coreOf t.ctx)).slotOf x.barge n).isSome = true) →
    ∀ queues : Instr → Nat → (RwCmd → Prop) → Prop, (queues = fun i code P => Answers i s fun a => SameMemory s a ∧ a.fbits = s.fbits ∧ a.cores = s.cores ∧
      (∀ c, c ≠ t.ctx → a.ctx? c = s.ctx? c) ∧
      ∃ q z, a.wk.rw = s.wk.rw ++ [q] ∧ q.ctx = t.ctx ∧ q.core = coreOf t.ctx ∧ q.code = code ∧ q.y = t.y.scalar ∧ q.o = x.portW oRwO ∧ q.eps = x.portW oRwO2 ∧
        P q ∧ ((∀ e ∈ s.wk.rw, e.core ≠ coreOf t.ctx) → q.due = some (t.cyc + q.cycles)) ∧ a.ctx? t.ctx = some z ∧
        z.r.pend = vset x.r.pend qRw (some q.id) ∧ z.r.sr = x.r.sr ∧ z.r.vr = x.r.vr ∧ z.r.flags = x.r.flags ∧ z.gate = x.gate) →
    (∀ d, d = s.rowDesc t.ctx y → ∀ p ∈ [(Instr.rwFstat, 0), (.rwFsmx, 1), (.rwNorm, 2), (.rwBln, 3), (.rwBrms, 4), (.rwBsm, 5)],
      ∀ here : Prop, here = (y / 2 ^ 22 = coreOf t.ctx % 48 ∧ y / 2 ^ 22 ≤ 47 ∧ y % 2 ^ 22 + 32 ≤ 2 ^ 22 ∧ y % 32 = 0) →
      (here → o < 32 → owned (o % 16) → d.ok p.2 = true → queues p.1 p.2 fun q => q.x.toNat = d.x ∧ q.g.toNat = d.g ∧ q.yAddr.toNat = d.y ∧
        q.rows = d.rows ∧ q.d = d.d ∧ q.pitch = d.pitch ∧ q.inBf = (d.inF == 1) ∧ q.outBf = (d.outF == 1) ∧
        q.cycles = 20 + (if p.2 = 0 then (if o / 16 % 2 = 1 then 1 else 2) else if p.2 = 1 then 3 else if p.2 = 2 then 1 else 2) * d.rows * ceilDiv d.d 64) ∧
      (¬ here → exec p.1 s = .next (fault y)) ∧ (here → ¬ (o < 32 ∧ owned (o % 16)) → exec p.1 s = .next (fault o)) ∧
      (here → o < 32 → owned (o % 16) → d.ok p.2 = false → exec p.1 s = .next (fault y))) ∧
    (y = 0 → queues .rwSlot 6 fun q => q.cycles = 20) ∧
    (y < 64 → (y % 4 = 1 ∨ y % 4 = 2) → owned (y / 4) → o / 2 ^ 22 ≤ 47 → o % 2 ^ 22 + 4096 ≤ 2 ^ 22 → o % 32 = 0 →
      queues .rwSlot 6 fun q => q.cycles = 20) ∧
    (y < 64 → (y % 4 = 1 ∨ y % 4 = 2) → owned (y / 4) → ¬ (o / 2 ^ 22 ≤ 47 ∧ o % 2 ^ 22 + 4096 ≤ 2 ^ 22 ∧ o % 32 = 0) →
      exec .rwSlot s = .next (fault o)) ∧
    ((64 ≤ y ∨ y % 4 = 3 ∨ (y % 4 = 0 ∧ y ≠ 0)) → exec .rwSlot s = .next (fault y)) ∧
    (y < 64 → (y % 4 = 1 ∨ y % 4 = 2) → ¬ owned (y / 4) → exec .rwSlot s = .next (fault y)) ∧
    (y < 16 → owned y → queues .rwFree 7 fun q => q.cycles = 20) ∧ (¬ (y < 16 ∧ owned (y % 16)) → exec .rwFree s = .next (fault y))) ∧
  (∀ (d : RowDesc) (code : Nat), code < 6 → ∀ wi wo : Nat, wi = (if d.inF = 1 then 2 else 4) → wo = (if d.outF = 1 then 2 else 4) →
    ∀ array : Nat → Nat → Prop, (array = fun a w => a / 2 ^ 22 ≤ 47 ∧ a % 2 ^ 22 + (d.rows - 1) * d.pitch + d.d * w ≤ 2 ^ 22 ∧ a % 32 = 0) →
    (d.ok code = true ↔ 1 ≤ d.rows ∧ d.rows ≤ 512 ∧ 1 ≤ d.d ∧ d.d ≤ 16384 ∧ d.inF ≤ 1 ∧ d.outF ≤ 1 ∧ d.rest = 0 ∧ d.pitch % 32 = 0 ∧ d.d * wi ≤ d.pitch ∧
      (code ≠ 0 → d.d * wo ≤ d.pitch) ∧ array d.x wi ∧ (3 ≤ code → array d.g wi) ∧ (code ≠ 0 → array d.y wo))) ∧
  (∀ (s : State) (core : Nat) (r : RwCmd) (rest : List RwCmd) (x : Ctx) (u : Nat), s.rwOf core = r :: rest → s.ctx? r.ctx = some x → r.core = core →
    r.due = some u → u ≤ (s.core core).cyc →
    ∀ saves loads : Prop, saves = (r.code = 6 ∧ r.y.toNat % 4 = 1) → loads = (r.code = 6 ∧ 2 ≤ r.y.toNat % 4) →
    ((r.code < 6 ∨ saves) → s.storesOver r.ctx x r.id = true) → (loads → s.storesOverTo r.ctx x r.id (s.physList r.ctx r.o.toNat 4096) = true) →
    (((1 ≤ r.code ∧ r.code ≤ 5) ∨ saves) → s.loadsOver r.ctx x r.id = true) → vget x.r.pend qRw none = some r.id →
    ∀ completes : (Word → State → Prop) → Prop, (completes = fun P => Answers (.rwCmdComplete core) s fun a =>
      (∀ q ∈ a.wk.rw, q.id ≠ r.id) ∧ ∃ z, a.ctx? r.ctx = some z ∧ vget z.r.pend qRw none = none ∧ z.r.sr = x.r.sr ∧ z.r.vr = x.r.vr ∧ z.acc = x.acc ∧
        P (vget z.r.res qRw PV.zero).scalar a) →
    (∀ p, r.code < 6 → (s.core core).slotOf x.barge (r.o.toNat % 16) = some p →
      (∀ i, i < r.rows → (s.physList r.ctx (r.yAddr.toNat + i * r.pitch) (r.d * (if r.outBf then 2 else 4))).Nodup) → 1 ≤ r.d → (∀ k, (s.core k).fenced = false) →
      ∃ z : Nat → State, z 0 = s ∧ (∀ i, i ≤ r.rows → z i = { s with mem := (z i).mem, memPoi := (z i).memPoi, fbits := (z i).fbits, cores := (z i).cores }) ∧ completes (fun q a => q = 0 ∧ a.mem = (z r.rows).mem ∧ a.fbits = (z r.rows).fbits ∧
        (a.core core).slotMem = ((z r.rows).core core).slotMem) ∧
      ∀ i, i < r.rows → ∀ (xs gs : List Word) (st1 st2 : Word), xs = ((z i).rowWords r r.x i).1 → gs = ((z i).rowWords r r.g i).1 →
        st1 = (((z i).core core).rowAt p (2 * i)).1 → st2 = (((z i).core core).rowAt p (2 * i + 1)).1 →
        ∀ out : List Nat, out = s.physList r.ctx (r.yAddr.toNat + i * r.pitch) (r.d * (if r.outBf then 2 else 4)) →
        (∀ key, (1 < r.code ∨ (key ≠ p * 1024 + 2 * i ∧ key ≠ p * 1024 + 2 * i + 1)) →
          ((z (i + 1)).core core).slotMem.get key 0 = ((z i).core core).slotMem.get key 0) ∧
        SameMemoryBut (if r.code = 0 then [] else out) (z i) (z (i + 1)) ∧
        (∀ g, (z (i + 1)).fbit g = (((z i).fbit g) || (r.code != 0 && out.any fun q => q / 32 == g / 32))) ∧
        ∀ ys : List Word → Prop, (ys = fun w => w.length = r.d ∧ ∀ j, j < r.d → leNat (((z i).physList r.ctx
          (r.yAddr.toNat + i * r.pitch + (if r.outBf then 2 else 4) * j) (if r.outBf then 2 else 4)).map (z (i + 1)).byte) =
          (if r.outBf then toBf16 (ofF32 (w.getD j 0)) else (w.getD j 0).toNat)) →
        ∀ xh : List Word, xh = xs.map (fun v => mulF32 (subF32 v st1) st2) →
        (r.code = 0 → ∃ mu, mu = (if r.o.getLsbD 4 then 0 else roundDiv (xs.foldl addF32 0) r.d) ∧
          (((z (i + 1)).core core).rowAt p (2 * i)).1 = mu ∧ (((z (i + 1)).core core).rowAt p (2 * i + 1)).1 =
            rsqF32 (addF32 (roundDiv (xs.foldl (fun q v => if r.o.getLsbD 4 then fmaF32 v v q else fmaF32 (subF32 v mu) (subF32 v mu) q) 0) r.d) r.eps)) ∧
        (r.code = 1 → ∃ m es sum, m = xs.foldl maxF32 (xs.headD 0) ∧ es = xs.map (fun v => exp2F32 (mulF32 (subF32 v m) 0x3fb8aa3b#32)) ∧
          sum = (if m = negInf then 0 else es.foldl addF32 0) ∧ (((z (i + 1)).core core).rowAt p (2 * i)).1 = m ∧
          (((z (i + 1)).core core).rowAt p (2 * i + 1)).1 = sum ∧
          ys (if m = negInf then xs.map (fun _ => 0) else es.map fun e => mulF32 e (rcpF32 sum))) ∧
        (r.code = 2 → ys xh) ∧
        (r.code = 3 → ∃ ma mb, ma = roundDiv (gs.foldl addF32 0) r.d ∧ mb = roundDiv ((gs.zip xh).foldl (fun b e => fmaF32 e.1 e.2 b) 0) r.d ∧
          ys ((xh.zip gs).map fun e => mulF32 st2 (subF32 e.2 (fmaF32 e.1 mb ma)))) ∧
        (r.code = 4 → ∃ mb, mb = roundDiv ((gs.zip xh).foldl (fun b e => fmaF32 e.1 e.2 b) 0) r.d ∧
          ys ((xh.zip gs).map fun e => mulF32 st2 (subF32 e.2 (mulF32 e.1 mb)))) ∧
        (r.code = 5 → ∃ fw c, fw = xs.map (fun v => if st1 = negInf then 0 else mulF32 (exp2F32 (mulF32 (subF32 v st1) 0x3fb8aa3b#32)) (rcpF32 st2)) ∧
          c = (gs.zip fw).foldl (fun b e => fmaF32 e.1 e.2 b) 0 ∧ ys ((fw.zip gs).map fun e => mulF32 e.1 (subF32 e.2 c)))) ∧
    (r.code = 6 → r.y = 0 → (∀ n p, (s.core core).lowestNumber x.barge = some n → (s.core core).freeRow = some p → completes fun q a => q.toNat = n ∧
        (a.core core).slotOwner.find p = some (x.barge, n) ∧ SameMemory s a ∧ ∀ w, w < 1024 → ((a.core core).rowAt p w).1 = 0) ∧
      (((s.core core).lowestNumber x.barge = none ∨ (s.core core).freeRow = none) → completes fun q a => q = 0xffffffff#32 ∧ SameMemory s a ∧
        (a.core core).slotOwner = (s.core core).slotOwner)) ∧
    (∀ p, r.code = 6 → (s.core core).slotOf x.barge (r.y.toNat / 4 % 16) = some p → (s.physList r.ctx r.o.toNat 4096).Nodup → r.o.toNat % 32 = 0 →
      (∀ k, (s.core k).fenced = false) →
      (r.y.toNat % 4 = 1 → completes fun q a => q = 0 ∧ SameMemoryBut (s.physList r.ctx r.o.toNat 4096) s a ∧ ∀ w, w < 1024 →
        leNat ((s.physList r.ctx (r.o.toNat + 4 * w) 4).map a.byte) = ((s.core core).rowAt p w).1.toNat) ∧
      (r.y.toNat % 4 = 2 → completes fun q a => q = 0 ∧ SameMemory s a ∧ ∀ w, w < 1024 → ((a.core core).rowAt p w).1.toNat =
        leNat (s.seenBytes r.ctx r.id (s.physList r.ctx (r.o.toNat + 4 * w) 4)).1)) ∧
    (∀ p, r.code = 7 → (s.core core).slotOf x.barge (r.y.toNat % 16) = some p → completes fun q a => q = 0 ∧ SameMemory s a ∧
      (a.core core).slotOwner.find p = none))

/-- The guest site (R239, R362 to R368): a delivered packet gets the next GSEQ behind its body and a malformed one is rejected with 0x8003;
the guest accepts in order; a completion is written at its address and sets its flag; a missed duty, an unknown sequence number, the power
limit and FENCE fence the guest, which completes every open packet with 0x8002 and asks for replacement; pre-emption, resumption and the
coherent port act as their duties say, and a site with no usable guest does nothing. The reply codes and the reasons of Replace Requested
(log entry 34), the GSEQ of a rejected packet (log entry 32), the test for a malformed one (log entry 33), one deadline for each shoot-
down, answered in order (log entry 35), the control bits that stay set (log entry 116) and the refusal of a translated request whose
translation the guest does not hold (log entry 133) are the model's choices. Each completes by its own effect: gqAccept, gqCompletion,
siteFence, gpreempt, gresume, guestPacketDelivery, completionPacket, guestFaultRecord, guestCoherentRequest, guestShootdownAck,
guestShootdownTimeout, guestPreemptAck, guestPreemptTimeout, guestPowerExceeded. -/
def Obligations.GuestSite : Prop :=
  ∀ (s : State) (g : Guest), g = s.hs.guest →
  ∀ usable : Prop, usable = (g.st = .present ∨ g.st = .preempted) →
  ∀ fences : Instr → Nat → Nat → Prop, (fences = fun i reason rr => Answers i s fun a => SameMemory s a ∧ a.hs.guest.st = .fenced ∧
    a.hs.guest.reason = reason ∧ a.hs.guest.modified = [] ∧ a.hs.guest.shoots = [] ∧ a.hs.guest.preemptBy = none ∧ a.pkg.capgen = s.pkg.capgen + 1 ∧
    a.pkg.rr.getLsbD 31 = true ∧ field a.pkg.rr 20 4 = 5 ∧ field a.pkg.rr 16 4 = rr ∧
    (∀ l ∈ g.modified, ∀ i, i < 256 → a.poisonAt (logicalMark (l * 256 + i)) = true) ∧
    ∀ p ∈ s.wk.guestCmds, p.done = none → ∃ q ∈ a.wk.guestCmds, q.id = p.id ∧ ∃ d, q.done = some d ∧ d.status = 0x8002) →
  (usable → fences .siteFence 6 4 ∧ fences .guestPowerExceeded 5 5 ∧
    (∀ p : GuestPacket, (∀ q ∈ s.wk.guestCmds, ¬ (q.seq = some p.seq ∧ q.accepted = true ∧ q.done = none)) → fences (.completionPacket p) 3 5) ∧
    (∀ n code kind h k, (∀ q ∈ s.wk.guestCmds, ¬ (q.seq = some n ∧ q.accepted = true ∧ q.done = none)) → fences (.guestFaultRecord n code kind h k) 3 5) ∧
    (∀ e, g.shoots.head? = some e → e.due ≤ s.pkg.ioTick → fences .guestShootdownTimeout 1 5) ∧
    (∀ d, g.preemptBy = some d → d ≤ s.pkg.ioTick → fences .guestPreemptTimeout 2 5) ∧
    (∀ d q, g.preemptBy = some d → s.pkg.ioTick ≤ d → q ∈ s.wk.guestCmds → q.accepted = true → q.checkpointed = false → q.done = none →
      fences .guestPreemptAck 2 5)) ∧
  (¬ usable → exec .siteFence s = .next (s.modGuest fun q => { q with ctl := q.ctl ||| 4#3 }) ∧ exec .guestPowerExceeded s = .next s ∧ ∀ p, exec (.completionPacket p) s = .next s) ∧
  (∀ e rest, g.shoots = e :: rest → s.pkg.ioTick ≤ e.due → Answers .guestShootdownAck s fun a => SameMemory s a ∧ a.wk = s.wk ∧ a.sq = s.sq ∧ a.ctxs = s.ctxs ∧
    a.hs = { s.hs with guest := { g with shoots := rest, cached := g.cached.filter fun k => !e.pages.contains k } } ∧
    ∀ h, h ∈ a.ms.heldSegs ↔ h ∈ s.ms.heldSegs ∧ (h ∉ e.segs ∨ ∃ q ∈ rest, h ∈ q.segs)) ∧
  (∀ d, g.preemptBy = some d → s.pkg.ioTick ≤ d → (∀ q ∈ s.wk.guestCmds, q.accepted = true → q.checkpointed = true ∨ q.done.isSome = true) →
    exec .guestPreemptAck s = .next (s.modGuest fun q => { q with st := .preempted, preemptBy := none })) ∧
  (g.st = .present → g.stopped = false → exec .gpreempt s = .next (s.modGuest fun q => { q with
    stopped := true, preemptBy := some (s.pkg.ioTick + 5000), ctl := q.ctl ||| 1#3 })) ∧
  (g.st = .preempted → s.pkg.p1 = false → Answers .gresume s fun a => a.hs.guest.st = .present ∧ a.hs.guest.stopped = false ∧ a.hs.guest.ctl = g.ctl ||| 2#3 ∧ SameMemory s a ∧
    a.wk.guestCmds = s.wk.guestCmds.map fun q => { q with checkpointed := false }) ∧
  (∀ id p, s.push? id = some p → usable → s.deliverable p = true → s.ingressCount < 256 → p.accepted = false →
    ∀ body, body = s.packetBody p → ∀ bad : Prop, bad = (leNat (body.take 2) < g.firstOp ∨ g.lastOp < leNat (body.take 2) ∨ 4 < (body.getD 2 0).toNat ∨ body.getD 3 0 ≠ 0) →
    Answers (.guestPacketDelivery id) s fun a => SameMemory s a ∧ a.hs.guest.gseq = g.gseq + 1 ∧
      ∃ q ∈ a.wk.guestCmds, q.id = id ∧ q.seq = some g.gseq ∧ q.ingress = true ∧ ∃ ident : List Byte, ident.length = 12 ∧ q.pkt = body ++ ident ∧
        leNat (ident.drop 8) = g.gseq.toNat ∧ ident.getD 0 1 = (if p.isStream ∨ s.pusher p = none then 1 else 0) ∧
        (¬ bad → q.done = none) ∧ (bad → ∃ d, q.done = some d ∧ d.status = 0x8003)) ∧
  (∀ id p, s.push? id = some p → g.st = .present → g.stopped = false → p.ingress = true → p.accepted = false → p.done = none →
    (∀ q ∈ s.wk.guestCmds, q.ingress = true → q.accepted = false → q.done = none → q.id = id) →
    Answers (.gqAccept id) s fun a => SameMemory s a ∧ (∃ q ∈ a.wk.guestCmds, q.id = id ∧ q.accepted = true) ∧
      ∀ c x n, p.isStream = false → s.pusher p = some c → s.ctx? c = some x → vget x.r.pend qGq none = some id → p.seq = some n →
        ∃ y, a.ctx? c = some y ∧ (vget y.r.res qGq PV.zero).scalar = n ∧ vget y.r.pend qGq none = none) ∧
  (∀ (pkt : GuestPacket) p, usable → s.wk.guestCmds.find? (fun q => q.seq == some pkt.seq && q.accepted && q.done.isNone) = some p →
    Answers (.completionPacket pkt) s fun a => SameMemory s a ∧ a.hs.guest = g ∧ ∃ q ∈ a.wk.guestCmds, q.id = p.id ∧
      (pkt.status = 0x8000 → q.checkpointed = true ∧ q.done = none) ∧ (pkt.status ≠ 0x8000 → q.done = some pkt)) ∧
  (∀ id p d b c x, s.push? id = some p → p.isStream = false → p.done = some d → s.barge? (p.src / 2 ^ 10) = some b → b.save = none →
    b.ctxs[p.src % 2 ^ 10]? = some c → s.ctx? c = some x → p.comp.toNat % 32 = 0 → (s.core (coreOfPhys (s.phys c p.comp.toNat))).fenced = false → p.flag < 8 →
    Answers (.gqCompletion id) s fun a => (∀ q ∈ a.wk.guestCmds, q.id ≠ id) ∧ (s.physList c p.comp.toNat 32).map a.byte = packetBytes d ∧
      SameMemoryBut (s.physList c p.comp.toNat 32) s a ∧ ∃ y, a.ctx? c = some y ∧ y.r.flags = x.r.flags ||| (1#8 <<< p.flag) ∧ y.r.sr = x.r.sr ∧ y.r.vr = x.r.vr) ∧
  (∀ n code kind h k p, usable → s.wk.guestCmds.find? (fun q => q.seq == some n && q.accepted && q.done.isNone) = some p →
    (∀ o, p.isStream = true → s.op? p.src = some o → exec (.guestFaultRecord n code kind h k) s = .next (s.post (streamRecord o.sid o.pc
      { cls := 12, code := 0xc0, flags := 12, slot := 0xff, subcode := 1, bno := o.pc, value := h.toNat + 2 ^ 32 * k.toNat }) .nothing)) ∧
    (∀ b c x, p.isStream = false → s.pusher p = some c → s.ctx? c = some x → s.barge? (p.src / 2 ^ 10) = some b → b.st ≠ .retired →
      x.halted = false → exec (.guestFaultRecord n code kind h k) s = .next (s.takeFault c x.r.pc
      { cls := 12, code := 0xc0, flags := 0, slot := 0xff, subcode := 1, bno := p.bno, value := h.toNat + 2 ^ 32 * k.toNat }))) ∧
  (∀ (req : GuestRequest) t off, usable → t = req.home.toNat * 2 ^ 20 + req.index.toNat → off = req.offset.toNat →
    ∀ h, h = makeHandle t req.generation.toNat →
    ∀ refusal : Nat → Prop, (refusal = fun why => Answers (.guestCoherentRequest req) s fun a => SameMemory s a ∧ a.ms = s.ms ∧ a.hs.guest.reply = why ∧ a.hs.guest.data = []) →
    ∀ goes : Nat → Bool → Prop, (goes = fun n w =>
      (req.translated = true → s.extBlocked h off n w = false ∧ ∀ k ∈ pagesIn off n, (t, k) ∈ g.cached) ∧
      (req.translated = false → s.extHeld h off n w = false)) →
    (s.live? h = none → refusal 2) ∧
    (∀ n, req.ask = .read n → s.extFault h off n false false = none → goes n false → Answers (.guestCoherentRequest req) s fun a =>
      a.hs.guest.reply = 0 ∧ a.hs.guest.data.length = n ∧ (∀ p, p < devBase → a.byte p = s.byte p) ∧ (LinesFit s (storeRange t off n) →
      SameMemory s a ∧ a.hs.guest.data = (storeRange t off n).map fun b => if (s.homeByte b).2 then none else some (s.homeByte b).1)) ∧
    (∀ n, req.ask = .rawRead n → s.extFault h off n true false = none → goes n false → Answers (.guestCoherentRequest req) s fun a =>
      SameMemory s a ∧ a.ms.l2 = s.ms.l2 ∧ a.hs.guest.reply = 0 ∧ a.hs.guest.data = (storeRange t off n).map fun b => if (s.memoryByte b).2 then none else some (s.memoryByte b).1) ∧
    (∀ bs keep, req.ask = .write bs keep → s.extFault h off bs.length false true = none → goes bs.length true → LinesFit s (storeRange t off bs.length) →
      off + bs.length ≤ 2 ^ 45 →
      (∀ r, s.live? h = some r → r.msa = false) → Answers (.guestCoherentRequest req) s fun a => a.hs.guest.reply = 0 ∧
      (storeRange t off bs.length).map (fun b => (a.homeByte b).1) = bs.map Prod.fst ∧
      (∀ i b, bs[i]? = some (b, true) → (a.homeByte (storeAddr t (off + i))).2 = true) ∧
      ∀ b, b ∉ storeRange t off bs.length → (a.homeByte b).1 = (s.homeByte b).1) ∧
    (∀ code x y, req.ask = .atomic code x y → code < 6 → s.extFault h off 4 false true = none → goes 4 true →
      ∀ old new : Word, old = BitVec.ofNat 32 (leNat ((storeRange t off 4).map fun b => (s.homeByte b).1)) →
      (code = 0 → new = old + x) → (code = 1 → new = addF32 old x) → (code = 2 → new = if x.toInt < old.toInt then x else old) →
      (code = 3 → new = if old.toInt < x.toInt then x else old) → (code = 4 → new = x) → (code = 5 → new = if old = y then x else old) →
      Answers (.guestCoherentRequest req) s fun a => a.hs.guest.reply = 0 ∧
        ((∀ b ∈ storeRange t off 4, (s.homeByte b).2 = false) → a.hs.guest.data = (storeRange t off 4).map fun b => some (s.homeByte b).1) ∧
        (LinesFit s (storeRange t off 4) → off + 4 ≤ 2 ^ 45 → (∀ r, s.live? h = some r → r.msa = false) →
          leNat ((storeRange t off 4).map fun b => (a.homeByte b).1) = new.toNat ∧
          ∀ b, b ∉ storeRange t off 4 → (a.homeByte b).1 = (s.homeByte b).1)) ∧
    (∀ n, req.ask = .read n → req.translated = true → s.extFault h off n false false = none → (∃ k ∈ pagesIn off n, (t, k) ∉ g.cached) →
      refusal 4) ∧
    (req.ask = .translate → s.extFault h off 1 false false = none → goes 1 false → Answers (.guestCoherentRequest req) s fun a =>
      a.ms = s.ms ∧ a.hs.guest.reply = 0 ∧ (t, off / 2 ^ 16) ∈ a.hs.guest.cached ∧
      ∀ e, s.pageLeaf? t (off / 2 ^ 16) = some e → a.hs.guest.leaf = e &&& 0xf800_ffff_ffff_007c#64))

/-- Host accesses to registers and tensors (R6, R302, R324, R331, R341, R348, R349, R353, R359, R369, R370): reads that clear, latches taken
in one step, registers with their masks as a host reads them back, unlisted offsets that read zero, the capability list with its seven
entries, a group that a collective uses left alone, and coherent accesses that give or change the bytes at their homes, and no other byte,
or set APST with the first failing reason; in recovery mode no register of BAR0 acts. A write that takes effect before READY (log entry
88) is the model's choice. Each completes by its own effect: harvest, apstRead, accOvfRead, recidxWrite, trcSelWrite, groupTableWrite,
registerWrite, hostCoherentRead, hostCoherentWrite. -/
def Obligations.HostRegisters : Prop :=
  ∀ (s : State),
  (s.pkg.recovery = false → exec .harvest s = .next { s with pkg := { s.pkg with harvest := true } }) ∧
  (s.pkg.recovery = true → exec .apstRead s = .next s) ∧
  (s.pkg.recovery = false → s.pkg.ready = true → Answers .apstRead s fun a => a.pkg = { s.pkg with apst := 0 } ∧ a.hs.hostData = (wordBytes s.pkg.apst).map some ∧ SameMemory s a ∧ a.ctxs = s.ctxs) ∧
  (∀ v, v < 8 → s.pkg.recovery = false → s.pkg.ready = true → Answers (.accOvfRead v) s fun a => (a.die v).accOvf = 0 ∧ a.hs.hostData = (wordBytes (s.die v).accOvf).map some ∧
    (∀ w, w ≠ v → a.die w = s.die w) ∧ SameMemory s a) ∧
  (∀ v i (w : BitVec 32) g q ranks, s.pkg.recovery = true → exec (.accOvfRead v) s = .next s ∧ exec (.recidxWrite v i) s = .next s ∧
    exec (.trcSelWrite v w) s = .next s ∧ exec (.groupTableWrite g q ranks) s = .next s ∧ exec .harvest s = .next s) ∧
  (∀ v i t, v < 8 → i < 2 ^ 20 → t = v * 2 ^ 20 + i → s.pkg.recovery = false → Answers (.recidxWrite v i) s fun a => SameMemory s a ∧ a.sq.recs = s.sq.recs ∧
    (a.die v).recLatch.length = 64 ∧ (s.rec? t = none → ∀ b ∈ (a.die v).recLatch, b = 0) ∧
    ∀ r, s.rec? t = some r → ∀ fieldAt : Nat → Nat → Nat, (fieldAt = fun o n => leNat (((a.die v).recLatch.drop o).take n)) →
      fieldAt 0 4 = r.d0 % 2 ^ 32 ∧ fieldAt 4 4 = r.d1 % 2 ^ 32 ∧ fieldAt 8 4 = r.d2 % 2 ^ 32 ∧ fieldAt 12 4 = r.d3 % 2 ^ 32 ∧
      fieldAt 16 1 = r.fmt % 256 ∧ fieldAt 20 4 = r.pad.toNat ∧ fieldAt 24 4 = r.pages % 2 ^ 32 ∧ fieldAt 28 1 = v ∧ fieldAt 62 2 = r.busy % 2 ^ 16) ∧
  (∀ v p (w : BitVec 32) cl c, v < 8 → s.stackOfDie v = some p → cl = w.toNat % 8 → c = w.toNat / 256 % 64 → cl < 6 → c < 48 → s.pkg.recovery = false →
    Answers (.trcSelWrite v w) s fun a => SameMemory s a ∧ (a.die v).dbgTrace = (s.core (coreKey p cl c)).trace ∧
      (a.die v).dbgCnt = (s.core (coreKey p cl c)).traceCnt ∧ (a.die v).dbgCall.length = 4 ∧
      ∀ h x, h < 4 → s.ctx? (coreKey p cl c * 4 + h) = some x → (a.die v).dbgCall.getD h 0 = x.r.calld.toNat) ∧
  (∀ g q ranks, g < 64 → q ≤ 256 → s.pkg.recovery = false →
    ((∀ o ∈ s.sq.ops, o.done = false → (∀ k n, o.kind ≠ .coll k g n) ∧ ∀ n, o.kind ≠ .a2av g n) →
      Answers (.groupTableWrite g q ranks) s fun a => SameMemory s a ∧ (q = 0 → a.sq.groups.find g = none) ∧
        (0 < q → ∃ l, a.sq.groups.find g = some l ∧ l.length = q ∧ ∀ i, i < q → ((ranks.getD i 0).getLsbD 15 = false → l.getD i 0 = ranks.getD i 0 &&& 0x7#16) ∧
          ((ranks.getD i 0).getLsbD 15 = true → l.getD i 0 = ranks.getD i 0 &&& 0xf007#16))) ∧
    ((∃ o ∈ s.sq.ops, o.done = false ∧ ∃ n, o.kind = .a2av g n ∨ ∃ k, o.kind = .coll k g n) → exec (.groupTableWrite g q ranks) s = .next s)) ∧
  (∀ (w : BitVec 64), s.pkg.recovery = false → exec (.registerWrite .readOnly w) s = .next s ∧
    exec (.registerWrite .cwCons w) s = .next { s with hs := { s.hs with cwCons := w.setWidth 32 } } ∧
    (∀ k, k < 4096 → Answers (.registerWrite (.aperture k) w) s fun a => SameMemory s a ∧
      a.hs.slots.get k 0 = w &&& 0x0007_ff03_ffff_ffff#64) ∧
    (∀ sid, sid < 128 → ∀ x, x = s.slot sid → exec (.registerWrite (.fact sid) w) s = .next (s.putSlot sid { x with fact := w.setWidth 32 &&& 0x03ff_fffc#32 }) ∧
      exec (.registerWrite (.arg0 sid) w) s = .next (s.putSlot sid { x with arg0 := w }) ∧
      exec (.registerWrite (.arg1 sid) w) s = .next (s.putSlot sid { x with arg1 := w }) ∧
      (∀ k, 0 < k → k < 32 → (x.st = .idle ∨ x.st = .faulted ∨ x.st = .done) → Answers (.registerWrite (.gk sid k) w) s fun a =>
        vget (a.slot sid).g k 0 = w ∧ (a.slot sid).st = x.st ∧ ∀ j, j ≠ k → vget (a.slot sid).g j 0 = vget x.g j 0) ∧
      Answers (.registerWrite (.gk sid 0) w) s fun a => (a.slot sid).g = x.g) ∧
    (∀ v, v < 8 → exec (.registerWrite (.cstSpill v) w) s = .next (s.modDie v fun d => { d with spill := w.setWidth 32 }) ∧
      exec (.registerWrite (.cstComp v) w) s = .next (s.modDie v fun d => { d with comp := w.setWidth 32 }) ∧
      exec (.registerWrite (.cstFloor v) w) s = .next (s.modDie v fun d => { d with floor := w.setWidth 32 }) ∧
      exec (.registerWrite (.cstRcmp v) w) s = .next (s.modDie v fun d => { d with rcmp := w.setWidth 32 }) ∧
      (w.toNat % 16 ≤ 8 → Answers (.registerWrite (.cstDepth v) w) s fun a => (a.die v).depth = w.toNat % 16) ∧
      (8 < w.toNat % 16 → Answers (.registerWrite (.cstDepth v) w) s fun a => (a.die v).depth = (s.die v).depth) ∧
      (Answers (.registerWrite (.trcEn v) w) s fun a => (a.die v).trcEn = w.getLsbD 0) ∧
      (Answers (.registerWrite (.tmig v) w) s fun a => (a.die v).tmig = w.getLsbD 0) ∧
      (w.toNat % 2 ^ 16 ≠ 0 → Answers (.registerWrite (.accThresh v) w) s fun a => (a.die v).accThresh = w.toNat % 2 ^ 16))) ∧
  (∀ (w : BitVec 64) sid v k, s.pkg.recovery = false → s.pkg.ready = true → sid < 128 → v < 8 → k < 4096 → ∀ all, all = 0xffffffff#32 →
    ∀ p ∈ [(HostReg.cwCons, 0x220008, all), (.fact sid, 0x10000c + 512 * sid, 0x03fffffc#32), (.arg0 sid, 0x100010 + 512 * sid, all),
           (.cstSpill v, 0x1000000 + 0x100000 * v, all), (.tmig v, 0x1080010 + 0x100000 * v, 1#32), (.trcEn v, 0x1004000 + 0x100000 * v, 1#32),
           (.llen, 0x10008, all), (.lsrc, 0x10000, all), (.collTmo, 0x3010000, all), (.aperture k, 0x8000 + 8 * k, all)],
      Answers (.registerWrite p.1 w) s fun a => a.barWord p.2.1 = w.setWidth 32 &&& p.2.2) ∧
  (∀ off, ((0x1000 ≤ off ∧ off < 0x8000) ∨ (0x11000 ≤ off ∧ off < 0x100000) ∨ (0x222000 ≤ off ∧ off < 0x1000000) ∨ 0x3801000 ≤ off) → s.barWord off = 0) ∧
  (walkCaps s.dvsecBody 8 0).map (fun e => (e.1, e.2.1)) = [(1, 1), (2, 1), (3, 1), (4, 1), (5, 1), (6, 1), (7, 1)] ∧
  (∀ (w : BitVec 64) sid, s.pkg.recovery = true → exec (.registerWrite (.fact sid) w) s = .next s ∧ exec (.registerWrite .cwCons w) s = .next s) ∧
  (∀ slot off e h o, s.pkg.ready = true → slot < 4096 → e = s.hs.slots.get slot 0 → h = e.setWidth 32 → o = (e.toNat / 2 ^ 40 % 2 ^ 11) * 2 ^ 34 + off % 2 ^ 34 →
    ∀ reason : State → Nat → Prop, (reason = fun a why => a.pkg.apst = BitVec.ofNat 32 (slot * 2 ^ 16 + why) ∧ SameMemory s a ∧ a.ms = s.ms) →
    (∀ n, Answers (.hostCoherentRead slot off n) s fun a =>
      (∀ why, s.extFault h o n (e.getLsbD 33) false = some why → reason a why ∧ a.hs.hostData = List.replicate n none) ∧
      (s.extFault h o n (e.getLsbD 33) false = none → s.extHeld h o n false = false → a.pkg.apst = s.pkg.apst ∧ a.hs.hostData.length = n ∧
        (∀ p, p < devBase → a.byte p = s.byte p) ∧ ((e.getLsbD 33 = true ∨ LinesFit s (storeRange (handleKey h) o n)) → SameMemory s a ∧ a.hs.hostData = (storeRange (handleKey h) o n).map fun b => let c := if e.getLsbD 33 then s.memoryByte b else s.homeByte b
          if c.2 then none else some c.1))) ∧
    (∀ bs : List (Byte × Bool), Answers (.hostCoherentWrite slot off bs) s fun a =>
      (∀ why, s.extFault h o bs.length (e.getLsbD 33) true = some why → reason a why) ∧
      (s.extFault h o bs.length (e.getLsbD 33) true = none → e.getLsbD 32 = false → reason a 5) ∧
      (s.extFault h o bs.length (e.getLsbD 33) true = none → e.getLsbD 32 = true → e.getLsbD 33 = true → a = s) ∧
      (s.extFault h o bs.length (e.getLsbD 33) true = none → e.getLsbD 32 = true → e.getLsbD 33 = false → s.extHeld h o bs.length true = false →
        LinesFit s (storeRange (handleKey h) o bs.length) → o + bs.length ≤ 2 ^ 45 → (∀ r, s.live? h = some r → r.msa = false) →
        (storeRange (handleKey h) o bs.length).map (fun b => (a.homeByte b).1) = bs.map Prod.fst ∧
        (∀ i b, bs[i]? = some (b, true) → (a.homeByte (storeAddr (handleKey h) (o + i))).2 = true) ∧
        ∀ b, b ∉ storeRange (handleKey h) o bs.length → (a.homeByte b).1 = (s.homeByte b).1)))

/-- Stream and context commands (R353, R354, R385): from a state that Table 25.5 does not list, or in P1 for those that go on, CMDST is 1 and
nothing else changes; from a listed state each has its effect, and a context command without a stopped context sets CMDST to 2. That SKIP
at the word after the last keeps the PC (log entry 14), that START keeps the host's g values and the fields that R110 does not name (log
entry 81) and status 1 in P1 (log entry 87) are the model's choices. Each completes by its own effect: start, resume, skip, suspend,
continue_, bind, unload, cresume, cskip, cend. -/
def Obligations.StreamCommands : Prop :=
  ∀ (s : State) (sid : Nat) (x : Stream), sid < 128 → s.pkg.ready = true → x = s.slot sid →
  ∀ wrong : State, wrong = s.putSlot sid { x with cmdst := 1 } →
  (s.pkg.p1 = true → ∀ i ∈ [Instr.start sid, .resume sid, .skip sid, .continue_ sid, .cresume sid, .cskip sid], exec i s = .next wrong) ∧
  (s.pkg.p1 = false →
    ((x.st = .idle ∨ x.st = .done) → s.mapped (sid / 16) = true → Answers (.start sid) s fun a => ∃ y, y = a.slot sid ∧ SameMemory s a ∧ (∀ d ∈ a.sq.decs, d.1 ≠ sid) ∧
      ((∀ d ∈ s.sq.decs, d.1 ≠ sid) → a = (s.putSlot sid y).cleanState sid fun _ => true) ∧ y.st = .ready ∧ y.pc = x.image.entry ∧ y.prio = x.image.prio ∧ y.ordinal = 0 ∧ y.cmdst = 0 ∧ y.frames = [] ∧ y.bracket = none ∧ y.image = x.image ∧ y.susp = x.susp ∧
      y.fact = x.fact ∧ (∀ k, k < 64 → vget y.ctrs k 0 = 0) ∧ (∀ k, k < 32 → vget y.t k 0 = 0) ∧
      ∀ k, k < 32 → vget y.g k 0 = if x.hostG.getLsbD k then vget x.g k 0 else 0) ∧
    (¬ ((x.st = .idle ∨ x.st = .done) ∧ s.mapped (sid / 16) = true) → exec (.start sid) s = .next wrong) ∧
    (∀ p ∈ [(Instr.resume sid, x.pc), (.skip sid, min (x.pc + 1) x.image.words.length)],
      (x.st = .faulted → s.mapped (sid / 16) = true → exec p.1 s = .next (s.putSlot sid
        { x with st := .ready, pc := p.2, wait := .none, failed := none, cmdst := 0, hostG := 0 })) ∧
      (¬ (x.st = .faulted ∧ s.mapped (sid / 16) = true) → exec p.1 s = .next wrong)) ∧
    (x.susp = true → Answers (.continue_ sid) s fun a => (a.slot sid) = { x with susp := false, cmdst := 0 } ∧ SameMemory s a ∧ a.sq.barges = s.sq.barges) ∧
    (x.susp = false → exec (.continue_ sid) s = .next wrong)) ∧
  (x.st ≠ .empty → Answers (.suspend sid) s fun a => (a.slot sid) = { x with susp := true, cmdst :=
    (if s.sq.barges.any (fun b => s.bargeSid b == sid && (b.st == .placed || b.st == .saving)) then 3 else 0) } ∧ a.sq.barges = s.sq.barges ∧ SameMemory s a) ∧
  (x.st = .empty → exec (.suspend sid) s = .next wrong) ∧
  (∀ bindable : Prop, bindable = (x.st = .idle ∨ x.st = .faulted ∨ x.st = .halted ∨ x.st = .done) →
    (∀ k m, bindable → x.image.kernels[x.arg0.toNat % 2 ^ 16]? = some k → s.kernel? x.arg1.toNat = some m →
      exec (.bind sid) s = .next (s.putSlot sid { x with
        cmdst := 0, image := { x.image with kernels := x.image.kernels.set (x.arg0.toNat % 2 ^ 16) (k.1, x.arg1.toNat) } })) ∧
    (bindable → (x.image.kernels[x.arg0.toNat % 2 ^ 16]? = none ∨ s.kernel? x.arg1.toNat = none) → exec (.bind sid) s = .next (s.putSlot sid { x with cmdst := 2 })) ∧
    (¬ bindable → exec (.bind sid) s = .next wrong)) ∧
  (∀ loaded : Prop, loaded = (x.st = .idle ∨ x.st = .done ∨ (x.st = .faulted ∧ ∀ o ∈ s.sq.ops, o.sid = sid → o.replay = none → o.done = true)) →
    (loaded → Answers (.unload sid) s fun a => ∃ y, y = a.slot sid ∧ SameMemory s a ∧ (∀ d ∈ a.sq.decs, d.1 ≠ sid) ∧
      ((∀ d ∈ s.sq.decs, d.1 ≠ sid) → a = s.putSlot sid y) ∧ y.st = .empty ∧ y.frames = [] ∧ y.image.words = [] ∧ y.image.kernels = []) ∧
    (¬ loaded → exec (.unload sid) s = .next wrong)) ∧
  (∀ i ∈ [Instr.cresume sid, .cskip sid, .cend sid], (s.pkg.p1 = false ∨ i = .cend sid) →
    ((argContext x.arg0).bind (fun a => s.stoppedOn sid a.1 a.2)) = none → exec i s = .next (s.putSlot sid { x with cmdst := 2 })) ∧
  (∀ n pid b c y st, argContext x.arg0 = some n → s.stoppedOn sid n.1 n.2 = some pid → s.barge? (pid / 2 ^ 10) = some b → b.save = none →
    b.ctxs[pid % 2 ^ 10]? = some c → s.ctx? c = some y → y.stop = some st → y.later = [] →
    ∀ goesAt : Instr → Ctx → Prop, (goesAt = fun i z => Answers i s fun a => (a.slot sid).cmdst = 0 ∧ SameMemory s a ∧
      a.ctx? c = some { z with stop := none, resolving := none }) →
    ∀ (h : Word) (left : BitVec 8), h = s.headerOf pid st.resume → left = (if y.r.rep = none ∧ h.getLsbD 19 = true then y.r.flags &&& ~~~(h.extractLsb' 24 8)
      else y.r.flags) →
    ∀ at_ : Ctx, at_ = (if h.getLsbD 20 = true ∧ y.r.rep = none ∧ y.marked = false then
        (if s.untranslated c = true then { y with needMark := true } else
          { y.land (y.last + 1) with
            gate := y.gate.map fun g => { g with released := true }, region := s.nextId, issued := 0, marked := true,
            needMark := false, shadow := some ((y.land (y.last + 1)).r, (y.land (y.last + 1)).inFlight) })
        else y) →
    ∀ skips : Regs → Prop, (skips = fun r => goesAt (.cskip sid) { at_ with
      r := r, issued := at_.issued + 1, marked := false, needMark := at_.needMark || decide (1024 ≤ at_.issued + 1) }) →
    (s.pkg.p1 = false → goesAt (.cresume sid) { y with r := { y.r with pc := st.resume } }) ∧
    (s.pkg.p1 = false → y.r.redirect = none → (∀ f ∈ y.r.loops, f.stop ≠ st.resume) → skips { at_.r with pc := st.resume + 1, rep := none, flags := left }) ∧
    (∀ u, s.pkg.p1 = false → y.r.redirect = some u → skips { at_.r with pc := u, redirect := none, rep := none, flags := left }) ∧
    Answers (.cend sid) s fun a => (a.slot sid).cmdst = 0 ∧ SameMemory s a ∧ ∃ z, a.ctx? c = some z ∧ z.halted = true ∧ z.stop = none ∧ z.gate = [] ∧
      z.r.loops = [] ∧ z.r.redirect = none ∧ z.r.sr = y.r.sr)

/-- Table-update requests (R357): the next request is taken when its kind is the one performed; a stale handle reports 1, missing storage 2, a
bad range 3 and a pinned or busy tensor 4, with nothing else changed; a good one hands its entries to the engine. The order of the
statuses and the further cases of status 3 are the model's choice (log entry 82). Each completes by its own effect: map, unmap, protect,
migrate, release. -/
def Obligations.TableRequests : Prop :=
  ∀ (s : State) (q : TuSlot), q = s.tuSlot → s.pkg.ready = true → s.pkg.p1 = false → s.hs.tuDone ≠ s.hs.tuProd → s.hs.tuBusy = false →
  ∀ reports : Instr → Nat → Prop, (reports = fun i n => Answers i s fun a => a.sq = s.sq ∧ a.ms = s.ms ∧ SameMemory s a ∧ a.hs.tuDone = s.hs.tuDone + 1 ∧
    ∃ e, a.hs.tu.find (s.hs.tuDone.toNat % 64) = some e ∧ e.status = n ∧ e.kind = q.kind ∧ e.handle = q.handle) →
  ∀ kinds : List (Instr × Nat), kinds = [(.map, 1), (.unmap, 2), (.protect, 3), (.migrate, 4), (.release, 5)] →
  (∀ p ∈ kinds, ((q.kind = 0 ∨ 6 ≤ q.kind) → reports p.1 3) ∧ (1 ≤ q.kind → q.kind ≤ 5 → q.kind ≠ p.2 → exec p.1 s = .next s) ∧
    (q.kind = p.2 → s.live? q.handle = none → reports p.1 1)) ∧
  ∀ (r : Rec) (t : Nat), s.live? q.handle = some r → t = handleKey q.handle →
  (∀ p ∈ kinds, q.kind = p.2 → p.2 ≠ 5 → (r.pages < q.first + q.count ∨ r.stored = false) → reports p.1 3) ∧
  (∀ p ∈ kinds, q.kind = p.2 → (p.2 = 2 ∨ p.2 = 4 ∨ p.2 = 5) → q.first + q.count ≤ r.pages → r.stored = true → q.arg ≤ 1 → r.ver = false → r.msa = false → r.st ≠ .compH →
    (r.pin ≠ 0 ∨ r.busy ≠ 0 ∨ r.st = .moving ∨ r.st = .rebuild) → reports p.1 4) ∧
  (q.first + q.count ≤ r.pages → r.stored = true → ∀ ks : List Nat, ks = (List.range q.count).map (q.first + ·) →
    ∀ hands : Instr → (List (Nat × DWord) → State → Prop) → Prop, (hands = fun i P => Answers i s fun a => a.hs.tuBusy = true ∧ a.hs.tuDone = s.hs.tuDone ∧
      ∃ ps, a.hs.tuQueue = s.hs.tuQueue ++ [{ tensor := t, pages := ps, last := true, stack := 0 }] ∧ P ps a) →
    (q.kind = 1 → s.availH (t / 2 ^ 20) < (ks.filter fun k => (s.pageLeaf? t k).isNone).length → reports .map 2) ∧
    (q.kind = 1 → (∀ k ∈ ks, s.pageLeaf? t k ≠ none) → hands .map fun ps a => ps = [] ∧ a.mem = s.mem ∧ a.ms = s.ms) ∧
    (∀ k f z, q.kind = 1 → ks = [k] → s.pageLeaf? t k = none → 1 ≤ s.availH (t / 2 ^ 20) → s.takeFrame (t / 2 ^ 20) 3 = some (f, z) →
      hands .map fun ps a => a.ms = z.ms ∧ a.mem = z.mem ∧ ∃ e, ps = [(k, e)] ∧ pteV e = true ∧ pteLeaf e = true ∧ pteTgt e = f / 2 ^ 20 % 32 ∧
        pteMsa e = r.msa ∧ pteVer e = r.ver ∧ pteRo e = r.ro) ∧
    (q.kind = 2 → r.st ≠ .moving → r.st ≠ .rebuild → r.pin = 0 → r.busy = 0 → hands .unmap fun ps a => a.ms = s.ms ∧ a.mem = s.mem ∧
      ps = ks.filterMap fun k => (s.pageLeaf? t k).map fun e => (k, e &&& ~~~1#64)) ∧
    (q.kind = 3 → hands .protect fun ps a => a.ms = s.ms ∧ a.mem = s.mem ∧ ps.map Prod.fst = ks ∧
      ∀ p ∈ ps, pteW p.2 = (q.arg % 2 == 1) ∧ ∀ e, s.pageLeaf? t p.1 = some e → p.2 &&& ~~~4#64 = e &&& ~~~4#64) ∧
    (q.kind = 4 → 2 ≤ q.arg → reports .migrate 3) ∧ (q.kind = 4 → q.arg = 1 → (r.ver = true ∨ r.msa = true) → reports .migrate 3) ∧
    (q.kind = 4 → q.arg = 0 → r.pin = 0 → r.busy = 0 → r.st ≠ .moving → r.st ≠ .rebuild →
      ∀ move, move = ks.filter (fun k => match s.pageLeaf? t k with
        | some e => pteV e && pteTgt e == 16
        | none => false) →
      (s.availH (t / 2 ^ 20) < move.length → reports .migrate 2) ∧
      (move.length ≤ s.availH (t / 2 ^ 20) → move ≠ [] → Answers .migrate s fun a => a.hs.tuBusy = true ∧ a.mem = s.mem ∧ a.hs.tuQueue = s.hs.tuQueue ∧
        (∀ k ∈ move, (t, k / 32) ∈ a.ms.heldSegs) ∧ ∀ h ∈ s.ms.heldSegs, h ∈ a.ms.heldSegs) ∧
      (move = [] → hands .migrate fun ps a => ps = [] ∧ a.mem = s.mem ∧ a.ms = s.ms))) ∧
  (q.kind = 5 → r.pin = 0 → r.busy = 0 → r.st ≠ .moving → r.st ≠ .rebuild → Answers .release s fun a => a.hs.tuBusy = true ∧
    (∀ z, a.rec? t = some z → z.live = false ∧ z.gen = r.gen % 511 + 1) ∧ a.live? q.handle = none ∧
    ∃ l, l.length = s.hs.tuQueue.length ∧ a.hs.tuQueue = l ++ [{ tensor := t, pages := [], last := true, stack := 0 }] ∧
      ((∀ u ∈ s.hs.tuQueue, u.tensor ≠ t) → l = s.hs.tuQueue))

/-- Loading and releasing images (R98 to R109, R352): LGO is ignored while busy and before READY; a load reads LLEN bytes of the host's, fails
where the host has fewer, refuses the container with the status of the rule it breaks, or places the image; a release frees an image that
nothing uses; LSTAT gets the status at the end. Which breaches report 2 or 3 (log entry 80), status 6 for a short file (log entry 114), a
load that waits in P1 (log entry 87) and an effect before the completion (log entry 96) are the model's choices. Each completes by its own
effect: load, releaseImage, loadOperationEnd. -/
def Obligations.ImageLoading : Prop :=
  ∀ (s : State) (l : LoadRegs), l = s.hs.load →
  ((l.busy = true ∨ s.pkg.ready = false) → (∀ f, exec (.load f) s = .next s) ∧ exec .releaseImage s = .next s) ∧
  (∀ n, l.busy = true → l.result = some n →
    exec .loadOperationEnd s = .next { s with hs := { s.hs with load := { l with busy := false, status := n, result := none } } }) ∧
  (l.busy = false → exec .loadOperationEnd s = .next s) ∧
  (l.busy = true → l.result = none → s.pkg.p1 = true → exec .loadOperationEnd s = .next s) ∧
  (l.busy = false → s.pkg.ready = true → s.pkg.p1 = true → ∀ f, exec (.load f) s =
    .next { s with hs := { s.hs with load := { l with busy := true, releasing := false, file := f, result := none } } }) ∧
  (l.busy = false → s.pkg.ready = true → s.pkg.p1 = false →
    ∀ ends : Instr → Nat → (State → Prop) → Prop, (ends = fun i n P => Answers i s fun a => SameMemory s a ∧ a.ctxs = s.ctxs ∧
      a.hs.load.busy = true ∧ a.hs.load.status = l.status ∧ a.hs.load.result = some n ∧ P a) →
    ∀ same : State → Prop, (same = fun a => a.sq = s.sq ∧ a.hs.load.lid = l.lid) →
    ends (.load none) 6 same ∧
    (∀ z, z.length < l.len.toNat → ends (.load (some z)) 6 same) ∧
    (∀ z f, l.len.toNat ≤ z.length → f = z.take l.len.toNat →
    ((fileNat f 0 4 ≠ 0x3143575a ∨ fileNat f 4 2 ≠ 1) → ends (.load (some z)) 1 same) ∧
    (∀ ss, fileNat f 0 4 = 0x3143575a → fileNat f 4 2 = 1 → readSections f (fileNat f 8 4) = some ss →
      (sectionOf ss 1 = none ∨ sectionOf ss 2 = none ∨ ∃ e ∈ ss, 10 < e.1 ∧ e.1 < 2 ^ 31) → ends (.load (some z)) 2 same) ∧
    (∀ e, readContainer f l.lmap = .error e → ends (.load (some z)) e same) ∧
    (∀ k, readContainer f l.lmap = .ok (.kernel k) →
      (s.imageFits k.size = false → ends (.load (some z)) 4 same) ∧
      (s.imageFits k.size = true → ends (.load (some z)) 0 fun a => a.hs.load.lid ≠ 0 ∧ s.nextId ≤ a.hs.load.lid ∧ a.hs.load.lid < a.nextId ∧
        k.bankMap = l.lmap ∧ a.sq = { s.sq with kernels := s.sq.kernels ++ [{ k with id := a.hs.load.lid }] })) ∧
    (∀ x, readContainer f l.lmap = .ok (.stream x) →
      ∀ taken : Prop, taken = (128 ≤ l.slot ∨ (s.slot l.slot).st ≠ .empty ∨ s.mapped (l.slot / 16) = false) →
      (taken → ends (.load (some z)) 5 same) ∧
      (¬ taken → ends (.load (some z)) 0 fun a => (∀ n, n ≠ l.slot → a.stream? n = s.stream? n) ∧ a.sq.kernels = s.sq.kernels ∧
        ∃ y, a.stream? l.slot = some y ∧ y.st = .idle ∧ y.pc = x.entry ∧ y.prio = x.prio ∧ y.image = x ∧ x.entry < x.words.length ∧ x.prio < 8 ∧
          (∀ k ∈ x.kernels, k.2 = 0) ∧ y.fact = (s.slot l.slot).fact ∧ ∀ k, k < 32 → vget y.g k 0 = 0))) ∧
    (∀ id, id = l.lrel.toNat →
      ((id = 0 ∨ s.kernel? id = none) → ends .releaseImage 8 same) ∧
      (id ≠ 0 → s.kernel? id ≠ none → s.imageInUse id = true → ends .releaseImage 7 same) ∧
      (id ≠ 0 → s.kernel? id ≠ none → s.imageInUse id = false → ends .releaseImage 0 fun a => a.kernel? id = none ∧
        ∀ k, k ≠ id → a.kernel? k = s.kernel? k)))

/-- The mailbox (R351, R378, R381 to R385): a command is ignored while one is under way; each has its effect and the status it reports, and
completion raises vector 2. The record of a fence of its own (log entry 71), the order of SETMAP's statuses (log entry 83), the calls that
give the summary (log entry 85), where FWLOAD and FWCOMMIT are not permitted (log entry 86), an effect before the completion (log entry
96), what MB_LEN keeps (log entry 116) and a guest that PSTATE asks to pre-empt (log entry 135) are the model's choices. Each completes by
its own effect: elog, cert, attest, rdout, fwload, fwcommit, setmap, mailboxFence, pcap, pstate, mailboxCommandComplete. -/
def Obligations.MailboxCommands : Prop :=
  ∀ (s : State) (m : Mailbox), m = s.hs.mailbox →
  (m.busy = true → (∀ i ∈ [Instr.elog, .cert, .attest, .rdout, .fwload, .fwcommit, .setmap, .mailboxFence, .pcap, .pstate], exec i s = .next s) ∧
    Answers .mailboxCommandComplete s fun a => SameMemory s a ∧ a.sq = s.sq ∧ a.hs.mailbox.busy = false ∧ a.hs.mailbox.status = m.result ∧
      a.pkg.msix = s.pkg.msix ||| 4#16 ∧ a.pkg.p1 = (s.pkg.p1 && m.powerDue.isNone)) ∧
  (m.busy = false → exec .mailboxCommandComplete s = .next s ∧
    ∀ gives : Instr → Nat → (State → Prop) → Prop, (gives = fun i n P => Answers i s fun a => a.hs.mailbox.busy = true ∧ a.hs.mailbox.result = n ∧
      a.hs.mailbox.word 4 &&& 0x1ff#32 = 0x101#32 ∧ P a) →
    ∀ quiet : State → Prop, (quiet = fun a => SameMemory s a ∧ a.sq = s.sq ∧ a.wk = s.wk ∧ a.ms = s.ms ∧ a.ctxs = s.ctxs ∧ a.cores = s.cores) →
    ∀ data : State → Nat → Byte, (data = fun a k => a.hs.mailbox.data.get k 0) →
    (∀ r rest, s.pkg.log = r :: rest → gives .elog 0 fun a => quiet a ∧ a.pkg = { s.pkg with log := rest } ∧ a.hs.mailbox.len = r.length ∧
      ∀ k, k < r.length → data a k = r.getD k 0) ∧
    (s.pkg.log = [] → (m.drained = true ∨ s.pkg.summary = []) → gives .elog 2 fun a => quiet a ∧ a.pkg = s.pkg) ∧
    (s.pkg.log = [] → m.drained = false → s.pkg.summary ≠ [] → gives .elog 0 fun a => quiet a ∧ a.pkg = s.pkg ∧ a.hs.mailbox.len = 64 ∧
      ∀ src, src < 16 → leNat ((List.range 4).map fun k => data a (4 * src + k)) = s.pkg.summary.get src 0 % 2 ^ 32) ∧
    gives .cert 0 (fun a => quiet a ∧ a.pkg = s.pkg ∧ a.hs.mailbox.output = Config.certificate) ∧
    (m.len ≠ 32 → gives .attest 3 fun a => quiet a ∧ a.hs.mailbox.output = m.output) ∧
    (m.len = 32 → gives .attest 0 fun a => quiet a ∧ a.pkg = s.pkg ∧ ∃ o, o = a.hs.mailbox.output ∧ o.length = 624 ∧
      (∀ k, k < 32 → o.getD k 0 = m.data.get k 0) ∧ leNat ((o.drop 100).take 4) = s.pkg.capgen.toNat ∧ leNat ((o.drop 104).take 4) = s.pkg.rr.toNat ∧
      ∀ v, v < 8 → (leNat ((o.drop 108).take 4)).testBit v = s.mapped v) ∧
    (m.output = [] → gives .rdout 2 quiet) ∧
    (m.output ≠ [] → m.output.length ≤ 256 * m.arg.toNat → gives .rdout 3 quiet) ∧
    (256 * m.arg.toNat < m.output.length → gives .rdout 0 fun a => quiet a ∧ a.hs.mailbox.len = min 256 (m.output.length - 256 * m.arg.toNat) ∧
      ∀ k, k < a.hs.mailbox.len → data a k = m.output.getD (256 * m.arg.toNat + k) 0) ∧
    (s.pkg.recovery = false → gives .fwload 4 (fun a => quiet a ∧ a.hs.mailbox.staged = m.staged) ∧ gives .fwcommit 4 (fun a => quiet a ∧ a.hs.mailbox.flash = m.flash)) ∧
    (s.pkg.recovery = true → 256 < m.len → gives .fwload 3 fun a => quiet a ∧ a.hs.mailbox.staged = m.staged) ∧
    (s.pkg.recovery = true → m.len ≤ 256 → gives .fwload 0 fun a => quiet a ∧ (∀ k, k < m.len → a.hs.mailbox.staged.get (m.arg.toNat + k) 0 = m.data.get k 0) ∧
      ∀ k, (k < m.arg.toNat ∨ m.arg.toNat + m.len ≤ k) → a.hs.mailbox.staged.find k = m.staged.find k) ∧
    (s.pkg.recovery = true → Config.verifies m.staged = false → gives .fwcommit 5 fun a => quiet a ∧ a.pkg = s.pkg ∧ a.hs.mailbox.flash = m.flash) ∧
    (s.pkg.recovery = true → Config.verifies m.staged = true → gives .fwcommit 0 fun a => a.hs.mailbox.flash = m.staged ∧ a.pkg.ready = true ∧
      a.pkg.recovery = false ∧ a.mem = [] ∧ a.ctxs = [] ∧ a.sq.streams = []) ∧
    (∀ v p off, v = field m.arg 0 3 → p = field m.arg 4 3 → off = m.arg.getLsbD 8 →
      ∀ used : Prop, used = (s.dieUsed v = true ∨ (off = false ∧ ∃ w, s.dieOfStack p = some w ∧ s.dieUsed w = true) ∨ s.moving v = true) →
      (used → gives .setmap 4 fun a => quiet a ∧ a.pkg = s.pkg) ∧
      (¬ used → off = false → (∃ w, s.dieOfStack p = some w ∧ w ≠ v) → gives .setmap 3 fun a => quiet a ∧ a.pkg = s.pkg) ∧
      (¬ used → off = true → gives .setmap 0 fun a => quiet a ∧ a.stackOfDie v = none ∧ a.pkg.capgen = s.pkg.capgen + 1 ∧
        ∀ w, w ≠ v → a.stackOfDie w = s.stackOfDie w) ∧
      (¬ used → off = false → (∀ w, s.dieOfStack p = some w → w = v) → p ∉ s.pkg.fencedStacks → gives .setmap 0 fun a => SameMemory s a ∧
        a.stackOfDie v = some p ∧ a.pkg.capgen = s.pkg.capgen + 1 ∧ a.sq.streams = s.sq.streams ∧ ∀ w, w ≠ v → a.stackOfDie w = s.stackOfDie w)) ∧
    (2500 ≤ m.arg.toNat → m.arg.toNat ≤ 5000 → gives .pcap 0 fun a => quiet a ∧ a.pkg = { s.pkg with pcap := m.arg.toNat }) ∧
    ((m.arg.toNat < 2500 ∨ 5000 < m.arg.toNat) → gives .pcap 3 fun a => quiet a ∧ a.pkg = s.pkg) ∧
    (m.arg = 0 → s.pkg.p1 = false → gives .pstate 0 fun a => quiet a ∧ a.pkg = s.pkg ∧ a.hs.mailbox.powerDue = m.powerDue) ∧
    (m.arg = 0 → s.pkg.p1 = true → gives .pstate 0 fun a => quiet a ∧ a.pkg = s.pkg ∧ a.hs.mailbox.powerDue = some (s.pkg.ioTick + 100000)) ∧
    (m.arg = 1 → s.pkg.p1 = true → gives .pstate 0 fun a => quiet a ∧ a.pkg = s.pkg) ∧
    (∀ quietAll : Prop, quietAll = ((∀ p ∈ s.sq.streams, p.2.st = .empty ∨ (p.2.susp = true ∧ s.bargesRun p.1 = false)) ∧ s.hs.guest.st ≠ .present ∧
        (∀ o ∈ s.wk.gv, o.sent = none) ∧ (∀ k ∈ s.wk.tiles, k.sent = none) ∧ (∀ h ∈ s.ms.held, h.sent = none) ∧ ∀ g ∈ s.gates, g.sent = none) →
      m.arg = 1 → s.pkg.p1 = false →
      (quietAll → gives .pstate 0 fun a => quiet a ∧ a.pkg = { s.pkg with p1 := true }) ∧
      (¬ quietAll → gives .pstate 4 fun a => quiet a ∧ a.pkg = s.pkg ∧ a.hs.guest =
        (if s.hs.guest.st = .present ∧ s.hs.guest.stopped = false then
          { s.hs.guest with stopped := true, preemptBy := some (s.pkg.ioTick + 5000) } else s.hs.guest))) ∧
    (∀ kind idx, kind = field m.arg 0 4 → idx = field m.arg 16 16 →
      ∀ fenced : State → Prop, (fenced = fun a => a.pkg.capgen = s.pkg.capgen + 1 ∧ a.pkg.rr = BitVec.ofNat 32
        (2 ^ 31 + min 127 (field s.pkg.rr 24 7 + 1) * 2 ^ 24 + kind * 2 ^ 20 + 4 * 2 ^ 16 + idx) ∧
        (s.pkg.log.length < 512 → ∃ r, a.pkg.log = s.pkg.log ++ [r] ∧ r.getD 0 0 = 0x22#8 ∧ r.getD 1 0 = 2#8 ∧ leNat ((r.drop 2).take 2) = 13)) →
      ((kind = 0 ∨ 8 ≤ kind) → gives .mailboxFence 3 quiet) ∧
      (kind = 7 → idx < 8 → vget s.pkg.peers idx 0 ≠ 3 → gives .mailboxFence 0 fun a => quiet a ∧ fenced a ∧ vget a.pkg.peers idx 0 = 3) ∧
      (kind = 1 → idx < 2304 → (s.core idx).fenced = false → s.fencedCoresOf (idx / 48) = 0 → (∀ h, h < 4 → s.ctx? (idx * 4 + h) = none) →
        gives .mailboxFence 0 fun a => SameMemory s a ∧ fenced a ∧ (a.core idx).fenced = true ∧ (a.core idx).slotOwner = [] ∧
          (∀ j, j < 4 → vget (a.core idx).banks j Bank.reset = Bank.reset) ∧ ∀ k, k ≠ idx → a.core k = s.core k) ∧
      (kind = 3 → idx < 1024 → idx ∉ s.pkg.fencedChannels → (∀ r ∈ s.ms.reserve, ∀ j ∈ idx :: s.pkg.fencedChannels, frameChannel r.2.2 ≠ j / 4) → gives .mailboxFence 0 fun a => SameMemory s a ∧ fenced a ∧
        a.pkg.fencedChannels = s.pkg.fencedChannels ++ [idx]) ∧
      (kind = 5 → idx = 0 → s.hs.guest.modified = [] → (s.hs.guest.st = .present ∨ s.hs.guest.st = .preempted) → gives .mailboxFence 0 fun a => SameMemory s a ∧ fenced a ∧
        a.hs.guest.st = .fenced ∧ a.hs.guest.reason = 6)))

/-- Errors (R372 to R376, R378): a corrected error is logged and changes nothing else; an uncorrected one also leaves its mark where it lies
and counts towards the fence of its unit, but for the scratchpad, which belongs to neither half of a core; the scrub leaves what it read;
and a replayed flit is only logged. The fence's own record (log entry 71), what an error spoils (log entry 72) and the times that a limit
counts (log entry 93) are the model's choices. Each completes by its own effect: patrolScrub, errorDetected, linkReplay. -/
def Obligations.DetectedErrors : Prop :=
  ∀ (s : State),
  ∀ logs : State → Nat → Nat → Prop, (logs = fun a sev source => a.pkg.msix.getLsbD 1 = true ∧
    (s.pkg.log.length < 512 → ∃ r rest, a.pkg.log = s.pkg.log ++ r :: rest ∧ r.length = 32 ∧ r.getD 0 0 = 0x22#8 ∧ (r.getD 1 0).toNat = sev ∧
      leNat ((r.drop 2).take 2) = source ∧ leNat ((r.drop 8).take 4) = s.pkg.ioTick % 2 ^ 32 ∧
      leNat ((r.drop 24).take 8) = (s.pkg.errTotal.get source 0 + 1) % 2 ^ 64) ∧
    (512 ≤ s.pkg.log.length → a.pkg.log = s.pkg.log ∧ ∃ n, a.pkg.summary.find source = some n)) →
  ∀ others : State → Prop, (others = fun a => SameMemory s a ∧ a.ms = s.ms ∧ a.wk = s.wk ∧ a.hs = s.hs) →
  (∀ (synd : Word) a c i j k, ∀ p ∈ [(ErrorPlace.granule a, 1), (.l2 a, 1), (.codebook k i j, 1), (.rowSlot k i j, 1), (.streamWord i j, 1), (.register c i j, 2),
      (.operand c i j, 2), (.snapshot c i j, 2), (.gate c i j, 2), (.l2Tag a, 1), (.streamState i j, 1), (.result c i j, 3), (.accum c i, 3), (.tableEntry i j, 10), (.record i, 11)],
    ∀ e : ErrorEvent, e = { place := p.1, corrected := true, syndrome := synd } → ∀ o ∈ [Instr.errorDetected e, .patrolScrub e []],
    Answers o s fun b => others b ∧ b.ctxs = s.ctxs ∧ b.cores = s.cores ∧ b.sq = s.sq ∧ b.memPoi = s.memPoi ∧ logs b 0 p.2) ∧
  (∀ unit stack, Answers (.linkReplay stack unit) s fun b => b = { s with pkg := b.pkg } ∧ logs b 0 7) ∧
  (∀ (synd : Word) (k : Nat), ∀ recent, recent = ((s.core k).errTimes.filter fun t => vget s.pkg.ticks (stackOf k) 0 < t + 10 ^ 8).length →
    ∀ counted : State → Prop, (counted = fun b => (b.core k).errTimes.length = recent + 1 ∧ (b.core k).fenced = (s.core k).fenced ∧
      (∀ n, n ≠ k → b.core n = s.core n) ∧ b.sq = s.sq ∧ b.pkg.rr = s.pkg.rr) →
    ∀ found : ErrorPlace → (State → Prop) → Prop, (found = fun p P => Answers (.errorDetected { place := p, corrected := false, syndrome := synd }) s P) →
    (∀ a, found (.granule a) fun b => others b ∧ b.ctxs = s.ctxs ∧ b.cores = s.cores ∧ b.pkg.rr = s.pkg.rr ∧ logs b 1 1 ∧ b.poisonAt a = true) ∧
    (recent < 2 →
      (∀ c x, coreOf c = k → s.ctx? c = some x →
        (∀ n j, n < 64 → found (.register c n j) fun b => others b ∧ counted b ∧ logs b 1 2 ∧ b.ctx? c = some { x with r := { x.r with
          sr := vset x.r.sr (x.r.sIndex n) { val := (vget x.r.sr (x.r.sIndex n) PW.zero).val, poi := true } } }) ∧
        (∀ n j, n < 31 → j < 64 → found (.operand c n j) fun b => others b ∧ counted b ∧ logs b 1 2 ∧ ∃ y, b.ctx? c = some y ∧
          (vget y.r.opnd n PV.zero).val = (vget x.r.opnd n PV.zero).val ∧ (vget y.r.opnd n PV.zero).poi.getLsbD j = true) ∧
        (∀ n w g, x.gate[n]? = some g → found (.gate c n w) fun b => others b ∧ counted b ∧ logs b 1 2 ∧ ∃ y z, b.ctx? c = some y ∧
          y.gate[n]? = some z ∧ z.cells = g.cells ∧ (∀ q ∈ (g.cells.drop (4 * w)).take 4, q.1 ∈ z.poi) ∧
          ∀ q ∈ z.poi, q ∈ g.poi ∨ q ∈ ((g.cells.drop (4 * w)).take 4).map Prod.fst) ∧
        (∀ t, t < 8 → found (.accum c t) fun b => others b ∧ counted b ∧ logs b 1 3 ∧ b.ctx? c = some { x with accPoi := x.accPoi ||| (1#8 <<< t) })) ∧
      (∀ j n, j < 4 → n < 256 → found (.codebook k j n) fun b => others b ∧ b.ctxs = s.ctxs ∧ logs b 1 1 ∧ (vget (b.core k).banks j Bank.reset).poi.getLsbD n = true ∧
        (vget (b.core k).banks j Bank.reset).entries = (vget (s.core k).banks j Bank.reset).entries)) ∧
    (2 ≤ recent → k < 2304 → (s.core k).fenced = false → s.fencedCoresOf (k / 48) = 0 → (∀ h, h < 4 → s.ctx? (k * 4 + h) = none) →
      ∀ j n, found (.codebook k j n) fun b => SameMemory s b ∧ (b.core k).fenced = true ∧ logs b 1 1 ∧
        b.pkg.capgen = s.pkg.capgen + 1 ∧ b.pkg.rr = BitVec.ofNat 32 (2 ^ 31 + min 127 (field s.pkg.rr 24 7 + 1) * 2 ^ 24 + 1 * 2 ^ 20 + 1 * 2 ^ 16 + k)) ∧
    (∀ i n, found (.tableEntry i n) fun b => SameMemory s b ∧ b.ctxs = s.ctxs ∧ b.cores = s.cores ∧ b.sq = s.sq ∧ (i, n) ∈ b.ms.broken ∧ logs b 1 10) ∧
    (∀ t, found (.record t) fun b => others b ∧ b.ctxs = s.ctxs ∧ b.cores = s.cores ∧ t ∈ b.sq.badRecs ∧ b.sq.recs = s.sq.recs ∧ logs b 1 11) ∧
    (∀ sid pc, found (.streamWord sid pc) fun b => others b ∧ b.ctxs = s.ctxs ∧ b.cores = s.cores ∧ (sid, pc) ∈ b.sq.badWords ∧
      b.sq.streams = s.sq.streams ∧ logs b 1 1) ∧
    (∀ sid n, found (.streamState sid n) fun b => others b ∧ b.ctxs = s.ctxs ∧ b.cores = s.cores ∧ (sid, n) ∈ b.sq.badState ∧
      b.sq.streams = s.sq.streams ∧ logs b 1 1) ∧
    (∀ a, found (.l2 a) fun b => others b ∧ b.ctxs = s.ctxs ∧ b.cores = s.cores ∧ b.sq = s.sq ∧ logs b 1 1 ∧ b.poisonAt (logicalMark a) = true) ∧
    (∀ a, found (.l2Tag a) fun b => others b ∧ b.ctxs = s.ctxs ∧ b.cores = s.cores ∧ b.sq = s.sq ∧ logs b 1 1 ∧
      ∀ i, i < 256 → b.poisonAt (logicalMark (a / 256 * 256 + i)) = true) ∧
    (∀ a tag, (s.badTag a tag = true → found (.compTag a tag) fun b => SameMemory s b ∧ b.ctxs = s.ctxs ∧ b.cores = s.cores ∧ b.sq = s.sq ∧ logs b 1 9 ∧
        b.ms = { s.ms with badTags := s.ms.badTags.put (granuleKey a) (BitVec.ofNat 4 tag) }) ∧
      (s.badTag a tag = false → exec (.errorDetected { place := .compTag a tag, corrected := false, syndrome := synd }) s = .next s))) ∧
  (∀ (synd : Word) a (bs : List (BitVec 8)), devBase ≤ a → deviceTgt a < 16 → s.storageOf a = [] → bs.length = 64 →
    ((s.pkg.sectorErrs.get (pseudoChannel a) []).filter fun t =>
      t.1 != a / 64 && vget s.pkg.ticks (deviceTgt a / 2) 0 < t.2 + 86400 * 10 ^ 8).length < 15 →
    ∀ e : ErrorEvent, e = { place := .sector a, corrected := false, syndrome := synd } →
    (Answers (.errorDetected e) s fun b => others b ∧ b.poisonAt a = true ∧ logs b 1 4 ∧ b.pkg.fencedChannels = s.pkg.fencedChannels) ∧
    (Answers (.patrolScrub e bs) s fun b => SameMemoryBut ((List.range 64).map fun i => a / 64 * 64 + i) s b ∧ (∀ i, i < 64 → b.byte (a / 64 * 64 + i) = bs.getD i 0) ∧
      b.poisonAt a = true ∧ logs b 1 4))

/-- Fences, links and bring-up (R343, R351, R377, R378, R380, R386, R387): a failed link fences its unit or makes the device FATAL; a thermal
trip fences the stack, whose die then moves to the lowest spare or becomes unmapped with its streams FAULTED; the end of a copy maps the
die to the spare with the bytes of the old stack; a peer port's change advances CAPGEN; throttling changes nothing a program sees; and
reset leaves the values of Table 27.4 and Table 27.6. CAPGEN 0 and the empty memory and cores (log entries 4 and 3), what ends with a
stack that has no spare (log entry 75), the severities of links (log entry 77) and the moment of unmapping (log entry 120) are the model's
choices. Each completes by its own effect: linkFailure, thermalThrottle, thermalTrip, reset, spareCopyComplete, peerPortUp. -/
def Obligations.FencesAndReset : Prop :=
  ∀ (s : State),
  ∀ fences : State → Nat → Nat → Nat → Prop, (fences = fun a kind reason idx => a.pkg.capgen = s.pkg.capgen + 1 ∧
    a.pkg.rr = BitVec.ofNat 32 (2 ^ 31 + min 127 (field s.pkg.rr 24 7 + 1) * 2 ^ 24 + kind * 2 ^ 20 + reason * 2 ^ 16 + idx)) →
  (∀ n, Answers (.linkFailure .mesh n) s fun a => a = { s with pkg := a.pkg } ∧ a.pkg.fatal = true ∧ n ∈ a.pkg.deadLinks ∧ a.pkg.vmap = s.pkg.vmap ∧
    a.pkg.rr = s.pkg.rr) ∧
  (∀ n, n < 8 → vget s.pkg.peers n 0 ≠ 3 → Answers (.linkFailure .peer n) s fun a => a = { s with pkg := a.pkg } ∧ vget a.pkg.peers n 0 = 3 ∧ fences a 7 3 n) ∧
  (∀ n, n < 4 → n ∉ s.pkg.fencedExpanders → Answers (.linkFailure .expander n) s fun a => n ∈ a.pkg.fencedExpanders ∧ fences a 6 3 n ∧
    ∀ t r k l, s.rec? t = some r → r.stored = true → k < r.pages → s.pageLeaf? t k = some l → pteC l = false → pteTgt l = 16 →
      s.expanderFirst n ≤ ptePa l / pageBytes → ptePa l / pageBytes < s.expanderFirst n + s.expanderPages n →
      ∃ z, a.rec? t = some z ∧ z.st = .drop ∧ z.stored = false) ∧
  ((s.hs.guest.st = .present ∨ s.hs.guest.st = .preempted) → Answers (.linkFailure .guest 0) s fun a => SameMemory s a ∧ a.hs.guest.st = .fenced ∧
    a.hs.guest.reason = 4 ∧ fences a 5 3 0) ∧
  (∀ n, n < 48 → n ∉ s.pkg.fencedClusters → Answers (.linkFailure .scratchFabric n) s fun a => n ∈ a.pkg.fencedClusters ∧
    ∀ i, i < 48 → (a.core (n * 48 + i)).fenced = true) ∧
  (∀ p, p < 8 → p ∉ s.pkg.fencedStacks → ∀ q ∈ [(Instr.thermalTrip p, 6), (.linkFailure .sequencer p, 1)],
    Answers q.1 s fun a => p ∈ a.pkg.fencedStacks ∧
      a.pkg.rr = BitVec.ofNat 32 (2 ^ 31 + min 127 (field s.pkg.rr 24 7 + 1) * 2 ^ 24 + 4 * 2 ^ 20 + q.2 * 2 ^ 16 + p) ∧
      (s.dieOfStack p = none → a.pkg.capgen = s.pkg.capgen + 1 ∧ SameMemory s a ∧ a.sq = s.sq ∧ a.ctxs = s.ctxs ∧ a.pkg.vmap = s.pkg.vmap) ∧
      (∀ v, s.dieOfStack p = some v → s.spareStack p = none → a.savesOpen v = true → a.pkg.capgen = s.pkg.capgen + 1 ∧ a.stackOfDie v = some p ∧ a.pkg.copying.find v = some p) ∧
      (∀ v, s.dieOfStack p = some v → s.spareStack p = none → (∀ b ∈ s.sq.barges, b.die = v → b.st = .suspended ∨ b.st = .retired) →
        a.pkg.capgen = s.pkg.capgen + 2 ∧ a.stackOfDie v = none ∧ (∀ w, w ≠ v → a.stackOfDie w = s.stackOfDie w) ∧
        ∀ sid x, sid / 16 = v → a.stream? sid = some x → x.st = .faulted ∨ x.st = .empty) ∧
      (∀ v w, s.dieOfStack p = some v → s.spareStack p = some w → a.pkg.capgen = s.pkg.capgen + 1 ∧ a.pkg.copying.find v = some w ∧ a.stackOfDie v = some p)) ∧
  (∀ p, Answers (.thermalThrottle p) s fun a => a = { s with pkg := { s.pkg with throttled := a.pkg.throttled } } ∧ p ∈ a.pkg.throttled) ∧
  (∀ v p q, v < 8 → p < 8 → q < 8 → p ≠ q → s.pkg.copying.find v = some q → s.stackOfDie v = some p → Memory.wf s.mem = true →
    (∀ b ∈ s.sq.barges, b.die = v → b.st ≠ .placed ∧ b.st ≠ .saving) →
    Answers (.spareCopyComplete v) s fun a => a.stackOfDie v = some q ∧ a.pkg.copying.find v = none ∧ a.pkg.capgen = s.pkg.capgen + 1 ∧ (∀ w, w ≠ v → a.stackOfDie w = s.stackOfDie w) ∧
      (∀ x, devBase ≤ x → x < devBase + 2 ^ 53 → deviceTgt x / 2 = p → a.byte (x - p * 2 ^ 49 + q * 2 ^ 49) = s.byte x) ∧
      (∀ x, x < devBase → a.byte x = s.byte x) ∧ a.sq.streams = s.sq.streams ∧ a.sq.ops = s.sq.ops) ∧
  (∀ v, s.savesOpen v = true → exec (.spareCopyComplete v) s = .next s) ∧
  (∀ v, s.pkg.copying.find v = none → exec (.spareCopyComplete v) s = .next s) ∧
  (∀ port up, ∀ new : Nat, new = (if up then 2 else 1) →
    (port < 8 → vget s.pkg.peers port 0 ≠ 3 → vget s.pkg.peers port 0 ≠ new → exec (.peerPortUp port up) s = .next { s with pkg := { s.pkg with
      peers := vset s.pkg.peers port new, capgen := s.pkg.capgen + 1 } }) ∧
    ((vget s.pkg.peers port 0 = 3 ∨ vget s.pkg.peers port 0 = new) → exec (.peerPortUp port up) s = .next s)) ∧
  (∀ ok guest : Bool, ok = Config.verifies s.hs.mailbox.flash → Answers (.reset guest) s fun a => a.hs.guest.st = (if ok && guest then .present else .absent) ∧ a.pkg.ready = ok ∧ a.pkg.recovery = (!ok) ∧ a.pkg.fatal = false ∧ a.pkg.p1 = false ∧ a.pkg.rr = 0 ∧
    a.pkg.capgen = 0 ∧ a.pkg.pcap = 5000 ∧ a.pkg.log = [] ∧ (∀ v, v < 8 → a.stackOfDie v = some v) ∧ a.mem = [] ∧ a.ctxs = [] ∧ a.cores = [] ∧
    a.sq.streams = [] ∧ a.sq.recs = [] ∧ a.sq.ops = [] ∧ a.sq.collTmo = 1000 ∧ a.hs.load.lmap = 0xfedcba9876543210#64 ∧ a.hs.cwProd = 0 ∧
    a.hs.mailbox.busy = false ∧ a.hs.mailbox.flash = s.hs.mailbox.flash)

/-- Peer collectives (R358 to R360): a message joins the operation that awaits its rank, once, while the port is up; a collective that has
waited longer than COLL_TMO for one ends with a TIMEOUT record, its counter falling with the tick, and one that has not goes on. Each
completes by its own effect: peerCollectiveMessage, collTimeout. -/
def Obligations.PeerCollectives : Prop :=
  ∀ (s : State) (id : Nat) (o : Op) (g n : Nat), s.op? id = some o → o.id = id → o.collective = some (g, n) →
  (∀ rank q sender agrees counts data, ∀ fits : Prop,
    fits = (o.done = false ∧ rank ∈ s.peerRanks g ∧ vget s.pkg.peers (rankPort ((s.group g).getD rank 0)) 0 = 2 ∧ ∀ m ∈ o.msgs, m.rank ≠ rank) →
    (fits → Answers (.peerCollectiveMessage id rank q sender agrees counts data) s fun a => SameMemory s a ∧ a.hs = s.hs ∧ a.sq.streams = s.sq.streams ∧
      ∃ m, a.op? id = some { o with msgs := o.msgs ++ [m] } ∧ m.rank = rank ∧ m.counts = counts ∧ m.data = data ∧
        (m.ok = true ↔ agrees = true ∧ q = (s.group g).length ∧ sender = rank)) ∧
    (¬ fits → exec (.peerCollectiveMessage id rank q sender agrees counts data) s = .next s)) ∧
  (∀ waits : Prop, waits = (o.done = false ∧ o.started = true ∧ o.out = none ∧ ∃ i ∈ s.peerRanks g, ∀ m ∈ o.msgs, m.rank ≠ i) →
    (¬ waits → exec (.collTimeout id) s = .next s) ∧
    (s.pkg.ioTick ≤ o.since + s.sq.collTmo.toNat * 100000 → exec (.collTimeout id) s = .next s) ∧
    (∀ i, waits → o.since + s.sq.collTmo.toNat * 100000 < s.pkg.ioTick → s.localRanks g = [(i, o.die)] → s.partner g n o.die = some o →
      Answers (.collTimeout id) s fun a => (∀ p, a.op? id = some p → p.done = true) ∧
        (WindowOpen s → a.hs.cw.find (s.hs.cwProd.toNat % 4096) = some (streamRecord o.sid o.pc
          { cls := 8, code := 0x80, flags := 12, slot := 0xff, subcode := 0, bno := o.pc, value := g })) ∧
        (o.replay = none → 0 < o.ctr → a.sq.decs = s.sq.decs ++ [(o.sid, o.ctr, o.pc)]) ∧
        ((o.replay ≠ none ∨ o.ctr = 0) → a.sq.decs = s.sq.decs)))

/-- Taking a fault and going on from one (R163, R326, R327, Table 21.5): under STOP the context stops at its resume point and the record holds
where and why; under END the task is over with its gate discarded; under RESOLVE a dropped tensor with a valid recipe is rebuilt first; a
halted task's fault is an error record alone; and a stopped context keeps a further fault for its next boundary. -/
def Obligations.TakingFaults : Prop :=
  ∀ (s : State) (c resume : Nat) (f : FaultInfo) (x : Ctx) (b : Barge), s.ctx? c = some x → x.task < 2 ^ 10 → s.barge? x.barge = some b → b.save = none →
    b.ctxs[x.task]? = some c → WindowOpen s →
  ∀ action : Nat, action = (((s.op? b.op).bind fun o => s.stream? o.sid).map fun y => y.fact.toNat / 2 ^ (2 * f.cls) % 4).getD 0 →
  ∀ posts : State → FaultInfo → Nat → Nat → Prop, (posts = fun a f flags pc => ∃ r, Posts s a r ∧ r.length = 32 ∧
    ∀ at_ : Nat → Nat → Nat, (at_ = fun o n => leNat ((r.drop o).take n)) →
      at_ 0 1 = f.cls % 256 ∧ at_ 1 1 = flags % 256 ∧ at_ 2 2 = f.code % 2 ^ 16 ∧ at_ 4 1 = ((s.op? b.op).map (·.sid)).getD 0 % 256 ∧ at_ 5 1 = f.slot % 256 ∧
      at_ 6 1 = f.subcode % 256 ∧ at_ 7 1 = b.die % 256 ∧ at_ 8 4 = f.bno % 2 ^ 32 ∧ at_ 12 4 = b.g % 2 ^ 32 ∧ at_ 16 1 = c / 4 / 48 % 6 ∧ at_ 17 1 = c / 4 % 48 ∧
      at_ 18 1 = c % 4 ∧ at_ 19 1 = x.task % 256 ∧ at_ 20 4 = pc % 2 ^ 32 ∧ at_ 24 8 = f.value % 2 ^ 64) →
  ∀ a, a = s.takeFault c resume f →
  ∀ alone : Prop, alone = (a.mem = s.mem ∧ a.cores = s.cores ∧ ∀ k, k ≠ c → a.ctx? k = s.ctx? k) →
  alone ∧
  (x.halted = true → posts a f (f.flags ||| 8) 0xffffffff ∧ a.ctx? c = some x) ∧
  (x.halted = false → x.stop.isSome = true → a.ctx? c = some { x with
    later := x.later ++ [{ info := f, action := action, resume := if f.flags / flRolled % 2 = 1 then some resume else none }] } ∧ a.hs = s.hs) ∧
  (x.halted = false → x.stop = none →
    ((action = 0 ∨ action = 3 ∨ (action = 2 ∧ s.resolvable f = none)) → posts a f f.flags resume ∧
      a.ctx? c = some { x with stop := some { cls := f.cls, resume := resume, posted := true } }) ∧
    (action = 1 → x.later = [] → posts a f (f.flags ||| 8) resume ∧ ∃ y, a.ctx? c = some y ∧ y.halted = true ∧ y.stop = none ∧ y.gate = [] ∧ y.r.loops = [] ∧
      y.r.redirect = none ∧ y.r.sr = x.r.sr) ∧
    (∀ t, action = 2 → s.resolvable f = some t → a.hs = s.hs ∧
      a.ctx? c = some { x with stop := some { cls := f.cls, resume := resume, posted := false }, resolving := some (t, f) } ∧
      ∃ r, a.sq.replays = s.sq.replays ++ [r] ∧ r.tensor = t ∧ r.depth = 1 ∧ r.ctx = some x.pid)) ∧
  (∀ pc, x.later = [] → (s.resumeAt c pc).ctx? c = some { x with stop := none, resolving := none, r := { x.r with pc := pc } } ∧
    (s.resumeAt c pc).mem = s.mem ∧ (s.resumeAt c pc).hs = s.hs) ∧
  (∀ pc at_ k ks, x.later = k :: ks → at_ = k.resume.getD pc → (k.action = 0 ∨ k.action = 3) → posts (s.resumeAt c pc) k.info k.info.flags at_ ∧
    (s.resumeAt c pc).ctx? c = some { x with
      later := ks, stop := some { cls := k.info.cls, resume := at_, posted := true }, resolving := none, r := { x.r with pc := at_ } }) ∧
  (∀ k, x.later = [k] → posts (s.endMember x.pid) k.info (k.info.flags ||| 8) 0xffffffff ∧ ∃ y, (s.endMember x.pid).ctx? c = some y ∧
    y.halted = true ∧ y.stop = none ∧ y.later = [] ∧ y.gate = [])

/-- A step runs the decoded instruction (R62, R71, R87, R111): a trigger of the issued bundle first, then the agent that moves next: a
sequencer with the word at its stream's PC, a core with what is due or its next bundle, an event, or the end of a tick, with which the
dependency counters fall. The order of the turns, a bundle's triggers first, then the agenda, then what Config.schedule names, is the
model's choice (log entries 1 and 95). -/
def Obligations.StepRunsTheDecodedInstruction : Prop :=
  ∀ (s : State),
  (∀ t rest i, s.micro = t :: rest → decodeSlot t.word = some i → step s = settled (exec i { s with micro := rest, cur := .trigger t })) ∧
  (s.micro = [] → s.agenda = [] → step s = runTurn (Config.schedule s.turnNo) { s with turnNo := s.turnNo + 1 }) ∧
  (∀ turn rest u, s.micro = [] → s.agenda = turn :: rest → u = { s with agenda := rest } → step s = runTurn turn u ∧
    (∀ v sid x w i, turn = .sequencer v → v < 8 → s.pkg.p1 = false → s.mapped v = true → s.moving v = false → u.nextStream v = some sid →
      s.stream? sid = some x → x.image.words[x.pc]? = some w → decodeStream w = .ok i → (sid, x.pc) ∉ s.sq.badWords →
      (∀ h ∈ handlesOf x i, handleKey h ∉ s.sq.badRecs) → s.sq.badState = [] →
      step s = settled (exec i { u with cur := .stream sid, sq := { s.sq with lastServed := s.sq.lastServed.put (8 * v + x.prio) sid } })) ∧
    (∀ v sid x w e, turn = .sequencer v → v < 8 → s.pkg.p1 = false → s.mapped v = true → s.moving v = false → u.nextStream v = some sid →
      s.stream? sid = some x → x.image.words[x.pc]? = some w → decodeStream w = .error e → (sid, x.pc) ∉ s.sq.badWords →
      ∃ a y, step s = .next a ∧ a.stream? sid = some y ∧ y.st = .faulted ∧ y.pc = x.pc) ∧
    (∀ p cl c i, turn = .core p cl c → p < 8 → cl < 6 → c < 48 → s.pkg.p1 = false → u.coreDue (coreKey p cl c) = some i → step s = exec i u) ∧
    (∀ p cl c, turn = .core p cl c → p < 8 → cl < 6 → c < 48 → s.pkg.p1 = false → u.coreDue (coreKey p cl c) = none →
      step s = exec (.bundleIssue (coreKey p cl c)) u) ∧
    (∀ p, turn = .tick p → p < 8 → u.dieOfStack p = none → step s = .next { u with
      pkg := { u.pkg with ticks := vset u.pkg.ticks p (vget u.pkg.ticks p 0 + 1) } }) ∧
    (∀ p v, turn = .tick p → p < 8 → u.dieOfStack p = some v → u.boundDue v = true → step s = .next u) ∧
    (∀ p v b, turn = .tick p → p < 8 → u.dieOfStack p = some v → u.boundDue v = false → u.dieTickEnd v = .next b → step s = .next { b with
      pkg := { b.pkg with
        dieTicks := vset b.pkg.dieTicks v (vget b.pkg.dieTicks v 0 + 1), ticks := vset b.pkg.ticks p (vget b.pkg.ticks p 0 + 1) } }) ∧
    (∀ i a, turn = .event i → isDeadline i = false → s.pkg.p1 = false → exec i u = .next a → step s = .next a)) ∧
  (∀ v sid c pc x, sid / 16 = v → s.sq.decs = [(sid, c, pc)] → s.stream? sid = some x → s.mapped v = true → c < 64 → x.ctr c ≠ 0 →
    (s.applyDecs v).sq.decs = [] ∧ ∃ y, (s.applyDecs v).stream? sid = some y ∧ y.ctr c = x.ctr c - 1 ∧ y.g = x.g ∧ y.pc = x.pc)

/-- Some words written out from the encodings (Table 5.1, R62, Table 5.8, Table 5.11 to Table 5.13) decode to what they stand for, and
reserved ones are refused. -/
def Obligations.WordsDecode : Prop :=
  (∀ p ∈ [(0x01180000ffffffff#64, Instr.li 3 0xffffffff#32), (0x0322860000000000#64, .add 4 10 3), (0x11088000fffffffe#64, .beq 1 2 0xfffffffe#32),
      (0x4000000000001400#64, .depw 5), (0x4900000300000000#64, .fence 3), (0x3420000112340400#64, .gop 4 1 0x1234 1), (0x5000000000000000#64, .halt)],
    decodeStream p.1 = .ok p.2) ∧
  (∀ w ∈ [0x0000000000000000#64, 0x5300000000000000#64, 0x5000000000000001#64, 0x4900000600000000#64, 0x4000000000000000#64],
    ∃ e, decodeStream w = .error e) ∧
  (∀ p ∈ [(0x040200#24, Instr.saAdd false), (0x04023c#24, .saMov true), (0x0c0287#24, .brHalt), (0x0016c4#24, .lsLd32), (0x010330#24, .gvRedFadd),
      (0x0c0362#24, .gqPoll), (0x0c0292#24, .mxMma), (0x03a2e0#24, .vfAddF32)], decodeSlot p.1 = some p.2) ∧
  (∀ w ∈ [0x0c025b#24, 0x0c02df#24, 0x0c0363#24, 0x0c00b0#24], decodeSlot w = none)

/-- Decoding and encoding agree on every stream word and every trigger code (R62, R83, R87, R90). -/
def Obligations.EncodingsAgree : Prop :=
  (∀ i w, i.wf = true → encodeStream i = some w → decodeStream w = .ok i) ∧
  (∀ w i, decodeStream w = .ok i → encodeStream i = some w ∧ i.wf = true) ∧
  (∀ i w, i.wf = false → encodeStream i = some w → decodeStream w = .error .range) ∧
  (∀ i code, encodeTrigger i = some code → decodeTrigger code = some i ∧ 0x200 ≤ code ∧ code < 0x363) ∧
  (∀ code i, decodeTrigger code = some i → encodeTrigger i = some code) ∧
  (∀ i w, encodeSlot i = some w → decodeSlot w = some i) ∧
  (∀ w : BitVec 24, (moveOfWord 0 w).word = w) ∧
  (∀ i, (encodeStream i).isSome = true → encodeTrigger i = none)

/-- Every step keeps the canonical form of memory. The form, and the poison marks that it lists (R375), are the model's own representation
(log entry 3). -/
def Obligations.StepKeepsMemoryForm : Prop :=
  ∀ (s t : State), Memory.wf s.mem = true → step s = .next t → Memory.wf t.mem = true

/-- What reset leaves (R351, R385, Table 19.4, Table 25.4, Table 27.4, Table 27.6): the values the manual gives, no image, task or tensor, and
memory in its form. CAPGEN 0 and the empty memory are the model's choices (log entries 4 and 3). -/
def Obligations.ResetState : Prop :=
  Memory.wf State.reset.mem = true ∧ (∀ v, v < 8 → State.reset.stackOfDie v = some v) ∧ State.reset.pkg.pcap = 5000 ∧ State.reset.pkg.rr = 0 ∧
  State.reset.pkg.capgen = 0 ∧ State.reset.pkg.ready = false ∧ State.reset.pkg.fatal = false ∧ State.reset.pkg.p1 = false ∧
  State.reset.sq.streams = [] ∧ State.reset.sq.collTmo = 1000 ∧ State.reset.hs.load.lmap = 0xfedcba9876543210#64 ∧
  ∀ v, v < 8 → (State.reset.die v).spill = 48 ∧ (State.reset.die v).comp = 16 ∧ (State.reset.die v).floor = 256 ∧ (State.reset.die v).rcmp = 256 ∧
    (State.reset.die v).depth = 4 ∧ (State.reset.die v).accThresh = 4096

/-- A trigger acts on its own context (R71, R77): but for tx.fpr, and for the full/empty forms that a context performs on its own scratchpad
at once, it changes no byte of memory, no F bit, and no register, flag or port of any other context. -/
def Obligations.TriggersKeepToTheirContext : Prop :=
  ∀ (s a : State) (t : Trig) (i : Instr) (code : Nat), s.cur = .trigger t → decodeTrigger code = some i → code ≠ 0x2b5 → (code < 0x2ca ∨ 0x2d0 < code) →
    exec i s = .next a →
    a.mem = s.mem ∧ a.fbits = s.fbits ∧ a.memPoi = s.memPoi ∧ a.ms.l2 = s.ms.l2 ∧ (∀ c, c ≠ t.ctx → (a.ctx? c).map (·.r) = (s.ctx? c).map (·.r)) ∧
      (∀ sid, (a.stream? sid).map (·.g) = (s.stream? sid).map (·.g)) ∧ a.pkg.vmap = s.pkg.vmap
end

