-- ==== Sys2Proof/Laws/Maps.lean ====
section
/-! SUPPORT. Canonical maps: what is found after a change, and that every change keeps the keys rising. -/
namespace Sys2Proof.Machine
open Sys2Proof

variable {α : Type}

theorem Map.find_put_same (m : Map α) (k : Nat) (x : α) : (m.put k x).find k = some x := by
  induction m with
  | nil => simp [Map.put, Map.find]
  | cons c m ih =>
    obtain ⟨a, y⟩ := c
    simp only [Map.put]
    split
    · simp [Map.find]
    · split
      · simp [Map.find]
      · have : a ≠ k := fun h => by omega
        simp [Map.find, this, ih]

theorem Map.find_put_other (m : Map α) {k j : Nat} (x : α) (h : j ≠ k) : (m.put k x).find j = m.find j := by
  induction m with
  | nil => simp [Map.put, Map.find, h.symm]
  | cons c m ih =>
    obtain ⟨a, y⟩ := c
    simp only [Map.put]
    split
    · simp [Map.find, h.symm]
    · split
      · next hk => subst hk; simp [Map.find, h.symm]
      · simp only [Map.find]
        split
        · rfl
        · exact ih

theorem Map.find_erase_same (m : Map α) (k : Nat) : (m.erase k).find k = none := by
  induction m with
  | nil => rfl
  | cons c m ih =>
    obtain ⟨a, y⟩ := c
    simp only [Map.erase]
    split
    · exact ih
    · next h => simp [Map.find, h, ih]

theorem Map.find_erase_other (m : Map α) {k j : Nat} (h : j ≠ k) : (m.erase k).find j = m.find j := by
  induction m with
  | nil => rfl
  | cons c m ih =>
    obtain ⟨a, y⟩ := c
    simp only [Map.erase]
    split
    · next hk => subst hk; simp [Map.find, h.symm, ih]
    · simp only [Map.find, ih]

@[simp] theorem Map.get_put_same (m : Map α) (k : Nat) (x d : α) : (m.put k x).get k d = x := by
  simp [Map.get, Map.find_put_same]

theorem Map.get_put_other (m : Map α) {k j : Nat} (x d : α) (h : j ≠ k) : (m.put k x).get j d = m.get j d := by
  simp [Map.get, Map.find_put_other m x h]

@[simp] theorem Map.get_set_same [DecidableEq α] (m : Map α) (k : Nat) (x d : α) : (m.set k x d).get k d = x := by
  simp only [Map.set]
  split
  · next h => simp [Map.get, Map.find_erase_same, h]
  · simp

theorem Map.get_set_other [DecidableEq α] (m : Map α) {k j : Nat} (x d e : α) (h : j ≠ k) : (m.set k x d).get j e = m.get j e := by
  simp only [Map.set]
  split
  · simp [Map.get, Map.find_erase_other m h]
  · exact Map.get_put_other m x e h

theorem Map.find_mod (m : Map α) (k j : Nat) (f : α → α) : (m.mod k f).find j = if j = k then (m.find k).map f else m.find j := by
  unfold Map.mod
  split
  · next x hx =>
    split
    · next h => subst h; simp [Map.find_put_same, hx]
    · next h => exact Map.find_put_other m _ h
  · next hn =>
    split
    · next h => subst h; simp [hn]
    · rfl

/-! ### Rising keys -/

theorem Map.risingFrom_weaken {b c : Nat} (h : c ≤ b) : ∀ {m : Map α}, Map.risingFrom b m = true → Map.risingFrom c m = true
  | [], _ => rfl
  | (a, y) :: m, hm => by
    simp only [Map.risingFrom, Bool.and_eq_true, decide_eq_true_eq] at *
    exact ⟨by omega, hm.2⟩

theorem Map.risingFrom_put : ∀ (b : Nat) (m : Map α) (k : Nat) (x : α), b ≤ k → Map.risingFrom b m = true →
    Map.risingFrom b (m.put k x) = true
  | b, [], k, x, hk, _ => by simp [Map.put, Map.risingFrom, hk]
  | b, (a, y) :: m, k, x, hk, hm => by
    simp only [Map.risingFrom, Bool.and_eq_true, decide_eq_true_eq] at hm
    simp only [Map.put]
    split
    · next h => simp [Map.risingFrom, hk, hm.2]; omega
    · split
      · next h => subst h; simp [Map.risingFrom, hk, hm.2]
      · next h1 h2 =>
        have := Map.risingFrom_put (a + 1) m k x (by omega) hm.2
        simp [Map.risingFrom, hm.1, this]

theorem Map.risingFrom_erase : ∀ (b : Nat) (m : Map α) (k : Nat), Map.risingFrom b m = true → Map.risingFrom b (m.erase k) = true
  | _, [], _, _ => rfl
  | b, (a, y) :: m, k, hm => by
    simp only [Map.risingFrom, Bool.and_eq_true, decide_eq_true_eq] at hm
    have ih := Map.risingFrom_erase (a + 1) m k hm.2
    simp only [Map.erase]
    split
    · exact Map.risingFrom_weaken (by omega) ih
    · simp [Map.risingFrom, hm.1, ih]

theorem Map.risingFrom_filter (p : Nat × α → Bool) : ∀ (b : Nat) (m : Map α), Map.risingFrom b m = true →
    Map.risingFrom b (m.filter p) = true
  | _, [], _ => rfl
  | b, (a, y) :: m, hm => by
    simp only [Map.risingFrom, Bool.and_eq_true, decide_eq_true_eq] at hm
    have ih := Map.risingFrom_filter p (a + 1) m hm.2
    simp only [List.filter]
    split
    · simp [Map.risingFrom, hm.1, ih]
    · exact Map.risingFrom_weaken (by omega) ih

theorem Map.mem_put {m : Map α} {k : Nat} {x : α} {c : Nat × α} : c ∈ m.put k x → c = (k, x) ∨ c ∈ m := by
  induction m with
  | nil => simp [Map.put]
  | cons d m ih =>
    obtain ⟨a, y⟩ := d
    simp only [Map.put]
    split
    · simp
    · split
      · intro h; rcases List.mem_cons.mp h with h | h <;> simp [h]
      · intro h
        rcases List.mem_cons.mp h with h | h
        · simp [h]
        · rcases ih h with h | h <;> simp [h]

theorem Map.mem_erase {m : Map α} {k : Nat} {c : Nat × α} : c ∈ m.erase k → c ∈ m := by
  induction m with
  | nil => simp [Map.erase]
  | cons d m ih =>
    obtain ⟨a, y⟩ := d
    simp only [Map.erase]
    split
    · intro h; exact List.mem_cons_of_mem _ (ih h)
    · intro h
      rcases List.mem_cons.mp h with h | h
      · simp [h]
      · exact List.mem_cons_of_mem _ (ih h)

end Sys2Proof.Machine
end

