-- ==== Sys2Proof/Laws/Memory.lean ====
section
/-! SUPPORT. Bytes of memory: what is read after a store, and that every memory operation keeps the canonical form (log entry 3). -/
namespace Sys2Proof.Machine
open Sys2Proof

/-! ### The canonical form -/

theorem Memory.wf_set {m : List Host.Cell} (a : Nat) (b : Byte) (h : Memory.wf m = true) : Memory.wf (Map.set m a b 0) = true := by
  simp only [Memory.wf, Bool.and_eq_true, List.all_eq_true] at *
  simp only [Map.set]
  split
  · exact ⟨Map.risingFrom_erase 0 m a h.1, fun c hc => h.2 c (Map.mem_erase hc)⟩
  · next hb =>
    refine ⟨Map.risingFrom_put 0 m a b (Nat.zero_le a) h.1, fun c hc => ?_⟩
    rcases Map.mem_put hc with rfl | hc
    · simpa using hb
    · exact h.2 c hc

theorem Memory.wf_filter {m : List Host.Cell} (p : Host.Cell → Bool) (h : Memory.wf m = true) : Memory.wf (m.filter p) = true := by
  simp only [Memory.wf, Bool.and_eq_true, List.all_eq_true] at *
  exact ⟨Map.risingFrom_filter p 0 m h.1, fun c hc => h.2 c (List.mem_filter.mp hc).1⟩

/-- A fold that only stores bytes keeps the form. -/
theorem Memory.wf_foldl {β : Type} (f : List Host.Cell → β → List Host.Cell)
    (hf : ∀ m x, Memory.wf m = true → Memory.wf (f m x) = true) :
    ∀ (xs : List β) (m : List Host.Cell), Memory.wf m = true → Memory.wf (xs.foldl f m) = true
  | [], _, h => h
  | x :: xs, m, h => Memory.wf_foldl f hf xs (f m x) (hf m x h)

theorem State.setByte_wf {s : State} (a : Nat) (b : Byte) (h : Memory.wf s.mem = true) : Memory.wf (s.setByte a b).mem = true :=
  Memory.wf_set a b h

theorem State.setBytes_wf : ∀ (bs : List Byte) (s : State) (a : Nat), Memory.wf s.mem = true → Memory.wf (s.setBytes a bs).mem = true
  | [], _, _, h => h
  | b :: bs, s, a, h => State.setBytes_wf bs (s.setByte a b) (a + 1) (State.setByte_wf a b h)

theorem State.setCells_wf : ∀ (cs : List (Nat × Byte)) (s : State), Memory.wf s.mem = true → Memory.wf (s.setCells cs).mem = true
  | [], _, h => h
  | (a, b) :: cs, s, h => State.setCells_wf cs (s.setByte a b) (State.setByte_wf a b h)

@[simp] theorem State.setPoison_mem (s : State) (a : Nat) (p : Bool) : (s.setPoison a p).mem = s.mem := rfl

@[simp] theorem State.markStore_mem (s : State) (a : Nat) (as bad : List Nat) : (s.markStore a as bad).mem = s.mem := by
  unfold State.markStore
  dsimp only
  split
  · rfl
  · split <;> rfl

theorem State.foldl_mem {β : Type} (f : State → β → State) (hf : ∀ t x, (f t x).mem = t.mem) :
    ∀ (xs : List β) (s : State), (xs.foldl f s).mem = s.mem
  | [], _ => rfl
  | x :: xs, s => by rw [List.foldl_cons, State.foldl_mem f hf xs, hf]

@[simp] theorem State.storeCells_mem (s : State) (cs : List (Nat × Byte)) (bad : List Nat) : (s.storeCells cs bad).mem = (s.setCells cs).mem :=
  State.foldl_mem _ (fun t x => State.markStore_mem t x _ bad) _ _

theorem State.storeCells_wf {s : State} (cs : List (Nat × Byte)) (bad : List Nat) (h : Memory.wf s.mem = true) :
    Memory.wf (s.storeCells cs bad).mem = true := by
  rw [State.storeCells_mem]; exact State.setCells_wf cs s h

theorem State.zeroFill_wf {s : State} (a n : Nat) (h : Memory.wf s.mem = true) : Memory.wf (s.zeroFill a n).mem = true :=
  Memory.wf_filter _ h

/-! ### Read after write -/

@[simp] theorem State.byte_setByte_same (s : State) (a : Nat) (b : Byte) : (s.setByte a b).byte a = b :=
  Map.get_set_same s.mem a b 0

theorem State.byte_setByte_other (s : State) {a c : Nat} (b : Byte) (h : c ≠ a) : (s.setByte a b).byte c = s.byte c :=
  Map.get_set_other s.mem b 0 0 h

theorem State.byte_setBytes_other (bs : List Byte) : ∀ (s : State) (a c : Nat), (c < a ∨ a + bs.length ≤ c) →
    (s.setBytes a bs).byte c = s.byte c := by
  induction bs with
  | nil => intro s a c _; rfl
  | cons b bs ih =>
    intro s a c h
    simp only [List.length_cons] at h
    show ((s.setByte a b).setBytes (a + 1) bs).byte c = s.byte c
    rw [ih _ _ _ (by omega), State.byte_setByte_other s b (by omega)]

theorem State.byte_setBytes (bs : List Byte) : ∀ (s : State) (a i : Nat), i < bs.length →
    (s.setBytes a bs).byte (a + i) = bs.getD i 0 := by
  induction bs with
  | nil => intro s a i h; simp at h
  | cons b bs ih =>
    intro s a i h
    show ((s.setByte a b).setBytes (a + 1) bs).byte (a + i) = _
    cases i with
    | zero => rw [State.byte_setBytes_other bs _ _ _ (by omega)]; simp
    | succ i =>
      rw [show a + (i + 1) = a + 1 + i by omega, ih _ _ _ (by simpa using h)]
      simp

theorem State.byte_setCells_other (cs : List (Nat × Byte)) : ∀ (s : State) (c : Nat), (∀ p ∈ cs, p.1 ≠ c) →
    (s.setCells cs).byte c = s.byte c := by
  induction cs with
  | nil => intro s c _; rfl
  | cons p cs ih =>
    intro s c h
    show ((s.setByte p.1 p.2).setCells cs).byte c = s.byte c
    rw [ih _ _ (fun q hq => h q (List.mem_cons_of_mem _ hq)), State.byte_setByte_other s p.2 (fun e => h p (List.mem_cons_self ..) e.symm)]

theorem State.byte_setCells (cs : List (Nat × Byte)) : ∀ (s : State), (cs.map Prod.fst).Nodup → ∀ p ∈ cs,
    (s.setCells cs).byte p.1 = p.2 := by
  induction cs with
  | nil => intro s _ p hp; simp at hp
  | cons q cs ih =>
    intro s hn p hp
    simp only [List.map_cons, List.nodup_cons] at hn
    show ((s.setByte q.1 q.2).setCells cs).byte p.1 = p.2
    rcases List.mem_cons.mp hp with rfl | hp
    · rw [State.byte_setCells_other cs _ p.1 (fun r hr e => hn.1 (List.mem_map.mpr ⟨r, hr, e⟩))]; simp
    · exact ih _ hn.2 p hp

theorem State.byte_storeCells (s : State) (cs : List (Nat × Byte)) (bad : List Nat) (a : Nat) : (s.storeCells cs bad).byte a = (s.setCells cs).byte a := by
  simp only [State.byte, State.storeCells_mem]

end Sys2Proof.Machine
end

