-- ==== Sys2Proof/Laws/MemoryForm.lean ====
section
/-! SUPPORT. The larger operations over memory keep its canonical form: stores at a home, re-packing and write-back, scratchpad stores, raw
copies and the move of a stack. -/
namespace Sys2Proof.Machine
open Sys2Proof

@[simp] theorem State.snoop_mem (s : State) (a : Nat) : (s.snoop a).mem = s.mem := by
  unfold State.snoop; dsimp only; split <;> rfl

@[simp] theorem State.snoopWrite_mem (s : State) (a : Nat) : (s.snoopWrite a).mem = s.mem := by
  unfold State.snoopWrite; dsimp only; split <;> simp

@[simp] theorem State.keepOld_mem (s : State) (cs : List (Nat × Byte)) : (s.keepOld cs).mem = s.mem := by
  unfold State.keepOld; dsimp only; split <;> rfl

@[simp] theorem State.putLine_mem (s : State) (line : Nat) (l : Line) : (s.putLine line l).mem = s.mem := rfl

theorem State.countRequest_mem (s : State) (die p : Nat) : (s.countRequest die p).mem = s.mem := by
  unfold State.countRequest; dsimp only
  repeat' split
  all_goals rfl

@[simp] theorem State.countLine_mem (s : State) (a : Nat) : (s.countLine a).mem = s.mem := by
  unfold State.countLine; dsimp only
  split
  · exact State.countRequest_mem ..
  · rfl

/-- A fold of state changes that each keep the form keeps it. -/
theorem State.foldl_wf {β : Type} (f : State → β → State) (hf : ∀ t x, Memory.wf t.mem = true → Memory.wf (f t x).mem = true) :
    ∀ (xs : List β) (s : State), Memory.wf s.mem = true → Memory.wf (xs.foldl f s).mem = true
  | [], _, h => h
  | x :: xs, s, h => State.foldl_wf f hf xs (f s x) (hf s x h)

theorem State.repack_wf {s t : State} (a : Nat) (gs : List (List Byte)) (hs : Memory.wf s.mem = true) (h : s.repack a gs = some t) :
    Memory.wf t.mem = true := by
  unfold State.repack at h
  dsimp only at h
  have tags (f : State → Nat → State) (hf : ∀ u i, (f u i).mem = u.mem) (u : State) (hu : Memory.wf u.mem = true) :
      Memory.wf ((List.range 32).foldl f u).mem = true := by rw [State.foldl_mem f hf]; exact hu
  split at h
  · cases h; exact tags _ (fun _ _ => rfl) _ (State.setCells_wf _ _ hs)
  · split at h
    · cases h
    · split at h
      · cases h
      · cases h; exact tags _ (fun _ _ => rfl) _ (State.setBytes_wf _ _ _ hs)

@[simp] theorem State.keepBadTags_mem (s : State) (a : Nat) : (s.keepBadTags a).mem = s.mem := by
  unfold State.keepBadTags
  refine State.foldl_mem _ (fun u b => ?_) _ s
  split <;> simp

theorem State.writeBack_wf {s t : State} (line : Nat) (hs : Memory.wf s.mem = true) (h : s.writeBack line = some t) : Memory.wf t.mem = true := by
  unfold State.writeBack at h
  dsimp only at h
  have hc (n : Nat) : Memory.wf (s.countLine n).mem = true := by simpa using hs
  split at h
  · cases h; exact hs
  · split at h
    · cases h; exact hs
    · split at h
      · cases h; exact hs
      · split at h
        · obtain ⟨u, hu, rfl⟩ := Option.map_eq_some_iff.mp h
          show Memory.wf u.mem = true
          refine State.repack_wf _ _ ?_ hu
          simpa using hs
        · cases h
          refine State.foldl_wf _ (fun u i hu => ?_) _ _ (hc _)
          split
          · exact State.setByte_wf _ _ hu
          · exact hu

/-- Making room for a line keeps the form: what it evicts is written back. -/
theorem State.makeRoom_wf {s t : State} (line : Nat) (hs : Memory.wf s.mem = true) (h : s.makeRoom line = some t) : Memory.wf t.mem = true := by
  unfold State.makeRoom State.freeWay at h
  dsimp only at h
  split at h
  · cases h; exact hs
  · split at h
    · cases h; exact hs
    · split at h
      · cases h
      · cases h; exact hs
      · exact State.writeBack_wf (s := s.freeWord.2) _ hs h

theorem State.homeSet_wf {s : State} (a : Nat) (b : Byte) (h : Memory.wf s.mem = true) : Memory.wf (s.homeSet a b).mem = true := by
  have direct : Memory.wf (match s.place? (storeTensor a) (storeOff a) with
      | some p => s.setByte p b
      | none => s).mem = true := by
    split
    · exact State.setByte_wf _ _ h
    · exact h
  unfold State.homeSet
  dsimp only
  split
  · exact direct
  · split
    · exact direct
    · next s1 hr => simpa using State.makeRoom_wf _ h hr

theorem State.homeStore_wf {s : State} (cs : List (Nat × Byte)) (bad : List Nat) (h : Memory.wf s.mem = true) :
    Memory.wf (s.homeStore cs bad).mem = true := by
  unfold State.homeStore
  dsimp only
  rw [State.foldl_mem _ (fun t x => State.markStore_mem t x _ _)]
  exact State.foldl_wf _ (fun t c ht => State.homeSet_wf _ _ (by simpa using ht)) cs _ (by simpa using h)

theorem State.scratchStore_wf {s : State} (cs : List (Nat × Byte)) (bad : List Nat) (h : Memory.wf s.mem = true) :
    Memory.wf (s.scratchStore cs bad).mem = true := by
  unfold State.scratchStore
  split
  · exact h
  · split
    · exact h
    · exact State.storeCells_wf _ bad h

theorem State.copyRaw_wf {s : State} (a b : Nat) (h : Memory.wf s.mem = true) : Memory.wf (s.copyRaw a b).mem = true := by
  unfold State.copyRaw
  dsimp only
  rw [State.foldl_mem _ (fun t x => by rfl)]
  exact State.setBytes_wf _ _ _ h

theorem State.moveStack_wf {s : State} (p q : Nat) (h : Memory.wf s.mem = true) : Memory.wf (s.moveStack p q).mem = true := by
  unfold State.moveStack
  refine Memory.wf_foldl _ (fun m x hm => ?_) _ _ (Memory.wf_filter _ h)
  dsimp only
  split
  · exact Memory.wf_set _ _ hm
  · exact hm

end Sys2Proof.Machine
end

