-- ==== Sys2Proof/Laws/State.lean ====
section
/-! SUPPORT. The fields of State after each update that one definition makes: a field that the update does not name is as before. -/
namespace Sys2Proof.Machine
open Sys2Proof

@[simp] theorem State.putCtx_cur (s : State) (c : Nat) (x : Ctx) : (s.putCtx c x).cur = s.cur := rfl
@[simp] theorem State.putCtx_micro (s : State) (c : Nat) (x : Ctx) : (s.putCtx c x).micro = s.micro := rfl
@[simp] theorem State.putCtx_agenda (s : State) (c : Nat) (x : Ctx) : (s.putCtx c x).agenda = s.agenda := rfl
@[simp] theorem State.putCtx_turnNo (s : State) (c : Nat) (x : Ctx) : (s.putCtx c x).turnNo = s.turnNo := rfl
@[simp] theorem State.putCtx_nextId (s : State) (c : Nat) (x : Ctx) : (s.putCtx c x).nextId = s.nextId := rfl
@[simp] theorem State.putCtx_freeNo (s : State) (c : Nat) (x : Ctx) : (s.putCtx c x).freeNo = s.freeNo := rfl
@[simp] theorem State.putCtx_cores (s : State) (c : Nat) (x : Ctx) : (s.putCtx c x).cores = s.cores := rfl
@[simp] theorem State.putCtx_mem (s : State) (c : Nat) (x : Ctx) : (s.putCtx c x).mem = s.mem := rfl
@[simp] theorem State.putCtx_memPoi (s : State) (c : Nat) (x : Ctx) : (s.putCtx c x).memPoi = s.memPoi := rfl
@[simp] theorem State.putCtx_fbits (s : State) (c : Nat) (x : Ctx) : (s.putCtx c x).fbits = s.fbits := rfl
@[simp] theorem State.putCtx_ms (s : State) (c : Nat) (x : Ctx) : (s.putCtx c x).ms = s.ms := rfl
@[simp] theorem State.putCtx_wk (s : State) (c : Nat) (x : Ctx) : (s.putCtx c x).wk = s.wk := rfl
@[simp] theorem State.putCtx_sq (s : State) (c : Nat) (x : Ctx) : (s.putCtx c x).sq = s.sq := rfl
@[simp] theorem State.putCtx_hs (s : State) (c : Nat) (x : Ctx) : (s.putCtx c x).hs = s.hs := rfl
@[simp] theorem State.putCtx_pkg (s : State) (c : Nat) (x : Ctx) : (s.putCtx c x).pkg = s.pkg := rfl

@[simp] theorem State.modCtx_cur (s : State) (c : Nat) (f : Ctx → Ctx) : (s.modCtx c f).cur = s.cur := rfl
@[simp] theorem State.modCtx_micro (s : State) (c : Nat) (f : Ctx → Ctx) : (s.modCtx c f).micro = s.micro := rfl
@[simp] theorem State.modCtx_agenda (s : State) (c : Nat) (f : Ctx → Ctx) : (s.modCtx c f).agenda = s.agenda := rfl
@[simp] theorem State.modCtx_turnNo (s : State) (c : Nat) (f : Ctx → Ctx) : (s.modCtx c f).turnNo = s.turnNo := rfl
@[simp] theorem State.modCtx_nextId (s : State) (c : Nat) (f : Ctx → Ctx) : (s.modCtx c f).nextId = s.nextId := rfl
@[simp] theorem State.modCtx_freeNo (s : State) (c : Nat) (f : Ctx → Ctx) : (s.modCtx c f).freeNo = s.freeNo := rfl
@[simp] theorem State.modCtx_cores (s : State) (c : Nat) (f : Ctx → Ctx) : (s.modCtx c f).cores = s.cores := rfl
@[simp] theorem State.modCtx_mem (s : State) (c : Nat) (f : Ctx → Ctx) : (s.modCtx c f).mem = s.mem := rfl
@[simp] theorem State.modCtx_memPoi (s : State) (c : Nat) (f : Ctx → Ctx) : (s.modCtx c f).memPoi = s.memPoi := rfl
@[simp] theorem State.modCtx_fbits (s : State) (c : Nat) (f : Ctx → Ctx) : (s.modCtx c f).fbits = s.fbits := rfl
@[simp] theorem State.modCtx_ms (s : State) (c : Nat) (f : Ctx → Ctx) : (s.modCtx c f).ms = s.ms := rfl
@[simp] theorem State.modCtx_wk (s : State) (c : Nat) (f : Ctx → Ctx) : (s.modCtx c f).wk = s.wk := rfl
@[simp] theorem State.modCtx_sq (s : State) (c : Nat) (f : Ctx → Ctx) : (s.modCtx c f).sq = s.sq := rfl
@[simp] theorem State.modCtx_hs (s : State) (c : Nat) (f : Ctx → Ctx) : (s.modCtx c f).hs = s.hs := rfl
@[simp] theorem State.modCtx_pkg (s : State) (c : Nat) (f : Ctx → Ctx) : (s.modCtx c f).pkg = s.pkg := rfl

@[simp] theorem State.modRegs_cur (s : State) (c : Nat) (f : Regs → Regs) : (s.modRegs c f).cur = s.cur := rfl
@[simp] theorem State.modRegs_micro (s : State) (c : Nat) (f : Regs → Regs) : (s.modRegs c f).micro = s.micro := rfl
@[simp] theorem State.modRegs_agenda (s : State) (c : Nat) (f : Regs → Regs) : (s.modRegs c f).agenda = s.agenda := rfl
@[simp] theorem State.modRegs_turnNo (s : State) (c : Nat) (f : Regs → Regs) : (s.modRegs c f).turnNo = s.turnNo := rfl
@[simp] theorem State.modRegs_nextId (s : State) (c : Nat) (f : Regs → Regs) : (s.modRegs c f).nextId = s.nextId := rfl
@[simp] theorem State.modRegs_freeNo (s : State) (c : Nat) (f : Regs → Regs) : (s.modRegs c f).freeNo = s.freeNo := rfl
@[simp] theorem State.modRegs_cores (s : State) (c : Nat) (f : Regs → Regs) : (s.modRegs c f).cores = s.cores := rfl
@[simp] theorem State.modRegs_mem (s : State) (c : Nat) (f : Regs → Regs) : (s.modRegs c f).mem = s.mem := rfl
@[simp] theorem State.modRegs_memPoi (s : State) (c : Nat) (f : Regs → Regs) : (s.modRegs c f).memPoi = s.memPoi := rfl
@[simp] theorem State.modRegs_fbits (s : State) (c : Nat) (f : Regs → Regs) : (s.modRegs c f).fbits = s.fbits := rfl
@[simp] theorem State.modRegs_ms (s : State) (c : Nat) (f : Regs → Regs) : (s.modRegs c f).ms = s.ms := rfl
@[simp] theorem State.modRegs_wk (s : State) (c : Nat) (f : Regs → Regs) : (s.modRegs c f).wk = s.wk := rfl
@[simp] theorem State.modRegs_sq (s : State) (c : Nat) (f : Regs → Regs) : (s.modRegs c f).sq = s.sq := rfl
@[simp] theorem State.modRegs_hs (s : State) (c : Nat) (f : Regs → Regs) : (s.modRegs c f).hs = s.hs := rfl
@[simp] theorem State.modRegs_pkg (s : State) (c : Nat) (f : Regs → Regs) : (s.modRegs c f).pkg = s.pkg := rfl

@[simp] theorem State.pendPort_cur (s : State) (c port id : Nat) : (s.pendPort c port id).cur = s.cur := rfl
@[simp] theorem State.pendPort_micro (s : State) (c port id : Nat) : (s.pendPort c port id).micro = s.micro := rfl
@[simp] theorem State.pendPort_agenda (s : State) (c port id : Nat) : (s.pendPort c port id).agenda = s.agenda := rfl
@[simp] theorem State.pendPort_turnNo (s : State) (c port id : Nat) : (s.pendPort c port id).turnNo = s.turnNo := rfl
@[simp] theorem State.pendPort_nextId (s : State) (c port id : Nat) : (s.pendPort c port id).nextId = s.nextId := rfl
@[simp] theorem State.pendPort_freeNo (s : State) (c port id : Nat) : (s.pendPort c port id).freeNo = s.freeNo := rfl
@[simp] theorem State.pendPort_cores (s : State) (c port id : Nat) : (s.pendPort c port id).cores = s.cores := rfl
@[simp] theorem State.pendPort_mem (s : State) (c port id : Nat) : (s.pendPort c port id).mem = s.mem := rfl
@[simp] theorem State.pendPort_memPoi (s : State) (c port id : Nat) : (s.pendPort c port id).memPoi = s.memPoi := rfl
@[simp] theorem State.pendPort_fbits (s : State) (c port id : Nat) : (s.pendPort c port id).fbits = s.fbits := rfl
@[simp] theorem State.pendPort_ms (s : State) (c port id : Nat) : (s.pendPort c port id).ms = s.ms := rfl
@[simp] theorem State.pendPort_wk (s : State) (c port id : Nat) : (s.pendPort c port id).wk = s.wk := rfl
@[simp] theorem State.pendPort_sq (s : State) (c port id : Nat) : (s.pendPort c port id).sq = s.sq := rfl
@[simp] theorem State.pendPort_hs (s : State) (c port id : Nat) : (s.pendPort c port id).hs = s.hs := rfl
@[simp] theorem State.pendPort_pkg (s : State) (c port id : Nat) : (s.pendPort c port id).pkg = s.pkg := rfl

@[simp] theorem State.deliver_cur (s : State) (c port id : Nat) (v : PV) : (s.deliver c port id v).cur = s.cur := rfl
@[simp] theorem State.deliver_micro (s : State) (c port id : Nat) (v : PV) : (s.deliver c port id v).micro = s.micro := rfl
@[simp] theorem State.deliver_agenda (s : State) (c port id : Nat) (v : PV) : (s.deliver c port id v).agenda = s.agenda := rfl
@[simp] theorem State.deliver_turnNo (s : State) (c port id : Nat) (v : PV) : (s.deliver c port id v).turnNo = s.turnNo := rfl
@[simp] theorem State.deliver_nextId (s : State) (c port id : Nat) (v : PV) : (s.deliver c port id v).nextId = s.nextId := rfl
@[simp] theorem State.deliver_freeNo (s : State) (c port id : Nat) (v : PV) : (s.deliver c port id v).freeNo = s.freeNo := rfl
@[simp] theorem State.deliver_cores (s : State) (c port id : Nat) (v : PV) : (s.deliver c port id v).cores = s.cores := rfl
@[simp] theorem State.deliver_mem (s : State) (c port id : Nat) (v : PV) : (s.deliver c port id v).mem = s.mem := rfl
@[simp] theorem State.deliver_memPoi (s : State) (c port id : Nat) (v : PV) : (s.deliver c port id v).memPoi = s.memPoi := rfl
@[simp] theorem State.deliver_fbits (s : State) (c port id : Nat) (v : PV) : (s.deliver c port id v).fbits = s.fbits := rfl
@[simp] theorem State.deliver_ms (s : State) (c port id : Nat) (v : PV) : (s.deliver c port id v).ms = s.ms := rfl
@[simp] theorem State.deliver_wk (s : State) (c port id : Nat) (v : PV) : (s.deliver c port id v).wk = s.wk := rfl
@[simp] theorem State.deliver_sq (s : State) (c port id : Nat) (v : PV) : (s.deliver c port id v).sq = s.sq := rfl
@[simp] theorem State.deliver_hs (s : State) (c port id : Nat) (v : PV) : (s.deliver c port id v).hs = s.hs := rfl
@[simp] theorem State.deliver_pkg (s : State) (c port id : Nat) (v : PV) : (s.deliver c port id v).pkg = s.pkg := rfl

@[simp] theorem State.putCore_cur (s : State) (k : Nat) (x : CoreState) : (s.putCore k x).cur = s.cur := rfl
@[simp] theorem State.putCore_micro (s : State) (k : Nat) (x : CoreState) : (s.putCore k x).micro = s.micro := rfl
@[simp] theorem State.putCore_agenda (s : State) (k : Nat) (x : CoreState) : (s.putCore k x).agenda = s.agenda := rfl
@[simp] theorem State.putCore_turnNo (s : State) (k : Nat) (x : CoreState) : (s.putCore k x).turnNo = s.turnNo := rfl
@[simp] theorem State.putCore_nextId (s : State) (k : Nat) (x : CoreState) : (s.putCore k x).nextId = s.nextId := rfl
@[simp] theorem State.putCore_freeNo (s : State) (k : Nat) (x : CoreState) : (s.putCore k x).freeNo = s.freeNo := rfl
@[simp] theorem State.putCore_ctxs (s : State) (k : Nat) (x : CoreState) : (s.putCore k x).ctxs = s.ctxs := rfl
@[simp] theorem State.putCore_mem (s : State) (k : Nat) (x : CoreState) : (s.putCore k x).mem = s.mem := rfl
@[simp] theorem State.putCore_memPoi (s : State) (k : Nat) (x : CoreState) : (s.putCore k x).memPoi = s.memPoi := rfl
@[simp] theorem State.putCore_fbits (s : State) (k : Nat) (x : CoreState) : (s.putCore k x).fbits = s.fbits := rfl
@[simp] theorem State.putCore_ms (s : State) (k : Nat) (x : CoreState) : (s.putCore k x).ms = s.ms := rfl
@[simp] theorem State.putCore_wk (s : State) (k : Nat) (x : CoreState) : (s.putCore k x).wk = s.wk := rfl
@[simp] theorem State.putCore_sq (s : State) (k : Nat) (x : CoreState) : (s.putCore k x).sq = s.sq := rfl
@[simp] theorem State.putCore_hs (s : State) (k : Nat) (x : CoreState) : (s.putCore k x).hs = s.hs := rfl
@[simp] theorem State.putCore_pkg (s : State) (k : Nat) (x : CoreState) : (s.putCore k x).pkg = s.pkg := rfl

@[simp] theorem State.modCore_cur (s : State) (k : Nat) (f : CoreState → CoreState) : (s.modCore k f).cur = s.cur := rfl
@[simp] theorem State.modCore_micro (s : State) (k : Nat) (f : CoreState → CoreState) : (s.modCore k f).micro = s.micro := rfl
@[simp] theorem State.modCore_agenda (s : State) (k : Nat) (f : CoreState → CoreState) : (s.modCore k f).agenda = s.agenda := rfl
@[simp] theorem State.modCore_turnNo (s : State) (k : Nat) (f : CoreState → CoreState) : (s.modCore k f).turnNo = s.turnNo := rfl
@[simp] theorem State.modCore_nextId (s : State) (k : Nat) (f : CoreState → CoreState) : (s.modCore k f).nextId = s.nextId := rfl
@[simp] theorem State.modCore_freeNo (s : State) (k : Nat) (f : CoreState → CoreState) : (s.modCore k f).freeNo = s.freeNo := rfl
@[simp] theorem State.modCore_ctxs (s : State) (k : Nat) (f : CoreState → CoreState) : (s.modCore k f).ctxs = s.ctxs := rfl
@[simp] theorem State.modCore_mem (s : State) (k : Nat) (f : CoreState → CoreState) : (s.modCore k f).mem = s.mem := rfl
@[simp] theorem State.modCore_memPoi (s : State) (k : Nat) (f : CoreState → CoreState) : (s.modCore k f).memPoi = s.memPoi := rfl
@[simp] theorem State.modCore_fbits (s : State) (k : Nat) (f : CoreState → CoreState) : (s.modCore k f).fbits = s.fbits := rfl
@[simp] theorem State.modCore_ms (s : State) (k : Nat) (f : CoreState → CoreState) : (s.modCore k f).ms = s.ms := rfl
@[simp] theorem State.modCore_wk (s : State) (k : Nat) (f : CoreState → CoreState) : (s.modCore k f).wk = s.wk := rfl
@[simp] theorem State.modCore_sq (s : State) (k : Nat) (f : CoreState → CoreState) : (s.modCore k f).sq = s.sq := rfl
@[simp] theorem State.modCore_hs (s : State) (k : Nat) (f : CoreState → CoreState) : (s.modCore k f).hs = s.hs := rfl
@[simp] theorem State.modCore_pkg (s : State) (k : Nat) (f : CoreState → CoreState) : (s.modCore k f).pkg = s.pkg := rfl

@[simp] theorem State.modStream_cur (s : State) (sid : Nat) (f : Stream → Stream) : (s.modStream sid f).cur = s.cur := rfl
@[simp] theorem State.modStream_micro (s : State) (sid : Nat) (f : Stream → Stream) : (s.modStream sid f).micro = s.micro := rfl
@[simp] theorem State.modStream_agenda (s : State) (sid : Nat) (f : Stream → Stream) : (s.modStream sid f).agenda = s.agenda := rfl
@[simp] theorem State.modStream_turnNo (s : State) (sid : Nat) (f : Stream → Stream) : (s.modStream sid f).turnNo = s.turnNo := rfl
@[simp] theorem State.modStream_nextId (s : State) (sid : Nat) (f : Stream → Stream) : (s.modStream sid f).nextId = s.nextId := rfl
@[simp] theorem State.modStream_freeNo (s : State) (sid : Nat) (f : Stream → Stream) : (s.modStream sid f).freeNo = s.freeNo := rfl
@[simp] theorem State.modStream_cores (s : State) (sid : Nat) (f : Stream → Stream) : (s.modStream sid f).cores = s.cores := rfl
@[simp] theorem State.modStream_ctxs (s : State) (sid : Nat) (f : Stream → Stream) : (s.modStream sid f).ctxs = s.ctxs := rfl
@[simp] theorem State.modStream_mem (s : State) (sid : Nat) (f : Stream → Stream) : (s.modStream sid f).mem = s.mem := rfl
@[simp] theorem State.modStream_memPoi (s : State) (sid : Nat) (f : Stream → Stream) : (s.modStream sid f).memPoi = s.memPoi := rfl
@[simp] theorem State.modStream_fbits (s : State) (sid : Nat) (f : Stream → Stream) : (s.modStream sid f).fbits = s.fbits := rfl
@[simp] theorem State.modStream_ms (s : State) (sid : Nat) (f : Stream → Stream) : (s.modStream sid f).ms = s.ms := rfl
@[simp] theorem State.modStream_wk (s : State) (sid : Nat) (f : Stream → Stream) : (s.modStream sid f).wk = s.wk := rfl
@[simp] theorem State.modStream_hs (s : State) (sid : Nat) (f : Stream → Stream) : (s.modStream sid f).hs = s.hs := rfl
@[simp] theorem State.modStream_pkg (s : State) (sid : Nat) (f : Stream → Stream) : (s.modStream sid f).pkg = s.pkg := rfl

@[simp] theorem State.modRec_cur (s : State) (t : Nat) (f : Rec → Rec) : (s.modRec t f).cur = s.cur := rfl
@[simp] theorem State.modRec_micro (s : State) (t : Nat) (f : Rec → Rec) : (s.modRec t f).micro = s.micro := rfl
@[simp] theorem State.modRec_agenda (s : State) (t : Nat) (f : Rec → Rec) : (s.modRec t f).agenda = s.agenda := rfl
@[simp] theorem State.modRec_turnNo (s : State) (t : Nat) (f : Rec → Rec) : (s.modRec t f).turnNo = s.turnNo := rfl
@[simp] theorem State.modRec_nextId (s : State) (t : Nat) (f : Rec → Rec) : (s.modRec t f).nextId = s.nextId := rfl
@[simp] theorem State.modRec_freeNo (s : State) (t : Nat) (f : Rec → Rec) : (s.modRec t f).freeNo = s.freeNo := rfl
@[simp] theorem State.modRec_cores (s : State) (t : Nat) (f : Rec → Rec) : (s.modRec t f).cores = s.cores := rfl
@[simp] theorem State.modRec_ctxs (s : State) (t : Nat) (f : Rec → Rec) : (s.modRec t f).ctxs = s.ctxs := rfl
@[simp] theorem State.modRec_mem (s : State) (t : Nat) (f : Rec → Rec) : (s.modRec t f).mem = s.mem := rfl
@[simp] theorem State.modRec_memPoi (s : State) (t : Nat) (f : Rec → Rec) : (s.modRec t f).memPoi = s.memPoi := rfl
@[simp] theorem State.modRec_fbits (s : State) (t : Nat) (f : Rec → Rec) : (s.modRec t f).fbits = s.fbits := rfl
@[simp] theorem State.modRec_ms (s : State) (t : Nat) (f : Rec → Rec) : (s.modRec t f).ms = s.ms := rfl
@[simp] theorem State.modRec_wk (s : State) (t : Nat) (f : Rec → Rec) : (s.modRec t f).wk = s.wk := rfl
@[simp] theorem State.modRec_hs (s : State) (t : Nat) (f : Rec → Rec) : (s.modRec t f).hs = s.hs := rfl
@[simp] theorem State.modRec_pkg (s : State) (t : Nat) (f : Rec → Rec) : (s.modRec t f).pkg = s.pkg := rfl

@[simp] theorem State.modOp_cur (s : State) (o : Nat) (f : Op → Op) : (s.modOp o f).cur = s.cur := rfl
@[simp] theorem State.modOp_micro (s : State) (o : Nat) (f : Op → Op) : (s.modOp o f).micro = s.micro := rfl
@[simp] theorem State.modOp_agenda (s : State) (o : Nat) (f : Op → Op) : (s.modOp o f).agenda = s.agenda := rfl
@[simp] theorem State.modOp_turnNo (s : State) (o : Nat) (f : Op → Op) : (s.modOp o f).turnNo = s.turnNo := rfl
@[simp] theorem State.modOp_nextId (s : State) (o : Nat) (f : Op → Op) : (s.modOp o f).nextId = s.nextId := rfl
@[simp] theorem State.modOp_freeNo (s : State) (o : Nat) (f : Op → Op) : (s.modOp o f).freeNo = s.freeNo := rfl
@[simp] theorem State.modOp_cores (s : State) (o : Nat) (f : Op → Op) : (s.modOp o f).cores = s.cores := rfl
@[simp] theorem State.modOp_ctxs (s : State) (o : Nat) (f : Op → Op) : (s.modOp o f).ctxs = s.ctxs := rfl
@[simp] theorem State.modOp_mem (s : State) (o : Nat) (f : Op → Op) : (s.modOp o f).mem = s.mem := rfl
@[simp] theorem State.modOp_memPoi (s : State) (o : Nat) (f : Op → Op) : (s.modOp o f).memPoi = s.memPoi := rfl
@[simp] theorem State.modOp_fbits (s : State) (o : Nat) (f : Op → Op) : (s.modOp o f).fbits = s.fbits := rfl
@[simp] theorem State.modOp_ms (s : State) (o : Nat) (f : Op → Op) : (s.modOp o f).ms = s.ms := rfl
@[simp] theorem State.modOp_wk (s : State) (o : Nat) (f : Op → Op) : (s.modOp o f).wk = s.wk := rfl
@[simp] theorem State.modOp_hs (s : State) (o : Nat) (f : Op → Op) : (s.modOp o f).hs = s.hs := rfl
@[simp] theorem State.modOp_pkg (s : State) (o : Nat) (f : Op → Op) : (s.modOp o f).pkg = s.pkg := rfl

@[simp] theorem State.modBarge_cur (s : State) (b : Nat) (f : Barge → Barge) : (s.modBarge b f).cur = s.cur := rfl
@[simp] theorem State.modBarge_micro (s : State) (b : Nat) (f : Barge → Barge) : (s.modBarge b f).micro = s.micro := rfl
@[simp] theorem State.modBarge_agenda (s : State) (b : Nat) (f : Barge → Barge) : (s.modBarge b f).agenda = s.agenda := rfl
@[simp] theorem State.modBarge_turnNo (s : State) (b : Nat) (f : Barge → Barge) : (s.modBarge b f).turnNo = s.turnNo := rfl
@[simp] theorem State.modBarge_nextId (s : State) (b : Nat) (f : Barge → Barge) : (s.modBarge b f).nextId = s.nextId := rfl
@[simp] theorem State.modBarge_freeNo (s : State) (b : Nat) (f : Barge → Barge) : (s.modBarge b f).freeNo = s.freeNo := rfl
@[simp] theorem State.modBarge_cores (s : State) (b : Nat) (f : Barge → Barge) : (s.modBarge b f).cores = s.cores := rfl
@[simp] theorem State.modBarge_ctxs (s : State) (b : Nat) (f : Barge → Barge) : (s.modBarge b f).ctxs = s.ctxs := rfl
@[simp] theorem State.modBarge_mem (s : State) (b : Nat) (f : Barge → Barge) : (s.modBarge b f).mem = s.mem := rfl
@[simp] theorem State.modBarge_memPoi (s : State) (b : Nat) (f : Barge → Barge) : (s.modBarge b f).memPoi = s.memPoi := rfl
@[simp] theorem State.modBarge_fbits (s : State) (b : Nat) (f : Barge → Barge) : (s.modBarge b f).fbits = s.fbits := rfl
@[simp] theorem State.modBarge_ms (s : State) (b : Nat) (f : Barge → Barge) : (s.modBarge b f).ms = s.ms := rfl
@[simp] theorem State.modBarge_wk (s : State) (b : Nat) (f : Barge → Barge) : (s.modBarge b f).wk = s.wk := rfl
@[simp] theorem State.modBarge_hs (s : State) (b : Nat) (f : Barge → Barge) : (s.modBarge b f).hs = s.hs := rfl
@[simp] theorem State.modBarge_pkg (s : State) (b : Nat) (f : Barge → Barge) : (s.modBarge b f).pkg = s.pkg := rfl

@[simp] theorem State.modDie_cur (s : State) (v : Nat) (f : DieRegs → DieRegs) : (s.modDie v f).cur = s.cur := rfl
@[simp] theorem State.modDie_micro (s : State) (v : Nat) (f : DieRegs → DieRegs) : (s.modDie v f).micro = s.micro := rfl
@[simp] theorem State.modDie_agenda (s : State) (v : Nat) (f : DieRegs → DieRegs) : (s.modDie v f).agenda = s.agenda := rfl
@[simp] theorem State.modDie_turnNo (s : State) (v : Nat) (f : DieRegs → DieRegs) : (s.modDie v f).turnNo = s.turnNo := rfl
@[simp] theorem State.modDie_nextId (s : State) (v : Nat) (f : DieRegs → DieRegs) : (s.modDie v f).nextId = s.nextId := rfl
@[simp] theorem State.modDie_freeNo (s : State) (v : Nat) (f : DieRegs → DieRegs) : (s.modDie v f).freeNo = s.freeNo := rfl
@[simp] theorem State.modDie_cores (s : State) (v : Nat) (f : DieRegs → DieRegs) : (s.modDie v f).cores = s.cores := rfl
@[simp] theorem State.modDie_ctxs (s : State) (v : Nat) (f : DieRegs → DieRegs) : (s.modDie v f).ctxs = s.ctxs := rfl
@[simp] theorem State.modDie_mem (s : State) (v : Nat) (f : DieRegs → DieRegs) : (s.modDie v f).mem = s.mem := rfl
@[simp] theorem State.modDie_memPoi (s : State) (v : Nat) (f : DieRegs → DieRegs) : (s.modDie v f).memPoi = s.memPoi := rfl
@[simp] theorem State.modDie_fbits (s : State) (v : Nat) (f : DieRegs → DieRegs) : (s.modDie v f).fbits = s.fbits := rfl
@[simp] theorem State.modDie_ms (s : State) (v : Nat) (f : DieRegs → DieRegs) : (s.modDie v f).ms = s.ms := rfl
@[simp] theorem State.modDie_wk (s : State) (v : Nat) (f : DieRegs → DieRegs) : (s.modDie v f).wk = s.wk := rfl
@[simp] theorem State.modDie_hs (s : State) (v : Nat) (f : DieRegs → DieRegs) : (s.modDie v f).hs = s.hs := rfl
@[simp] theorem State.modDie_pkg (s : State) (v : Nat) (f : DieRegs → DieRegs) : (s.modDie v f).pkg = s.pkg := rfl

@[simp] theorem State.setByte_cur (s : State) (a : Nat) (b : Byte) : (s.setByte a b).cur = s.cur := rfl
@[simp] theorem State.setByte_micro (s : State) (a : Nat) (b : Byte) : (s.setByte a b).micro = s.micro := rfl
@[simp] theorem State.setByte_agenda (s : State) (a : Nat) (b : Byte) : (s.setByte a b).agenda = s.agenda := rfl
@[simp] theorem State.setByte_turnNo (s : State) (a : Nat) (b : Byte) : (s.setByte a b).turnNo = s.turnNo := rfl
@[simp] theorem State.setByte_nextId (s : State) (a : Nat) (b : Byte) : (s.setByte a b).nextId = s.nextId := rfl
@[simp] theorem State.setByte_freeNo (s : State) (a : Nat) (b : Byte) : (s.setByte a b).freeNo = s.freeNo := rfl
@[simp] theorem State.setByte_cores (s : State) (a : Nat) (b : Byte) : (s.setByte a b).cores = s.cores := rfl
@[simp] theorem State.setByte_ctxs (s : State) (a : Nat) (b : Byte) : (s.setByte a b).ctxs = s.ctxs := rfl
@[simp] theorem State.setByte_memPoi (s : State) (a : Nat) (b : Byte) : (s.setByte a b).memPoi = s.memPoi := rfl
@[simp] theorem State.setByte_fbits (s : State) (a : Nat) (b : Byte) : (s.setByte a b).fbits = s.fbits := rfl
@[simp] theorem State.setByte_ms (s : State) (a : Nat) (b : Byte) : (s.setByte a b).ms = s.ms := rfl
@[simp] theorem State.setByte_wk (s : State) (a : Nat) (b : Byte) : (s.setByte a b).wk = s.wk := rfl
@[simp] theorem State.setByte_sq (s : State) (a : Nat) (b : Byte) : (s.setByte a b).sq = s.sq := rfl
@[simp] theorem State.setByte_hs (s : State) (a : Nat) (b : Byte) : (s.setByte a b).hs = s.hs := rfl
@[simp] theorem State.setByte_pkg (s : State) (a : Nat) (b : Byte) : (s.setByte a b).pkg = s.pkg := rfl

@[simp] theorem State.setPoison_cur (s : State) (a : Nat) (p : Bool) : (s.setPoison a p).cur = s.cur := rfl
@[simp] theorem State.setPoison_micro (s : State) (a : Nat) (p : Bool) : (s.setPoison a p).micro = s.micro := rfl
@[simp] theorem State.setPoison_agenda (s : State) (a : Nat) (p : Bool) : (s.setPoison a p).agenda = s.agenda := rfl
@[simp] theorem State.setPoison_turnNo (s : State) (a : Nat) (p : Bool) : (s.setPoison a p).turnNo = s.turnNo := rfl
@[simp] theorem State.setPoison_nextId (s : State) (a : Nat) (p : Bool) : (s.setPoison a p).nextId = s.nextId := rfl
@[simp] theorem State.setPoison_freeNo (s : State) (a : Nat) (p : Bool) : (s.setPoison a p).freeNo = s.freeNo := rfl
@[simp] theorem State.setPoison_cores (s : State) (a : Nat) (p : Bool) : (s.setPoison a p).cores = s.cores := rfl
@[simp] theorem State.setPoison_ctxs (s : State) (a : Nat) (p : Bool) : (s.setPoison a p).ctxs = s.ctxs := rfl
@[simp] theorem State.setPoison_fbits (s : State) (a : Nat) (p : Bool) : (s.setPoison a p).fbits = s.fbits := rfl
@[simp] theorem State.setPoison_ms (s : State) (a : Nat) (p : Bool) : (s.setPoison a p).ms = s.ms := rfl
@[simp] theorem State.setPoison_wk (s : State) (a : Nat) (p : Bool) : (s.setPoison a p).wk = s.wk := rfl
@[simp] theorem State.setPoison_sq (s : State) (a : Nat) (p : Bool) : (s.setPoison a p).sq = s.sq := rfl
@[simp] theorem State.setPoison_hs (s : State) (a : Nat) (p : Bool) : (s.setPoison a p).hs = s.hs := rfl
@[simp] theorem State.setPoison_pkg (s : State) (a : Nat) (p : Bool) : (s.setPoison a p).pkg = s.pkg := rfl

@[simp] theorem State.zeroFill_cur (s : State) (a n : Nat) : (s.zeroFill a n).cur = s.cur := rfl
@[simp] theorem State.zeroFill_micro (s : State) (a n : Nat) : (s.zeroFill a n).micro = s.micro := rfl
@[simp] theorem State.zeroFill_agenda (s : State) (a n : Nat) : (s.zeroFill a n).agenda = s.agenda := rfl
@[simp] theorem State.zeroFill_turnNo (s : State) (a n : Nat) : (s.zeroFill a n).turnNo = s.turnNo := rfl
@[simp] theorem State.zeroFill_nextId (s : State) (a n : Nat) : (s.zeroFill a n).nextId = s.nextId := rfl
@[simp] theorem State.zeroFill_freeNo (s : State) (a n : Nat) : (s.zeroFill a n).freeNo = s.freeNo := rfl
@[simp] theorem State.zeroFill_cores (s : State) (a n : Nat) : (s.zeroFill a n).cores = s.cores := rfl
@[simp] theorem State.zeroFill_ctxs (s : State) (a n : Nat) : (s.zeroFill a n).ctxs = s.ctxs := rfl
@[simp] theorem State.zeroFill_fbits (s : State) (a n : Nat) : (s.zeroFill a n).fbits = s.fbits := rfl
@[simp] theorem State.zeroFill_ms (s : State) (a n : Nat) : (s.zeroFill a n).ms = s.ms := rfl
@[simp] theorem State.zeroFill_wk (s : State) (a n : Nat) : (s.zeroFill a n).wk = s.wk := rfl
@[simp] theorem State.zeroFill_sq (s : State) (a n : Nat) : (s.zeroFill a n).sq = s.sq := rfl
@[simp] theorem State.zeroFill_hs (s : State) (a n : Nat) : (s.zeroFill a n).hs = s.hs := rfl
@[simp] theorem State.zeroFill_pkg (s : State) (a n : Nat) : (s.zeroFill a n).pkg = s.pkg := rfl

@[simp] theorem State.ticket_cur (s : State) : s.ticket.2.cur = s.cur := rfl
@[simp] theorem State.ticket_micro (s : State) : s.ticket.2.micro = s.micro := rfl
@[simp] theorem State.ticket_agenda (s : State) : s.ticket.2.agenda = s.agenda := rfl
@[simp] theorem State.ticket_turnNo (s : State) : s.ticket.2.turnNo = s.turnNo := rfl
@[simp] theorem State.ticket_freeNo (s : State) : s.ticket.2.freeNo = s.freeNo := rfl
@[simp] theorem State.ticket_cores (s : State) : s.ticket.2.cores = s.cores := rfl
@[simp] theorem State.ticket_ctxs (s : State) : s.ticket.2.ctxs = s.ctxs := rfl
@[simp] theorem State.ticket_mem (s : State) : s.ticket.2.mem = s.mem := rfl
@[simp] theorem State.ticket_memPoi (s : State) : s.ticket.2.memPoi = s.memPoi := rfl
@[simp] theorem State.ticket_fbits (s : State) : s.ticket.2.fbits = s.fbits := rfl
@[simp] theorem State.ticket_ms (s : State) : s.ticket.2.ms = s.ms := rfl
@[simp] theorem State.ticket_wk (s : State) : s.ticket.2.wk = s.wk := rfl
@[simp] theorem State.ticket_sq (s : State) : s.ticket.2.sq = s.sq := rfl
@[simp] theorem State.ticket_hs (s : State) : s.ticket.2.hs = s.hs := rfl
@[simp] theorem State.ticket_pkg (s : State) : s.ticket.2.pkg = s.pkg := rfl

@[simp] theorem State.freeBit_cur (s : State) : s.freeBit.2.cur = s.cur := rfl
@[simp] theorem State.freeBit_micro (s : State) : s.freeBit.2.micro = s.micro := rfl
@[simp] theorem State.freeBit_agenda (s : State) : s.freeBit.2.agenda = s.agenda := rfl
@[simp] theorem State.freeBit_turnNo (s : State) : s.freeBit.2.turnNo = s.turnNo := rfl
@[simp] theorem State.freeBit_nextId (s : State) : s.freeBit.2.nextId = s.nextId := rfl
@[simp] theorem State.freeBit_cores (s : State) : s.freeBit.2.cores = s.cores := rfl
@[simp] theorem State.freeBit_ctxs (s : State) : s.freeBit.2.ctxs = s.ctxs := rfl
@[simp] theorem State.freeBit_mem (s : State) : s.freeBit.2.mem = s.mem := rfl
@[simp] theorem State.freeBit_memPoi (s : State) : s.freeBit.2.memPoi = s.memPoi := rfl
@[simp] theorem State.freeBit_fbits (s : State) : s.freeBit.2.fbits = s.fbits := rfl
@[simp] theorem State.freeBit_ms (s : State) : s.freeBit.2.ms = s.ms := rfl
@[simp] theorem State.freeBit_wk (s : State) : s.freeBit.2.wk = s.wk := rfl
@[simp] theorem State.freeBit_sq (s : State) : s.freeBit.2.sq = s.sq := rfl
@[simp] theorem State.freeBit_hs (s : State) : s.freeBit.2.hs = s.hs := rfl
@[simp] theorem State.freeBit_pkg (s : State) : s.freeBit.2.pkg = s.pkg := rfl

@[simp] theorem State.freeWord_cur (s : State) : s.freeWord.2.cur = s.cur := rfl
@[simp] theorem State.freeWord_micro (s : State) : s.freeWord.2.micro = s.micro := rfl
@[simp] theorem State.freeWord_agenda (s : State) : s.freeWord.2.agenda = s.agenda := rfl
@[simp] theorem State.freeWord_turnNo (s : State) : s.freeWord.2.turnNo = s.turnNo := rfl
@[simp] theorem State.freeWord_nextId (s : State) : s.freeWord.2.nextId = s.nextId := rfl
@[simp] theorem State.freeWord_cores (s : State) : s.freeWord.2.cores = s.cores := rfl
@[simp] theorem State.freeWord_ctxs (s : State) : s.freeWord.2.ctxs = s.ctxs := rfl
@[simp] theorem State.freeWord_mem (s : State) : s.freeWord.2.mem = s.mem := rfl
@[simp] theorem State.freeWord_memPoi (s : State) : s.freeWord.2.memPoi = s.memPoi := rfl
@[simp] theorem State.freeWord_fbits (s : State) : s.freeWord.2.fbits = s.fbits := rfl
@[simp] theorem State.freeWord_ms (s : State) : s.freeWord.2.ms = s.ms := rfl
@[simp] theorem State.freeWord_wk (s : State) : s.freeWord.2.wk = s.wk := rfl
@[simp] theorem State.freeWord_sq (s : State) : s.freeWord.2.sq = s.sq := rfl
@[simp] theorem State.freeWord_hs (s : State) : s.freeWord.2.hs = s.hs := rfl
@[simp] theorem State.freeWord_pkg (s : State) : s.freeWord.2.pkg = s.pkg := rfl

@[simp] theorem State.msix_cur (s : State) (v : Nat) : (s.msix v).cur = s.cur := rfl
@[simp] theorem State.msix_micro (s : State) (v : Nat) : (s.msix v).micro = s.micro := rfl
@[simp] theorem State.msix_agenda (s : State) (v : Nat) : (s.msix v).agenda = s.agenda := rfl
@[simp] theorem State.msix_turnNo (s : State) (v : Nat) : (s.msix v).turnNo = s.turnNo := rfl
@[simp] theorem State.msix_nextId (s : State) (v : Nat) : (s.msix v).nextId = s.nextId := rfl
@[simp] theorem State.msix_freeNo (s : State) (v : Nat) : (s.msix v).freeNo = s.freeNo := rfl
@[simp] theorem State.msix_cores (s : State) (v : Nat) : (s.msix v).cores = s.cores := rfl
@[simp] theorem State.msix_ctxs (s : State) (v : Nat) : (s.msix v).ctxs = s.ctxs := rfl
@[simp] theorem State.msix_mem (s : State) (v : Nat) : (s.msix v).mem = s.mem := rfl
@[simp] theorem State.msix_memPoi (s : State) (v : Nat) : (s.msix v).memPoi = s.memPoi := rfl
@[simp] theorem State.msix_fbits (s : State) (v : Nat) : (s.msix v).fbits = s.fbits := rfl
@[simp] theorem State.msix_ms (s : State) (v : Nat) : (s.msix v).ms = s.ms := rfl
@[simp] theorem State.msix_wk (s : State) (v : Nat) : (s.msix v).wk = s.wk := rfl
@[simp] theorem State.msix_sq (s : State) (v : Nat) : (s.msix v).sq = s.sq := rfl
@[simp] theorem State.msix_hs (s : State) (v : Nat) : (s.msix v).hs = s.hs := rfl

/-! ### What an update changes -/

@[simp] theorem State.ctx?_putCtx_same (s : State) (c : Nat) (x : Ctx) : (s.putCtx c x).ctx? c = some x := Map.find_put_same ..
theorem State.ctx?_putCtx_other (s : State) {c d : Nat} (x : Ctx) (h : d ≠ c) : (s.putCtx c x).ctx? d = s.ctx? d := Map.find_put_other _ _ h
@[simp] theorem State.ctx?_modCtx_same (s : State) (c : Nat) (f : Ctx → Ctx) : (s.modCtx c f).ctx? c = (s.ctx? c).map f := by
  simp [State.ctx?, State.modCtx, Map.find_mod]
theorem State.ctx?_modCtx_other (s : State) {c d : Nat} (f : Ctx → Ctx) (h : d ≠ c) : (s.modCtx c f).ctx? d = s.ctx? d := by
  simp [State.ctx?, State.modCtx, Map.find_mod, h]
@[simp] theorem State.core_putCore_same (s : State) (k : Nat) (x : CoreState) : (s.putCore k x).core k = x := Map.get_put_same ..
theorem State.core_putCore_other (s : State) {k j : Nat} (x : CoreState) (h : j ≠ k) : (s.putCore k x).core j = s.core j := Map.get_put_other _ _ _ h
@[simp] theorem State.core_modCore_same (s : State) (k : Nat) (f : CoreState → CoreState) : (s.modCore k f).core k = f (s.core k) := Map.get_put_same ..
theorem State.core_modCore_other (s : State) {k j : Nat} (f : CoreState → CoreState) (h : j ≠ k) : (s.modCore k f).core j = s.core j :=
  Map.get_put_other _ _ _ h
@[simp] theorem State.stream?_modStream_same (s : State) (sid : Nat) (f : Stream → Stream) : (s.modStream sid f).stream? sid = (s.stream? sid).map f := by
  simp [State.stream?, State.modStream, Map.find_mod]
theorem State.stream?_modStream_other (s : State) {sid d : Nat} (f : Stream → Stream) (h : d ≠ sid) :
    (s.modStream sid f).stream? d = s.stream? d := by
  simp [State.stream?, State.modStream, Map.find_mod, h]
@[simp] theorem State.rec?_modRec_same (s : State) (t : Nat) (f : Rec → Rec) : (s.modRec t f).rec? t = (s.rec? t).map f := by
  simp [State.rec?, State.modRec, Map.find_mod]
theorem State.rec?_modRec_other (s : State) {t d : Nat} (f : Rec → Rec) (h : d ≠ t) : (s.modRec t f).rec? d = s.rec? d := by
  simp [State.rec?, State.modRec, Map.find_mod, h]
theorem State.poisonAt_setPoison_same (s : State) (a : Nat) (p : Bool) : (s.setPoison a p).poisonAt a = p := Map.get_set_same ..
theorem State.poisonAt_setPoison_other (s : State) {a b : Nat} (p : Bool) (h : markOf b ≠ markOf a) : (s.setPoison a p).poisonAt b = s.poisonAt b :=
  Map.get_set_other _ _ _ _ h
@[simp] theorem State.ticket_id (s : State) : s.ticket.1 = s.nextId := rfl
@[simp] theorem State.ticket_nextId (s : State) : s.ticket.2.nextId = s.nextId + 1 := rfl

/-! ### Vectors -/

@[simp] theorem vget_vset_same {α : Type} {n : Nat} (v : Vector α n) (i : Nat) (x d : α) (h : i < n) : vget (vset v i x) i d = x := by
  simp [vget, vset, h]
theorem vget_vset_other {α : Type} {n : Nat} (v : Vector α n) {i j : Nat} (x d : α) (h : j ≠ i) : vget (vset v i x) j d = vget v j d := by
  simp [vget, vset, h.symm]

end Sys2Proof.Machine
end

