-- ==== Sys2Proof/Laws/Ops.lean ====
section
/-! SUPPORT. One specification for each shared operation: exposing a result, running a trigger or a stream instruction, posting a
record, taking a fault and returning from one. -/
namespace Sys2Proof.Machine
open Sys2Proof Sys2Proof.Safety

/-! ### Exposed results (R77) -/

/-- Exposing a result adds one flight to the context and changes nothing else. -/
theorem State.expose_eq {s : State} {t : Trig} {x : Ctx} (h : s.ctx? t.ctx = some x) (port l : Nat) (v : PV) :
    s.expose t port l v = s.putCtx t.ctx (withResults x t [(port, v, l)]) := by
  have h' : Map.find s.ctxs t.ctx = some x := h
  simp [State.expose, State.modCtx, Map.mod, h', State.putCtx, withResults]

/-! ### Which agent executes -/

theorem onTrigger_of_runs {s : State} {t : Trig} {x : Ctx} (h : Runs s t x) (f : Trig → Ctx → State) : onTrigger s f = .next (f t x) := by
  simp [onTrigger, h.1, h.2]

theorem checked_pass {s : State} {t : Trig} {x : Ctx} {chk : State → Trig → Ctx → Option Fail} (h : Runs s t x) (hc : chk s t x = none)
    (f : Trig → Ctx → State) : checked s chk f = .next (f t x) := by
  simp [checked, onTrigger_of_runs h, hc]

theorem checked_fail {s : State} {t : Trig} {x : Ctx} {chk : State → Trig → Ctx → Option Fail} {e : Fail} (h : Runs s t x)
    (hc : chk s t x = some e) (f : Trig → Ctx → State) : checked s chk f = .next (s.preciseFault t e) := by
  simp [checked, onTrigger_of_runs h, hc]

theorem onStream_of_runs {s : State} {sid : Nat} {x : Stream} (h : RunsStream s sid x) (f : Nat → Stream → State) :
    onStream s f = .next (f sid x) := by
  simp [onStream, h.1, h.2]

/-- An exposed trigger without a check exposes its value. -/
theorem exposes_of_onTrigger {i : Instr} {s : State} {t : Trig} {x : Ctx} {port l : Nat} {v : PV} {P : PV → Prop} (h : Runs s t x)
    (he : exec i s = .next (s.expose t port l v)) (hp : P v) : Exposes i s t x port l P :=
  ⟨v, hp, he.trans (by rw [State.expose_eq h.2])⟩

/-! ### Members and records (R355) -/

@[simp] theorem State.modMember_mem (s : State) (pid : Nat) (f : Ctx → Ctx) : (s.modMember pid f).mem = s.mem := by
  unfold State.modMember; repeat' split
  all_goals rfl
@[simp] theorem State.modMember_cores (s : State) (pid : Nat) (f : Ctx → Ctx) : (s.modMember pid f).cores = s.cores := by
  unfold State.modMember; repeat' split
  all_goals rfl
@[simp] theorem State.modMember_memPoi (s : State) (pid : Nat) (f : Ctx → Ctx) : (s.modMember pid f).memPoi = s.memPoi := by
  unfold State.modMember; repeat' split
  all_goals rfl
@[simp] theorem State.modMember_fbits (s : State) (pid : Nat) (f : Ctx → Ctx) : (s.modMember pid f).fbits = s.fbits := by
  unfold State.modMember; repeat' split
  all_goals rfl
@[simp] theorem State.modMember_ms (s : State) (pid : Nat) (f : Ctx → Ctx) : (s.modMember pid f).ms = s.ms := by
  unfold State.modMember; repeat' split
  all_goals rfl
@[simp] theorem State.modMember_hs (s : State) (pid : Nat) (f : Ctx → Ctx) : (s.modMember pid f).hs = s.hs := by
  unfold State.modMember; repeat' split
  all_goals rfl

theorem State.afterPost_mem (s : State) (p : PostThen) : (s.afterPost p).mem = s.mem := by
  cases p <;> simp [State.afterPost]
theorem State.afterPost_cores (s : State) (p : PostThen) : (s.afterPost p).cores = s.cores := by
  cases p <;> simp [State.afterPost]
theorem State.afterPost_ms (s : State) (p : PostThen) : (s.afterPost p).ms = s.ms := by
  cases p <;> simp [State.afterPost]
theorem State.afterPost_hs (s : State) (p : PostThen) : (s.afterPost p).hs = s.hs := by
  cases p <;> simp [State.afterPost]

@[simp] theorem State.post_mem (s : State) (r : List Byte) (p : PostThen) : (s.post r p).mem = s.mem := by
  unfold State.post State.writeRecord
  split
  · dsimp only
    rw [State.afterPost_mem]
    split <;> rfl
  · rfl
@[simp] theorem State.post_cores (s : State) (r : List Byte) (p : PostThen) : (s.post r p).cores = s.cores := by
  unfold State.post State.writeRecord
  split
  · dsimp only
    rw [State.afterPost_cores]
    split <;> rfl
  · rfl
@[simp] theorem State.post_ms (s : State) (r : List Byte) (p : PostThen) : (s.post r p).ms = s.ms := by
  unfold State.post State.writeRecord
  split
  · dsimp only
    rw [State.afterPost_ms]
    split <;> rfl
  · rfl

/-- With room in the window a record is written at once. -/
theorem State.post_open {s : State} (h : WindowOpen s) (r : List Byte) (p : PostThen) : Posts s (s.post r p) r := by
  have hf : windowFull s.hs = false := by simpa [windowFull] using h.2
  have hp : s.post r p = s.writeRecord r p := by simp [State.post, h.1, hf]
  have e : (s.writeRecord r p).hs = { s.hs with cw := s.hs.cw.put (s.hs.cwProd.toNat % 4096) r, cwProd := s.hs.cwProd + 1 } := by
    unfold State.writeRecord
    dsimp only
    rw [State.afterPost_hs]
    split <;> rfl
  rw [Posts, hp, e]
  exact ⟨rfl, Map.find_put_same .., h.1⟩

/-! ### Taking a fault (R326, R327) -/

@[simp] theorem State.startReplay_mem (s : State) (t d b : Nat) (p c : Option Nat) : (s.startReplay t d b p c).2.mem = s.mem := rfl

@[simp] theorem State.dropGate_mem (s : State) (c : Nat) (p : GStore → Bool) : (s.dropGate c p).mem = s.mem := rfl
@[simp] theorem State.postEnded_mem (s : State) (pid : Nat) (f : FaultInfo) : (s.postEnded pid f).mem = s.mem := State.post_mem ..

@[simp] theorem State.endMember_mem (s : State) (pid : Nat) : (s.endMember pid).mem = s.mem := by
  unfold State.endMember
  split
  · next b x _ _ =>
    have h : (x.later.foldl (fun t f => t.postEnded pid f.info) s).mem = s.mem :=
      State.foldl_mem (fun t (f : LaterFault) => t.postEnded pid f.info) (fun t f => State.postEnded_mem t pid f.info) x.later s
    rw [State.modMember_mem]
    split
    · exact h
    · rw [State.dropGate_mem]; exact h
  · rfl

/-- Stopping for a fault changes no byte of memory, whatever the action. -/
@[simp] theorem State.stopFor_mem (s : State) (c : Nat) (x : Ctx) (resume action : Nat) (f : FaultInfo) :
    (s.stopFor c x resume action f).mem = s.mem := by
  unfold State.stopFor
  dsimp only
  split
  · simp
  · split <;> simp
  · simp

@[simp] theorem State.takeFault_mem (s : State) (c resume : Nat) (f : FaultInfo) : (s.takeFault c resume f).mem = s.mem := by
  unfold State.takeFault
  split
  · rfl
  · split
    · simp
    · split <;> simp

@[simp] theorem State.takeLater_mem (s : State) (c pc : Nat) : (s.takeLater c pc).mem = s.mem := by
  unfold State.takeLater
  split
  · rfl
  · split
    · simp
    · rfl

@[simp] theorem State.imprecise_mem (s : State) (c : Nat) (f : FaultInfo) : (s.imprecise c f).mem = s.mem := by simp [State.imprecise]
@[simp] theorem State.preciseFault_mem (s : State) (t : Trig) (f : Fail) : (s.preciseFault t f).mem = s.mem := by simp [State.preciseFault]

@[simp] theorem State.streamFault_mem (s : State) (sid cls code sub v : Nat) : (s.streamFault sid cls code sub v).mem = s.mem := by
  unfold State.streamFault
  split <;> simp

theorem State.resumeAt_mem (s : State) (c pc : Nat) : (s.resumeAt c pc).mem = s.mem := by simp [State.resumeAt]

end Sys2Proof.Machine
end

