-- ==== Sys2Proof/Laws/Words.lean ====
section
/-! SUPPORT. Lanes of a vector and little-endian bytes: what is read is what was put together. -/
namespace Sys2Proof

/-- The lanes from s on, as one number. -/
theorem lanes_digit (f : Nat → Word) : ∀ (n s i : Nat), i < n →
    ((List.range' s n).foldr (fun j acc => acc * 2 ^ 32 + (f j).toNat) 0) / 2 ^ (32 * i) % 2 ^ 32 = (f (s + i)).toNat
  | 0, _, _, h => absurd h (Nat.not_lt_zero _)
  | n + 1, s, 0, _ => by
    simp only [List.range'_succ, List.foldr_cons, Nat.mul_zero, Nat.pow_zero, Nat.div_one, Nat.add_zero]
    have := (f s).isLt
    omega
  | n + 1, s, i + 1, h => by
    have ih := lanes_digit f n (s + 1) i (by omega)
    simp only [List.range'_succ, List.foldr_cons]
    rw [show 32 * (i + 1) = 32 + 32 * i by omega, Nat.pow_add, ← Nat.div_div_eq_div_mul]
    have hd : ∀ a : Nat, (a * 2 ^ 32 + (f s).toNat) / 2 ^ 32 = a := fun a => by
      have := (f s).isLt
      omega
    rw [hd, ih, show s + 1 + i = s + (i + 1) by omega]

theorem mod_div_mod (x w i n : Nat) (h : i + n ≤ w) : x % 2 ^ w / 2 ^ i % 2 ^ n = x / 2 ^ i % 2 ^ n := by
  apply Nat.eq_of_testBit_eq
  intro k
  simp only [Nat.testBit_mod_two_pow, Nat.testBit_div_two_pow]
  by_cases hk : k < n
  · simp [hk, show k + i < w by omega]
  · simp [hk]

/-- A lane of a number as a vector. -/
theorem Vec.lane_ofNat (x j : Nat) (h : j < 64) : (Vec.lane (BitVec.ofNat 2048 x) j).toNat = x / 2 ^ (32 * j) % 2 ^ 32 := by
  unfold Vec.lane
  rw [BitVec.extractLsb'_toNat, BitVec.toNat_ofNat, Nat.shiftRight_eq_div_pow]
  exact mod_div_mod x 2048 (32 * j) 32 (by omega)

/-- Lane j of the vector that is put together from f is f j. -/
theorem Vec.lane_ofLanes (f : Nat → Word) {j : Nat} (h : j < 64) : (Vec.ofLanes f).lane j = f j := by
  apply BitVec.eq_of_toNat_eq
  unfold Vec.ofLanes
  rw [Vec.lane_ofNat _ j h, List.range_eq_range', lanes_digit f 64 0 j h, Nat.zero_add]

/-- The bytes of a number give it back below their range. -/
theorem leNat_leBytes : ∀ (n x : Nat), leNat (leBytes n x) = x % 256 ^ n
  | 0, x => by simp [leBytes, leNat, Nat.mod_one]
  | n + 1, x => by
    unfold leBytes leNat
    rw [leNat_leBytes n (x / 256), BitVec.toNat_ofNat, show (256 : Nat) ^ (n + 1) = 256 * 256 ^ n by ring, Nat.mod_mul]

@[simp] theorem length_leBytes : ∀ (n x : Nat), (leBytes n x).length = n
  | 0, _ => rfl
  | n + 1, x => by simp [leBytes, length_leBytes n (x / 256)]

end Sys2Proof
end

