-- ==== Sys2Proof/Tests/Slice0.lean ====
section
/-! SUPPORT. Tests: the encodings and the well-formedness checks, single steps with results from the worked examples of the manual or by
hand from its rules, and witnesses that meet the hypotheses of the obligations. -/
namespace Sys2Proof.Tests
set_option Elab.async false
open Sys2Proof Sys2Proof.Machine Sys2Proof.Safety

/-! ### Small states -/

/-- A value of a port or register. -/
def val (n : Nat) : PV := { val := BitVec.ofNat 2048 n, poi := 0 }
def noSet : AgSet := { a := PW.zero, n := PW.zero, b := PW.zero, k := PW.zero }
/-- A trigger of slot 3 of bundle 1 at cycle 100, on context 0, with an operand. -/
def trg (y : Nat) : Trig := { ctx := 0, slot := 3, bno := 1, cyc := 100, delay := false, word := 0, y := val y, ag := noSet, ag2 := noSet }
/-- The context of a task that has just started. -/
def task0 : Ctx := { Ctx.start 2 0 (Regs.start 0 0 []) with marked := true, shadow := some (Regs.start 0 0 [], []), region := 3 }
def regs (f : Regs → Regs) (x : Ctx) : Ctx := { x with r := f x.r }
/-- A context with a value in an operand port. -/
def port (i n : Nat) (x : Ctx) : Ctx := regs (fun r => { r with opnd := vset r.opnd i (val n) }) x
def withFmt (w : Word) (x : Ctx) : Ctx := regs (fun r => { r with fmt := w }) x
/-- A kernel of four bundles with all codebook banks and one ring of two slots. -/
def kern : Kernel :=
  { oneBundle [] with
    bundles := [[], [], [], []], cbmask := 15, ringCount := 1, bankMap := 0xfedcba9876543210#64,
    plan := [{ id := 0, bank := 0, off := 0, size := 8192, first := 0, last := 0 }],
    rings := [{ ring := 0, buf := 0, slotSize := 4096, slots := 2 }] }
/-- A task of that kernel on the first core, with its context. -/
def base (x : Ctx) : State :=
  let s := State.reset.placeTask []
  { s with ctxs := [(0, x)], sq := { s.sq with kernels := [kern] } }
/-- The same while it executes a trigger with operand y. -/
def runAt (y : Nat) (x : Ctx) : State := { base x with cur := .trigger (trg y) }
def after (o : Out) : State := match o with
  | .next s => s
  | _ => State.reset
/-- The word that a step of the task leaves in flight to a port. -/
def flown (o : Out) (p : Nat) : Option Nat :=
  ((after o).ctx? 0).bind fun x => (x.flights.find? fun f => f.port == p).map fun f => f.val.scalar.toNat
/-- The class, code and value of the fault that a step takes: of the record it posts. -/
def faultOf (o : Out) : Option (Nat × Nat × Nat) :=
  ((after o).hs.cw.find 0).map fun r => (leNat (r.take 1), leNat ((r.drop 2).take 2), leNat ((r.drop 24).take 8))
def ctxOfOut (o : Out) : Ctx := ((after o).ctx? 0).getD task0
/-- A stream at word 1 of four, in slot 0. -/
def str0 : Stream :=
  { Stream.blank with st := .ready, pc := 1, prio := 3, image := { oneWord 0 with words := [0, 0, 0, 0] } }
def sbase (x : Stream) : State :=
  let s := State.reset.putSlot 0 x
  { s with cur := .stream 0 }

theorem runs_at (y : Nat) (x : Ctx) : Runs (runAt y x) (trg y) x := ⟨rfl, rfl⟩
theorem runs_stream (x : Stream) : RunsStream (sbase x) 0 x := ⟨rfl, rfl⟩

/-! ### Well-formedness (R90, R91 and the rules of each word): an ill-formed term for each check -/

theorem test_wf_thint : (Instr.thint 1 6).wf = false ∧ (Instr.thint 1 5).wf = true := by decide
theorem test_wf_tstat : (Instr.tstat 1 2 8).wf = false ∧ (Instr.tstat 1 2 7).wf = true := by decide
theorem test_wf_opr_mode : (Instr.opr 1 2 3 3 0 1 0 0 1).wf = false ∧ (Instr.opr 1 2 3 2 0 1 0 0 1).wf = true := by decide
theorem test_wf_opr_fix_die : (Instr.opr 1 2 3 0 4 1 0 0 1).wf = false ∧ (Instr.opr 1 2 3 1 4 1 0 0 1).wf = true := by decide
theorem test_wf_opr_parameters : (Instr.opr 1 2 3 0 0 9 0 0 8).wf = false ∧ (Instr.opr 1 2 3 0 0 8 0 0 8).wf = true := by decide
theorem test_wf_opr_tensors : (Instr.opr 1 30 3 0 0 3 0 0 0).wf = false ∧ (Instr.opr 1 30 3 0 0 2 0 0 0).wf = true := by decide
theorem test_wf_opr_scalars : (Instr.opr 1 2 25 0 0 0 0 0 8).wf = false ∧ (Instr.opr 1 2 25 0 0 0 0 0 7).wf = true := by decide
theorem test_wf_xform : (Instr.xform 1 2 5 0 0).wf = false ∧ (Instr.xform 1 2 4 0 0).wf = true := by decide
theorem test_wf_route_experts : (Instr.route 1 2 3 0 0).wf = false ∧ (Instr.route 1 2 3 1 0).wf = true := by decide
theorem test_wf_route_range : (Instr.route 1 2 30 4 0).wf = false ∧ (Instr.route 1 2 29 4 0).wf = true := by decide
theorem test_wf_gop : (Instr.gop 31 1 0 0).wf = false ∧ (Instr.gop 31 0 0 0).wf = true := by decide
theorem test_wf_coll : (Instr.coll 1 2 3 0 0).wf = false ∧ (Instr.coll 1 2 2 0 0).wf = true := by decide
theorem test_wf_depw : (Instr.depw 0).wf = false ∧ (Instr.depw 63).wf = true := by decide
theorem test_wf_depset : (Instr.depset 1 0).wf = false ∧ (Instr.depset 1 63).wf = true := by decide
theorem test_wf_phase : (Instr.phase 2).wf = false ∧ (Instr.phase 6).wf = false ∧ (Instr.phase 3).wf = true ∧ (Instr.phase 5).wf = true := by decide
theorem test_wf_fence : (Instr.fence 2).wf = false ∧ (Instr.fence 6).wf = false ∧ (Instr.fence 3).wf = true ∧ (Instr.fence 5).wf = true := by decide

/-! ### Words written out from the encodings (Table 5.11 to Table 5.13: OP at bit 56, A at 51, B at 46, C at 41, X at 32) -/

theorem test_decode_li : decodeStream (0x01#8 ++ 3#5 ++ 0#5 ++ 0#5 ++ 0#9 ++ 0xffffffff#32) = .ok (.li 3 0xffffffff) := by rfl
theorem test_decode_add : decodeStream (0x03#8 ++ 4#5 ++ 10#5 ++ 3#5 ++ 0#9 ++ 0#32) = .ok (.add 4 10 3) := by rfl
theorem test_decode_beq : decodeStream (0x11#8 ++ 1#5 ++ 2#5 ++ 0#5 ++ 0#9 ++ 0xfffffffe#32) = .ok (.beq 1 2 0xfffffffe) := by rfl
theorem test_decode_depw : decodeStream 0x4000000000001400#64 = .ok (.depw 5) := by rfl
theorem test_decode_fence : decodeStream 0x4900000300000000#64 = .ok (.fence 3) := by rfl
theorem test_decode_gop : decodeStream 0x3420000112340400#64 = .ok (.gop 4 1 0x1234 1) := by rfl
/-- The transform and the launch of 24_notes (PC 6 and PC 12 of P4). -/
theorem test_decode_xform : decodeStream 0x3100004000000400#64 = .ok (.xform 0 0 2 0 1) := by rfl
theorem test_decode_opr : decodeStream 0x3008008200000800#64 = .ok (.opr 1 0 0 1 0 2 0 2 0) := by rfl
theorem test_decode_reserved_op : ∃ e, decodeStream 0x5300000000000000#64 = .error e := ⟨_, rfl⟩
theorem test_decode_nonzero_reserved_field : ∃ e, decodeStream 0x5000000000000001#64 = .error e := ⟨_, rfl⟩

/-- Slots (R62: guard at bit 20, source at bit 10, destination): the trigger codes of Table 5.8. -/
theorem test_decode_slot_sa : decodeSlot 0x040200#24 = some (.saAdd false) := by decide +kernel
theorem test_decode_slot_sb : decodeSlot 0x040220#24 = some (.saAdd true) := by decide +kernel
/-- 10_notes: the slot of 2 -> ag1.pdec. -/
theorem test_decode_slot_ag : decodeSlot 0x0c0a72#24 = some (.agPdec true) := by decide +kernel
theorem test_decode_slot_br : decodeSlot 0x0c0287#24 = some .brHalt := by decide +kernel
theorem test_decode_slot_mx : decodeSlot 0x0c0292#24 = some .mxMma := by decide +kernel
theorem test_decode_slot_ls : decodeSlot 0x0016c4#24 = some .lsLd32 := by decide +kernel
theorem test_decode_slot_vf : decodeSlot 0x03a2e0#24 = some .vfAddF32 := by decide +kernel
theorem test_decode_slot_gv : decodeSlot 0x010330#24 = some .gvRedFadd := by decide +kernel
theorem test_decode_slot_gq : decodeSlot 0x0c0362#24 = some .gqPoll := by decide +kernel
/-- 12_notes: the slot of s13 -> sy.cbwr. -/
theorem test_decode_slot_sy : decodeSlot 0x003752#24 = some .syCbwr := by decide +kernel
theorem test_decode_slot_reserved : decodeSlot 0x0c025b#24 = none ∧ decodeSlot 0x0c0363#24 = none := ⟨rfl, rfl⟩
/-- 10_notes and 12_notes: moves, their guard, source and destination. -/
theorem test_slot_fields : (moveOfWord 0 0x32c0a8#24).guard = 3 ∧ (moveOfWord 0 0x32c0a8#24).src = 0xb0 ∧
    (moveOfWord 0 0x32c0a8#24).dst = 0xa8 ∧ (moveOfWord 0 0x062044#24).src = 0x188 ∧ (moveOfWord 0 0x062044#24).dst = 0x44 := by decide

/-! ### Results of single steps. Figures come from the notes named, or by hand from the rule. -/

theorem test_sa_add_wraps : flown (exec (.saAdd false) (runAt 2 (port 0 0xffffffff task0))) 0 = some 1 := by decide +kernel
/-- R149: the shift distance is y mod 32, and sar brings the sign in. -/
theorem test_sa_sar : flown (exec (.saSar true) (runAt 36 (port 2 0x80000000 task0))) 1 = some 0xf8000000 := by decide +kernel
theorem test_sa_rotl : flown (exec (.saRotl false) (runAt 4 (port 0 0x80000001 task0))) 0 = some 0x18 := by decide +kernel
theorem test_sa_lt_signed : flown (exec (.saLtS false) (runAt 1 (port 0 0xffffffff task0))) 0 = some 1 ∧
    flown (exec (.saLtZ false) (runAt 1 (port 0 0xffffffff task0))) 0 = some 0 := by decide +kernel
/-- R149: position 8 and length 8 in y = 8 + 32 * 7. -/
theorem test_sa_ext : flown (exec (.saExtS false) (runAt 0xe8 (port 0 0x0000f600 task0))) 0 = some 0xfffffff6 := by decide +kernel
theorem test_sa_ins : flown (exec (.saIns false) (runAt 0xe8 (port 1 0x1ab (port 0 0xffffffff task0)))) 0 = some 0xffffabff := by decide +kernel
theorem test_sa_clz_zero : flown (exec (.saClz false) (runAt 0 task0)) 0 = some 32 := by decide +kernel
theorem test_sm_mulh : flown (exec .smMulhS (runAt 0xffffffff (port oSmO 0xffffffff task0))) qSm = some 0 ∧
    flown (exec .smMulhZ (runAt 0xffffffff (port oSmO 0xffffffff task0))) qSm = some 0xfffffffe := by decide +kernel
/-- R151: −7 / 2 truncates, and the least number by −1 gives itself with remainder 0. -/
theorem test_sm_div : (((after (exec .smDivS (runAt 2 (port oSmO 0xfffffff9 task0)))).core 0).div.map fun d => (d.2.1.scalar, d.2.2.1.scalar, d.2.2.2.1)) =
    some (0xfffffffd#32, 0xffffffff#32, 118) := by decide +kernel
theorem test_sm_div_corner : (((after (exec .smRemS (runAt 0xffffffff (port oSmO 0x80000000 task0)))).core 0).div.map fun d =>
    (d.2.1.scalar, d.2.2.1.scalar)) = some (0#32, 0x80000000#32) := by decide +kernel
/-- 10_notes: 2.5 under RNE and Up, and 2^24 + 1. -/
theorem test_sm_fcvt : flown (exec .smFcvtS32 (runAt 0x40200000 task0)) qSm = some 2 ∧
    flown (exec .smFcvtS32 (runAt 0x40200000 (withFmt 0x03004011 task0))) qSm = some 3 := by decide +kernel
theorem test_sm_icvt : flown (exec .smIcvtS32 (runAt 0x01000001 task0)) qSm = some 0x4b800000 ∧
    flown (exec .smIcvtS32 (runAt 0x01000001 (withFmt 0x03004011 task0))) qSm = some 0x4b800001 := by decide +kernel
/-- 04_notes, Table 4.5. -/
theorem test_sm_rcp : flown (exec .smFrcp (runAt 0x3fc00000 task0)) qSm = some 0x3f2aaaab := by decide +kernel
theorem test_sm_rsq : flown (exec .smFrsq (runAt 0x40000000 task0)) qSm = some 0x3f3504f3 := by decide +kernel
theorem test_sm_exp2 : flown (exec .smFexp2 (runAt 0x3f000000 task0)) qSm = some 0x3fb504f3 := by decide +kernel
theorem test_sm_log2 : flown (exec .smFlog2 (runAt 0x3fc00000 task0)) qSm = some 0x3f15c01a := by decide +kernel
/-- 04_notes, Table 4.6 and Table 4.7. -/
theorem test_vx_tanh_small : flown (exec .vxTanh (runAt 0x3e000000 task0)) qVxS = some 0x3dfeacc9 := by decide +kernel
theorem test_vx_tanh_large : flown (exec .vxTanh (runAt 0x3f000000 task0)) qVxS = some 0x3eec9ac0 := by decide +kernel
/-- R45: a flush, and NaN results are canonical. -/
theorem test_sm_fadd_nan : flown (exec .smFadd (runAt 0x7f800000 (port oSmO 0xff800000 task0))) qSm = some 0x7fc00000 := by decide +kernel

/-- 10_notes, Table 10.2: the wrap at the fourth issue, and a2 outside its window. -/
def set2 (a : Nat) : AgSet := { a := PW.of (BitVec.ofNat 32 a), n := PW.of 0x40, b := PW.of 0x10000, k := PW.of 0x100 }
def agRun (i : Instr) (a o : Nat) : Out :=
  exec i { base (port 7 o task0) with cur := .trigger { trg 2 with ag := set2 a } }
theorem test_ag_pdec : flown (agRun (.agPdec true) 0x10000 0) 5 = some 0x10000 ∧
    (vget (ctxOfOut (agRun (.agPdec true) 0x10000 0)).r.ar 2 PW.zero).val = 0x100c0#32 := by decide +kernel
theorem test_ag_idx : flown (agRun (.agIdx true) 0x10040 0xfffffffd) 5 = some 0x10080 ∧
    (vget (ctxOfOut (agRun (.agIdx true) 0x10040 0xfffffffd)).r.ar 2 PW.zero).val = 0#32 := by decide +kernel

/-- 12_notes: 2^24 in lane 0 and 1.0 in lanes 1 to 63. -/
def ones (first : Nat) : Nat := (Vec.ofLanes fun j => if j = 0 then BitVec.ofNat 32 first else 0x3f800000).toNat
theorem test_vf_rsum : flown (exec .vfRsumF32 (runAt (ones 0x4b800000) task0)) qVf = some 0x4b80001f := by decide +kernel
theorem test_vf_rmax : flown (exec .vfRmaxF32 (runAt (ones 0x4b800000) task0)) qVf = some 0x4b800000 := by decide +kernel
theorem test_vf_rsum_integers : flown (exec .vfRsumS32 (runAt (Vec.ofLanes fun j => BitVec.ofNat 32 j).toNat task0)) qVf = some 2016 := by decide +kernel
theorem test_vf_dot4 : flown (exec .vfDot4S8 (runAt 0x02ff0180 (port oVfO2 5 (port oVfO 0x03020180 task0)))) qVf = some (5 + 6 - 2 + 1 + 16384) := by
  decide +kernel
/-- R172: lane 1 of the left half follows lane 0. -/
theorem test_vx_zip : (((after (exec .vxZipLo (runAt (7 + 8 * 2 ^ 32) (port oVxO (5 + 6 * 2 ^ 32) task0)))).ctx? 0).map fun x =>
    x.flights.map fun f => [f.val.lane 0, f.val.lane 1, f.val.lane 2, f.val.lane 3]).map (·.headD []) = some [5, 7, 6, 8] := by decide +kernel

/-- 04_notes, Table 4.1 and Table 4.2: 2.375 and −2.375 in narrow formats. -/
def lane0Byte (o : Out) : Option Nat := (flown o qVx).map (· % 256)
def rnd (m : Nat) : Word := BitVec.ofNat 32 (0x4011 + m * 2 ^ 24)
theorem test_cvt_bf16 : (flown (exec .vxCvtBf16F32 (runAt 0x40180000 task0)) qVx).map (· % 2 ^ 16) = some 0x4018 := by decide +kernel
theorem test_cvt_e4m3 : lane0Byte (exec .vxCvtE4m3F32 (runAt 0x40180000 task0)) = some 0x42 ∧
    lane0Byte (exec .vxCvtE4m3F32 (runAt 0xc0180000 (withFmt (rnd 1) task0))) = some 0xc1 := by decide +kernel
theorem test_cvt_e4m3_saturates : lane0Byte (exec .vxCvtE4m3F32 (runAt 0x43fa0000 task0)) = some 0x7e := by decide +kernel
theorem test_cvt_e5m2 : lane0Byte (exec .vxCvtE5m2F32 (runAt 0x40180000 task0)) = some 0x41 ∧
    lane0Byte (exec .vxCvtE5m2F32 (runAt 0x7f800000 task0)) = some 0x7c := by decide +kernel
theorem test_cvt_lns : lane0Byte (exec .vxCvtL6F32 (runAt 0x40180000 task0)) = some 0x15 ∧
    lane0Byte (exec .vxCvtL6F32 (runAt 0x40180000 (withFmt (rnd 1) task0))) = some 0x14 := by decide +kernel
theorem test_cvt_int : lane0Byte (exec .vxCvtIntF32 (runAt 0xc302b333 task0)) = some 0x80 ∧
    lane0Byte (exec .vxCvtIntF32 (runAt 0xc302b333 (withFmt 0x0000c011 task0))) = some 0x81 := by decide +kernel
/-- 04_notes: a stored 0x80 under substitute code 3 is INT_RESERVED (class 6). -/
theorem test_cvt_int_trap : faultOf (exec .vxCvtF32Int (runAt 0x80 (withFmt 0x0001c011 task0))) = some (6, 0x60, 0) := by decide +kernel

/-- 12_notes: a view of bank 1 before the write, an invalid index, and IZERO. -/
def bank1 : Bank := { Bank.reset with entries := [(3, 0x3f80)], valid := 9, owner := some 2 }
def sluice (y w : Nat) : State :=
  { runAt y (withFmt (BitVec.ofNat 32 w) task0) with cores := [(0, { CoreState.reset with banks := vset CoreState.reset.banks 1 bank1 })] }
theorem test_cbx : flown (exec .vxCbx (sluice 3 0x00104011)) qVxS = some 0x3f80 := by decide +kernel
theorem test_cbx_invalid : faultOf (exec .vxCbx (sluice 0x00c00093 0x00104011)) = some (4, 0x40, 0x109) := by decide +kernel
theorem test_cbx_izero : flown (exec .vxCbx (sluice 0x00c00093 0x00504011)) qVxS = some 0x3f80 := by decide +kernel
/-- The write of 12_notes: 0x903 replaces the low half of entry 3 of bank 1 four cycles on. -/
theorem test_cbwr : ((((after (exec .syCbwr { runAt 0x903 (port oSyO 0x4000 task0) with cores := (sluice 0 0).cores })).bank 0 1).writes.map fun w =>
    (w.due, w.index, w.entry, w.valid))) = [(104, 3, 0x4000, true)] := by decide +kernel

/-- 10_notes: the three-stage loop of one bundle. After the closing of trip 4, RBS is 27, RBV is 11 and the frame is gone. -/
def staged : Regs := { startPreds 3 (Regs.start 21 0 []) with loops := [{ start := 21, stop := 21, count := 5, stages := some 3, n := 3, trips := 1 }] }
theorem test_staged_trip2 : (closings 21 2 staged).rbs = 30 ∧ (closings 21 2 staged).pred 3 = true ∧ (closings 21 3 staged).pred 1 = false := by decide +kernel
theorem test_staged_end : (closings 21 5 staged).rbs = 27 ∧ (closings 21 5 staged).rbv = 11 ∧ (closings 21 5 staged).loops = [] ∧
    (closings 21 5 staged).pred 3 = false := by decide +kernel

/-- R157: call leaves bno + 2 in br.q; R156: a target past the image is ILL_TRIG (class 1, code 0x13). -/
theorem test_br_call : flown (exec .brCall (runAt 3 task0)) qBr = some 3 ∧ (ctxOfOut (exec .brCall (runAt 3 task0))).r.redirect = some 3 := by decide +kernel
theorem test_br_jma_outside : faultOf (exec .brJma (runAt 4 task0)) = some (1, 0x13, 4) := by decide +kernel
theorem test_br_jmp_back : (ctxOfOut (exec .brJmp (runAt 0xffffffff task0))).r.redirect = some 0 := by decide +kernel
theorem test_sy_trap : faultOf (exec .syTrap (runAt 0x55 task0)) = some (7, 0x70, 0x55) := by decide +kernel
/-- R147: the write is not seen in the three cycles after its own, and is from the fourth on. -/
theorem test_sy_fmt_shadow : ((ctxOfOut (exec .syFmt (runAt 0x03004011 task0))).r.landFmt 103).fmt = 0x00004011#32 ∧
    ((ctxOfOut (exec .syFmt (runAt 0x03004011 task0))).r.landFmt 104).fmt = 0x03004011#32 := by decide +kernel
theorem test_sy_fclr : (ctxOfOut (exec .syFclr (runAt 0x0f (regs (fun r => { r with flags := 0x5a }) task0)))).r.flags = 0x50#8 := by decide +kernel

/-! Scratchpad: a barrier object of 96 at phase 5, as 14_notes leaves it, and the bytes of a store. -/

def barBytes : List Byte := leBytes 4 96 ++ leBytes 4 96 ++ leBytes 4 5 ++ leBytes 4 5
def lsOp (code addr n : Nat) : LsOp :=
  { id := 7, ctx := 0, code := code, addr := BitVec.ofNat 32 addr, o := val n, o2 := val 0, bno := 1, slot := 3, cyc := 90, arrived := none, pos := 0,
    done := none, late := none }
/-- A context that waits for ticket 7 in a port. -/
def waitsFor (p : Nat) (x : Ctx) : Ctx := regs (fun r => { r with pend := vset r.pend p (some 7) }) x
/-- An ls operation that its context has issued, with bytes at physical scratchpad address 0. -/
def lsState (o : LsOp) (bs : List Byte) (x : Ctx) : State :=
  let s := (base x).setBytes (bankBase 0 0) bs
  { s with cur := .idle, wk := { s.wk with ls := [o] }, cores := [(0, { CoreState.reset with cyc := 100 })], nextId := 50 }
def lsAnswer (o : Out) : Nat := (vget (ctxOfOut o).r.res qLs PV.zero).scalar.toNat
theorem test_ls_ld16_signed : lsAnswer (exec (.lsAccessComplete 7) (lsState (lsOp 2 2 0) [1, 2, 0xfe, 0xff] (waitsFor qLs task0))) = 0xfffffffe := by
  decide +kernel
theorem test_ls_amo_add : lsAnswer (exec (.lsAccessComplete 7) (lsState (lsOp 21 0 3) [0xff, 0xff, 0xff, 0xff] (waitsFor qLs task0))) = 0xffffffff ∧
    (after (exec (.lsAccessComplete 7) (lsState (lsOp 21 0 3) [0xff, 0xff, 0xff, 0xff] (waitsFor qLs task0)))).bytes 0 4 = [2, 0, 0, 0] := by decide +kernel
/-- 14_notes: an arrival of 97 counts nothing, sets Overrun and gives 0x105. -/
theorem test_bar_overrun : lsAnswer (exec (.lsAccessComplete 7) (lsState (lsOp 26 0 97) barBytes (waitsFor qLs task0))) = 0x105 ∧
    faultOf (exec (.lsAccessComplete 7) (lsState (lsOp 26 0 97) barBytes (waitsFor qLs task0))) = some (5, 0x50, 97) := by decide +kernel
theorem test_bar_completes : lsAnswer (exec (.lsAccessComplete 7) (lsState (lsOp 26 0 96) barBytes (waitsFor qLs task0))) = 0x15 := by decide +kernel
theorem test_ls_misaligned : faultOf (exec .lsLd32 (runAt 2 task0)) = some (1, 0x13, 2) := by decide +kernel
theorem test_ls_store_waits_in_gate : ((ctxOfOut (exec .lsSt16 (runAt 0x40 (port oLsO 0xabcd task0)))).gate.map (·.cells)) = [[(0x40, 0xcd), (0x41, 0xab)]] := by
  decide +kernel

/-! Streams. -/

def G (k n : Nat) (x : Stream) : Stream := { x with g := vset x.g k (BitVec.ofNat 64 n) }
def regOf (o : Out) (k : Nat) : Option Nat := ((after o).stream? 0).map fun x => (vget x.g k 0).toNat
def pcOf (o : Out) : Option Nat := ((after o).stream? 0).map (·.pc)
theorem test_li_negative : regOf (exec (.li 3 0xffffffff) (sbase str0)) 3 = some (2 ^ 64 - 1) := by decide +kernel
theorem test_g0_discards : regOf (exec (.li 0 5) (sbase str0)) 0 = some 0 ∧ pcOf (exec (.li 0 5) (sbase str0)) = some 2 := by decide +kernel
theorem test_sub_wraps : regOf (exec (.sub 3 1 2) (sbase (G 2 1 str0))) 3 = some (2 ^ 64 - 1) := by decide +kernel
theorem test_blt_signed : pcOf (exec (.blt 1 2 0xffffffff) (sbase (G 1 (2 ^ 64 - 1) str0))) = some 1 ∧
    pcOf (exec (.blt 2 1 0xffffffff) (sbase (G 1 (2 ^ 64 - 1) str0))) = some 2 := by decide +kernel
theorem test_call : pcOf (exec (.call 5 1) (sbase str0)) = some 3 ∧ regOf (exec (.call 5 1) (sbase str0)) 5 = some 2 := by decide +kernel
/-- R116: a target past the last word is SQ_PC (class 2, code 0x21). -/
theorem test_branch_outside : faultOf (exec (.b 2) (sbase str0)) = some (2, 0x21, 4) := by decide +kernel
theorem test_stream_trap : faultOf (exec (.trap 9) (sbase str0)) = some (7, 0x71, 9) := by decide +kernel
theorem test_depw_blocks : (((after (exec (.depw 5) (sbase { str0 with ctrs := vset str0.ctrs 5 1 }))).stream? 0).map (·.st)) = some .blocked := by
  decide +kernel

/-! A word placed where step fetches it (log entry 2). -/

theorem test_step_runs_a_placed_word : ((after (step (State.reset.withFetchWord 64 0x01180000ffffffff))).stream? 0).map (fun x => (vget x.g 3 0).toNat) =
    some (2 ^ 64 - 1) := by decide +kernel
theorem test_step_runs_a_placed_trigger : flown (step (State.reset.withFetchWord 24 0x04023c)) 1 = some 0 := by decide +kernel

/-! ### Witnesses: for each obligation, states and operands that meet its hypotheses, at the bounds where its clauses meet -/

theorem witness_IntegerUnitResults : Runs (runAt 5 (port 0 7 task0)) (trg 5) (port 0 7 task0) := runs_at _ _

theorem witness_MultiplyAndDivisionResults : Runs (runAt 0 (port oSmO 7 task0)) (trg 0) (port oSmO 7 task0) ∧
    Runs (runAt 0xffffffff (port oSmO 0x80000000 task0)) (trg 0xffffffff) (port oSmO 0x80000000 task0) := ⟨runs_at _ _, runs_at _ _⟩

theorem witness_ScalarFloatResults : Runs (runAt 5 (withFmt (rnd 4) task0)) (trg 5) (withFmt (rnd 4) task0) ∧
    Runs (runAt 5 (withFmt (rnd 5) task0)) (trg 5) (withFmt (rnd 5) task0) ∧
    (Rnd.ofCode (fmtRnd (withFmt (rnd 4) task0).r.fmt) = some .odd ∧ Rnd.ofCode (fmtRnd (withFmt (rnd 5) task0).r.fmt) = none) :=
  ⟨runs_at _ _, runs_at _ _, by decide +kernel⟩

theorem witness_AddressUnitResults :
    let t := { trg 2 with ag := set2 0x10000 }
    Runs { base (port 7 3 task0) with cur := .trigger t } t (port 7 3 task0) := ⟨rfl, rfl⟩

theorem witness_VectorIntegerResults : Runs (runAt 5 (port oVfO 7 task0)) (trg 5) (port oVfO 7 task0) := runs_at _ _
theorem witness_VectorFloatResults : Runs (runAt 5 (withFmt 0x08004011 task0)) (trg 5) (withFmt 0x08004011 task0) := runs_at _ _
theorem witness_VectorMovementAndFunctions : Runs (runAt 5 (port oVxO 7 task0)) (trg 5) (port oVxO 7 task0) := runs_at _ _

/-- A trap at element 63 of part 0, and none. -/
theorem witness_VectorConversions :
    let y := 0x80 * 2 ^ (8 * 63)
    let x := withFmt 0x0001c011 task0
    Runs (runAt y x) (trg y) x ∧ Runs (runAt 5 (withFmt 0x04015011 task0)) (trg 5) (withFmt 0x04015011 task0) ∧
    Runs (runAt 5 (withFmt 0x05006011 task0)) (trg 5) (withFmt 0x05006011 task0) ∧
    (fmtIwid x.r.fmt = 0 ∧ (∀ j, j < 63 → (fmtInt x.r.fmt).traps (elemAt 8 (trg y).y.val (64 * 0 + j)) = false) ∧
      (fmtInt x.r.fmt).traps (elemAt 8 (trg y).y.val (64 * 0 + 63)) = true ∧
      fmtIwid 0x04015011#32 = 1 ∧ (∀ j, j < 64 → (fmtInt 0x04015011#32).traps (elemAt 4 (trg 5).y.val (64 * 0 + j)) = false) ∧
      Rnd.ofCode (fmtRnd 0x04015011#32) = some .odd ∧ 2 ≤ fmtIwid 0x05006011#32 ∧ Rnd.ofCode (fmtRnd 0x05006011#32) = none ∧
      fmtIwid 0x05000011#32 < 2 ∧ Rnd.ofCode (fmtRnd 0x05000011#32) = none) :=
  ⟨runs_at _ _, runs_at _ _, runs_at _ _, by decide +kernel⟩

def frame (start stop count : Nat) (stages : Option Nat) : Frame := { start := start, stop := stop, count := count, stages := stages, n := count, trips := 1 }
def inLoops (fs : List Frame) (x : Ctx) : Ctx := regs (fun r => { r with loops := fs }) x

/-- The last bundle and the first past the image, no frame, a frame that ends here, and one that ends later. -/
theorem witness_RedirectEffects :
    (∀ y ∈ [3, 4, 0xffffffff, 0xfffffffe], ∀ fs ∈ [[], [frame 0 1 2 none], [frame 0 2 2 none]],
      Runs (runAt y (inLoops fs task0)) (trg y) (inLoops fs task0) ∧ (runAt y (inLoops fs task0)).kernelOf (trg y).ctx = some kern) :=
  fun _ _ _ _ => ⟨runs_at _ _, rfl⟩

/-- Legal loops of 0 and 1 trips with end bundle 2 and 3, four frames open, an end bundle past the image, and 7 and 8 stages. -/
theorem witness_LoopEffects :
    (∀ y ∈ [0, 1], ∀ e ∈ [1, 2, 3, 4], ∀ st ∈ [0, 1, 7, 8], ∀ fs ∈ [[], List.replicate 3 (frame 0 3 2 none), List.replicate 4 (frame 0 3 2 none),
        [frame 0 3 2 (some 2)]],
      Runs (runAt y (inLoops fs (port oBrO e (port oBrO2 st task0)))) (trg y) (inLoops fs (port oBrO e (port oBrO2 st task0))) ∧
      (runAt y (inLoops fs (port oBrO e (port oBrO2 st task0)))).kernelOf (trg y).ctx = some kern) ∧
    (((trg 0).bno < 2 ∧ 2 < kern.bundles.length ∧ (List.replicate 3 (frame 0 3 2 none)).length < 4 ∧ (trg 0).delay = false ∧
      ∀ f ∈ List.replicate 3 (frame 0 3 2 none), f.stop ≠ (trg 0).bno ∧ f.stages = none) ∧ ¬ (4 < kern.bundles.length) ∧ ¬ ((trg 0).bno < 1)) :=
  ⟨fun _ _ _ _ _ _ _ _ => ⟨runs_at _ _, rfl⟩, by decide +kernel⟩

/-- The last trip of three iterations in three stages; a counted frame with two trips left, and its last. -/
theorem witness_CountedAndStagedLoops :
    (1 ≤ 3 ∧ 3 ≤ 7 ∧ (4 : Nat) < 3 + 3 - 1 ∧ (1 : Nat) ≤ 3) ∧
    ((frame 1 2 2 none).stop = 2 ∧ (frame 1 2 2 none).stages = none ∧ (inLoops [frame 1 2 2 none] task0).r.loops = frame 1 2 2 none :: [] ∧
      (inLoops [frame 1 2 2 none] task0).r.redirect = none ∧ 1 < (frame 1 2 2 none).count ∧ (frame 1 2 1 none).count = 1) := by decide +kernel

theorem witness_HaltYieldTrap : Runs (runAt 5 (inLoops [frame 0 2 2 none] task0)) (trg 5) (inLoops [frame 0 2 2 none] task0) := runs_at _ _

/-- A format write still in its shadow, and the last and first operands on either side of each bound. -/
theorem witness_FormatAndFlagWrites :
    let x := regs (fun r => { r with fmtPend := [{ due := 104, mask := 0xff, val := 0x22 }] }) task0
    (∀ y ∈ [0, 1, 2, 3, 4, 255, 256], Runs (runAt y x) (trg y) x) ∧
    ((∀ w ∈ x.r.fmtPend, w.due ≤ (trg 0).cyc + 4) ∧ (trg 3).y.scalar.toNat < 4 ∧ (trg 255).y.scalar.toNat < 256 ∧ 256 ≤ (trg 256).y.scalar.toNat ∧
      (trg 1).y.scalar.toNat < 2 ∧ 2 ≤ (trg 2).y.scalar.toNat ∧ 4 ≤ (trg 4).y.scalar.toNat) :=
  ⟨fun _ _ => runs_at _ _, by decide +kernel⟩

def withGuest (f : Guest → Guest) (s : State) : State := { s with hs := { s.hs with guest := f s.hs.guest } }
def present (s : State) : State := withGuest (fun g => { g with st := .present, firstOp := 0x100, lastOp := 0x1ff }) s
/-- The highest legal packet and completion addresses, a die that traces, and a guest that is present or absent. -/
theorem witness_SignalsTraceAndGuestQueue :
    let y := 47 * 2 ^ 22 + (2 ^ 22 - 64)
    let x := port oGqO (7 * 2 ^ 28 + 47 * 2 ^ 22 + 32) task0
    let s := (present (runAt y x)).modDie 0 fun d => { d with trcEn := true }
    Runs s (trg y) x ∧ Runs (runAt y x) (trg y) x ∧ Runs (runAt 65535 x) (trg 65535) x ∧ Runs (runAt 65536 x) (trg 65536) x ∧
    ((s.die (s.dieOf 0)).trcEn = true ∧ ((runAt y x).die ((runAt y x).dieOf 0)).trcEn = false ∧ s.hs.guest.st = .present ∧ (runAt y x).hs.guest.st = .absent ∧
      (trg y).y.scalar.toNat % 32 = 0 ∧ (trg y).y.scalar.toNat / 2 ^ 22 ≤ 47 ∧ (trg y).y.scalar.toNat % 2 ^ 22 + 64 ≤ 2 ^ 22 ∧
      (x.portW oGqO).toNat < 2 ^ 31 ∧ (x.portW oGqO).toNat % 2 ^ 28 % 32 = 0 ∧ (x.portW oGqO).toNat % 2 ^ 28 / 2 ^ 22 ≤ 47 ∧
      (trg 65535).y.scalar.toNat < 2 ^ 16 ∧ 2 ^ 16 ≤ (trg 65536).y.scalar.toNat ∧ s.hs.cwWait = [] ∧ (s.hs.cwProd - s.hs.cwCons).toNat ≠ 4096) :=
  ⟨⟨rfl, rfl⟩, runs_at _ _, runs_at _ _, runs_at _ _, by decide +kernel⟩

/-- Bank 1, of which entries 0 and 3 are valid: a slice of valid indices, one whose second index is invalid, the same under IZERO, a write, and
a load of 1 and of 256 entries. -/
theorem witness_CodebookEffects :
    let x := withFmt 0x00104011 task0
    let z := withFmt 0x00504011 task0
    Runs (sluice 3 0x00104011) (trg 3) x ∧ Runs (sluice 0x93 0x00104011) (trg 0x93) x ∧ Runs (sluice 0x93 0x00504011) (trg 0x93) z ∧
    (sluice 3 0x00104011).kernelOf 0 = some kern ∧ Runs (runAt 0xbff task0) (trg 0xbff) task0 ∧
    (∀ n ∈ [1, 256], Runs (runAt (1 + 4 * 7 + 32 * n) (port oSyO 0x40 task0)) (trg (1 + 4 * 7 + 32 * n)) (port oSyO 0x40 task0)) ∧
    (kern.cbmask / 2 ^ 1 % 2 = 1 ∧ fmtCbank x.r.fmt = 1 ∧ ((sluice 3 0).bank 0 1).owner = some x.barge ∧
      (∀ i, i < 128 → ((sluice 3 0).bank 0 1).valid.getLsbD (elemAt 4 (trg 3).y.val i) = true) ∧
      ((sluice 3 0).bank 0 1).valid.getLsbD (elemAt 4 (trg 0x93).y.val 1) = false ∧ ((sluice 3 0).bank 0 1).valid.getLsbD (elemAt 4 (trg 0x93).y.val 0) = true ∧
      fmtIzero x.r.fmt = false ∧ fmtIzero z.r.fmt = true ∧ (trg 0xbff).y.scalar.toNat < 2 ^ 12 ∧ (trg (29 + 32 * 256)).y.scalar.toNat < 2 ^ 14 ∧
      0x40 % 2 ^ 22 + 8 * 256 ≤ 2 ^ 22) :=
  ⟨⟨rfl, rfl⟩, ⟨rfl, rfl⟩, ⟨rfl, rfl⟩, rfl, runs_at _ _, fun _ _ => runs_at _ _, by decide +kernel⟩

def withCore (f : CoreState → CoreState) (s : State) : State := { s with cores := [(0, f { CoreState.reset with cyc := 100, switched := false, current := 0 })] }
def cbLoad : CbLoad := { id := 9, ctx := 0, core := 0, bank := 3, addr := 0, count := 256, flag := 7, source := none }
/-- A result due now and one not yet, a due division, the 512th bundle, a context that has waited 1536 cycles, a load, a take. -/
theorem witness_CoreClockEvents :
    let x := { waitsFor qSmH (waitsFor qSm task0) with flights := [{ port := 0, val := val 5, due := 100 }, { port := 1, val := val 6, due := 101 }] }
    let s := withCore (fun k => { k with div := some (0, val 3, val 1, 100, 7), sinceSwitch := 512, take := some (0, 3, false) }) (base x)
    let l := { s with wk := { s.wk with cbLoads := [cbLoad] } }
    let a := { s with ctxs := [(0, x), (1, { task0 with waited := 1536 })] }
    s.ctx? 0 = some x ∧ (s.core 0).div = some (0, val 3, val 1, 100, 7) ∧ 100 ≤ (s.core 0).cyc ∧ vget x.r.pend qSm none = some 7 ∧ vget x.r.pend qSmH none = some 7 ∧
    (s.core 0).switched = false ∧ 512 ≤ (s.core 0).sinceSwitch ∧ (s.core 0).take = some (0, 3, false) ∧ a.agedDue 0 = true ∧
    l.wk.cbLoads.find? (fun e => e.id == cbLoad.id) = some cbLoad ∧ cbLoad.bank < 4 ∧ cbLoad.count ≤ 256 ∧ cbLoad.flag < 8 ∧ l.ctx? cbLoad.ctx = some x ∧
    l.storesOverTo 0 x 9 (l.physList 0 0 (8 * 256)) = true ∧
    ({ l with wk := { l.wk with cbLoads := [{ cbLoad with source := some [] }] } } : State).wk.cbLoads.find? (fun e => e.id == 9) =
      some { cbLoad with source := some [] } := by
  decide +kernel

theorem witness_StreamArithmetic : RunsStream (sbase (G 1 5 str0)) 0 (G 1 5 str0) := runs_stream _

def bracketed (x : Stream) : Stream := { x with bracket := some { id := 40, startPc := 0, frame := some 0, inputs := [], written := [] } }
/-- The last word and the first past the code, inside a bracket and outside. -/
theorem witness_StreamControl :
    RunsStream (sbase (G 1 3 str0)) 0 (G 1 3 str0) ∧ RunsStream (sbase (bracketed str0)) 0 (bracketed str0) ∧
    ((G 1 3 str0).bracket = none ∧ (bracketed str0).bracket ≠ none ∧ (G 1 3 str0).image.words.length = 4 ∧
      ((G 1 3 str0).pc + 1 + (1#32).toInt : Int) = 3 ∧ ((G 1 3 str0).pc + 1 + (2#32).toInt : Int) = 4) :=
  ⟨runs_stream _, runs_stream _, by decide +kernel⟩

/-- An operation of stream 0 that runs on die 0. -/
def op0 : Op := { newOp 30 0 0 5 1 1 (.xform 2 0) [(0x00100000, false)] none none 0 with started := true, queued := false }
def withOp (o : Op) (s : State) : State := { s with sq := { s.sq with ops := [o] } }
theorem witness_StreamOrderAndEnds :
    let x := { str0 with ctrs := vset str0.ctrs 63 1 }
    RunsStream (sbase x) 0 x ∧ RunsStream (withOp op0 (sbase x)) 0 x ∧
    (x.bracket = none ∧ vget x.ctrs 62 0 = 0 ∧ vget x.ctrs 63 0 ≠ 0 ∧ (sbase x).running 0 = [] ∧ (withOp op0 (sbase x)).running 0 ≠ [] ∧ x.raised = [] ∧ x.undo = [] ∧
      (∀ scope ∈ [3, 4, 5], (sbase x).outstandingAt 0 scope = false ∧ (withOp op0 (sbase x)).outstandingAt 0 scope = true)) ∧ WindowOpen (sbase x) :=
  ⟨runs_stream _, ⟨rfl, rfl⟩, by decide +kernel, ⟨rfl, by decide +kernel⟩⟩

/-- A tensor of 4 by 4 FP32 words in H, with the handle 0x00100000. -/
def ten : Rec :=
  { d0 := 4, d1 := 4, d2 := 1, d3 := 1, fmt := 0, linear := true, attrs := 0, intByte := 0, pad := 0, pages := 1, st := .resH, hint := 0, comp := 0,
    nextUse := none, use := none, recipe := none, gen := 1, est := 0, pin := 0, busy := 0, live := true, stored := true, toL := false }
def h0 : Word := 0x00100000
def withRecs (rs : List Rec) (s : State) : State := { s with sq := { s.sq with recs := (List.range rs.length).zip rs } }
def desc0 : Desc := { d0 := 4, d1 := 4, d2 := 1, d3 := 1, fmt := 0, linear := true, home := 0, attrs := 0, intByte := 0, pad := 0 }
def named (x : Stream) : Stream :=
  { x with t := (List.range 6).foldl (fun t i => vset t (i + 1) (h0 + BitVec.ofNat 32 i)) x.t,
           image := { x.image with descs := [desc0], uses := some [[1, 4]] } }
theorem witness_TensorLife_tdef :
    let x := named str0
    let s := sbase x
    RunsStream s 0 x ∧ (x.bracket = none ∧ x.failed = none ∧ x.image.descs[(0#32).toNat]? = some desc0 ∧ s.homeOf 0 desc0 = some 0 ∧ s.mapped 0 = true ∧
      desc0.bytes ≤ 2 ^ 45 ∧ s.freeIndex 0 (2 ^ 20) 0 < 0xfffff ∧ (s.askH 0 (ceilDiv desc0.bytes pageBytes) (.stream 0) none none).1 = none) ∧
    (∀ r i, s.rec? (0 * 2 ^ 20 + i) = some r → 1 ≤ r.gen ∧ r.gen ≤ 511) :=
  ⟨runs_stream _, by decide +kernel, fun _ _ h => nomatch h⟩
theorem witness_TensorLife_record :
    let x := named str0
    let s := withRecs [{ ten with pin := 65534 }] (sbase x)
    RunsStream s 0 x ∧ (vget x.t 1 0 = h0 ∧ handleKey h0 = 0 ∧ s.live? h0 = some { ten with pin := 65534 } ∧ s.live? (vget x.t 2 0) = none ∧
      ({ ten with pin := 65534 } : Rec).pin ≠ 0 ∧ x.image.uses = some [[1, 4]] ∧ (0#32).toNat < [[1, 4]].length ∧ isDiscard h0 = false) :=
  ⟨⟨rfl, rfl⟩, by decide +kernel⟩

theorem witness_RecipeBrackets :
    let x := bracketed { str0 with pc := 3 }
    RunsStream (sbase str0) 0 str0 ∧ RunsStream (sbase x) 0 x ∧ (str0.bracket = none ∧ freeFrame str0.frames = some 0 ∧
      x.bracket = some { id := 40, startPc := 0, frame := some 0, inputs := [], written := [] } ∧ ([] : List Word).eraseDups.length ≤ 16 ∧
      (sbase x).sq.ops = []) :=
  ⟨runs_stream _, runs_stream _, by decide +kernel⟩
def fullPool : Map RFrame := (List.range 4096).map fun k => (k, { bracket := 40, g := str0.g, t := str0.t, inputs := [], outs := [] })
theorem find_map_some {α : Type} (f : α) (k : Nat) : ∀ l : List Nat, k ∈ l → (Map.find (l.map fun i => (i, f)) k).isSome = true
  | [], h => nomatch h
  | a :: l, h => by
    simp only [List.map_cons, Map.find]
    split
    · rfl
    · next n => exact find_map_some f k l (by simpa [Ne.symm n] using h)
theorem full_pool (k : Nat) (h : k < 4096) : (fullPool.find k).isSome = true := by
  unfold fullPool; exact find_map_some _ k _ (List.mem_range.mpr h)
def withPool (p : Map RFrame) : Stream := { str0 with frames := p }
theorem pool_bracket (p : Map RFrame) (h : ∀ k, k < 4096 → (p.find k).isSome = true) :
    RunsStream (sbase (withPool p)) 0 (withPool p) ∧ (withPool p).bracket = none ∧ ∀ k, k < 4096 → ((withPool p).frames.find k).isSome = true :=
  ⟨runs_stream _, rfl, h⟩
/-- A stream whose 4096 frames are all taken. -/
theorem witness_RecipeBrackets_pool : RunsStream (sbase (withPool fullPool)) 0 (withPool fullPool) ∧ (withPool fullPool).bracket = none ∧
    ∀ k, k < 4096 → ((withPool fullPool).frames.find k).isSome = true := pool_bracket fullPool full_pool

theorem unfenced (s : State) (h : (s.cores.all fun p => !p.2.fenced) = true) (k : Nat) : (s.core k).fenced = false := by
  unfold State.core Map.get
  generalize s.cores = m at h
  induction m with
  | nil => rfl
  | cons p m ih => simp only [List.all_cons, Bool.and_eq_true, Bool.not_eq_true'] at h; simp only [Map.find]; split <;> simp_all

/-- Six tensors for the launches: token ids (BF16), gates, a permutation, counts and offsets of four experts, and a vector of one word. -/
def launchRecs : List Rec :=
  [{ ten with fmt := 1 }, ten, { ten with d0 := 2, d1 := 16 }, { ten with d0 := 5, d1 := 1 }, { ten with d0 := 5, d1 := 1 }, { ten with d0 := 1, d1 := 1 }]
def launcher : Stream :=
  G 5 (2 ^ 33 + 2 ^ 24 + 1) { named str0 with image := { (named str0).image with kernels := [([], 1)] } }
def launchState : State :=
  let s := withRecs launchRecs (present (sbase launcher))
  { s with sq := { s.sq with kernels := [kern], groups := [(0, [0])] } }
/-- A grid of one barge of one context with parameter 1 write-only, conversions and a transposition, routing, a group of one, and a packet of
four tensors. -/
theorem witness_LaunchDispatches :
    let s := launchState
    let x := launcher
    RunsStream s 0 x ∧ (x.bracket = none ∧ x.failed = none ∧ x.raised = [] ∧ s.queuedOn (0 / 16) < 64 ∧
      (Instr.opr 5 1 6 1 0 2 0 3 1).wf = true ∧ x.image.kernels[(0 : BitVec 16).toNat]? = some ([], 1) ∧ s.kernel? 1 = some kern ∧
      gGet x.g 5 = BitVec.ofNat 64 (2 ^ 33 + 2 ^ 24 + 1) ∧ (gGet x.g 5).toNat % 2 ^ 24 ≠ 0 ∧ (gGet x.g 5).toNat / 2 ^ 24 % 2 ^ 8 ≠ 0 ∧
      (gGet x.g 5).toNat / 2 ^ 32 < 2 ^ (2#4).toNat ∧ kern.resourceFault ((gGet x.g 5).toNat / 2 ^ 24 % 2 ^ 8) = none ∧ s.mapped (0#3).toNat = true ∧
      (List.range 6).map (fun i => s.live? (vget x.t (i + 1) 0)) = launchRecs.map some ∧
      xformOk 0 0 ten ten = true ∧ xformOk 1 0 ten ten = true ∧ xformOk 4 8 { ten with d0 := 32, fmt := 8 } { ten with d0 := 32 } = true ∧
      routeOk 4 (launchRecs.getD 0 ten) (launchRecs.getD 1 ten) (launchRecs.getD 2 ten) (launchRecs.getD 3 ten) (launchRecs.getD 4 ten) = true ∧
      (s.rankOf 0 0).isSome = true ∧ (launchRecs.getD 5 ten).linear = true ∧ (launchRecs.getD 5 ten).width = 32 ∧
      (launchRecs.getD 5 ten).elems = (s.group 0).length ∧ collShape 0 (s.group 0).length ten ten = true ∧ collShape 1 1 ten ten = true ∧
      collShape 2 1 ten ten = true ∧ (28#5).toNat + (3#2).toNat + 1 ≤ 32 ∧ s.hs.guest.st = .present) ∧
    (∀ h ∈ [h0, h0 + 1, h0 + 2, h0 + 3, h0 + 4, h0 + 5], ParamReady s (h, false)) ∧ ParamReady s (0x000fffff, true) := by
  refine ⟨⟨rfl, rfl⟩, by decide +kernel, ?_, .inl (by decide +kernel)⟩
  intro h hh
  simp only [List.mem_cons, List.not_mem_nil, or_false] at hh
  rcases hh with rfl | rfl | rfl | rfl | rfl | rfl
  · exact .inr ⟨rfl, launchRecs.getD 0 ten, rfl, .inl rfl⟩
  · exact .inr ⟨rfl, launchRecs.getD 1 ten, rfl, .inl rfl⟩
  · exact .inr ⟨rfl, launchRecs.getD 2 ten, rfl, .inl rfl⟩
  · exact .inr ⟨rfl, launchRecs.getD 3 ten, rfl, .inl rfl⟩
  · exact .inr ⟨rfl, launchRecs.getD 4 ten, rfl, .inl rfl⟩
  · exact .inr ⟨rfl, launchRecs.getD 5 ten, rfl, .inl rfl⟩

def recipe0 : Recipe := { sid := 0, start := 0, len := 3, frame := 0, bracket := 40 }
def frame0 : RFrame := { bracket := 40, g := str0.g, t := str0.t, inputs := [], outs := [] }
/-- The same stream inside a bracket, and one whose first parameter is in DROP with a valid recipe. -/
theorem witness_LaunchDispatches_bracket :
    let x := bracketed { launcher with frames := [(0, frame0)] }
    let s := withRecs launchRecs (sbase x)
    let y := { launcher with frames := [(0, frame0)] }
    let d := { ten with st := .drop, stored := false, recipe := some recipe0 }
    let u := withRecs [d, ten] (sbase y)
    RunsStream s 0 x ∧ RunsStream u 0 y ∧ (x.bracket ≠ none ∧ x.bracket.bind (·.frame) = some 0 ∧ x.failed = none ∧ x.raised = [] ∧ s.queuedOn 0 < 64 ∧
      (s.rec? 0).isSome = true ∧ isDiscard h0 = false ∧
      [(h0, false), (h0 + 1, true)].all u.paramOk = true ∧ [0, 1].all (fun k => !u.onTheMove k) = true ∧ y.bound = none ∧
      (keysOf [(h0, false)]).find? (fun k => u.stateOf k == .drop) = some 0 ∧ u.rec? 0 = some d ∧ u.validRecipe d = true ∧ 1 ≤ (u.die 0).depth) :=
  ⟨⟨rfl, rfl⟩, ⟨rfl, rfl⟩, by decide +kernel⟩

/-- A launch of two barges of three tasks, of which none has been placed. -/
def opr2 : Op := { newOp 1 0 0 0 0 1 (.opr 1 2 3 0 0 [11, 12]) [] none none 0 with started := true, launchBy := none }
theorem witness_PlacementStartsTasks :
    let s := { sbase str0 with sq := { (sbase str0).sq with ops := [opr2], kernels := [{ kern with params := 2 }] } }
    s.stackOfDie 0 = some 0 ∧ s.placeList 0 = opr2 :: [] ∧ s.kernel? opr2.image = some { kern with params := 2 } ∧
    s.bestCluster 0 kern.contexts opr2.tasks = some 0 ∧ s.resumeFirst 0 (s.prioOf opr2.sid) = false ∧ s.moving 0 = false := by decide +kernel

def barge0 : Barge :=
  { id := 2, op := 1, g := 0, die := 0, cluster := 0, prio := 0, st := .placed, ctxs := [0], seq := 2, save := none, books := [], ringPos := [], since := 0, saveBy := none }
def withBarge (b : Barge) (s : State) : State := { s with sq := { s.sq with barges := [b] } }
def saveReq : AllocReq := { id := 20, die := 0, pages := 2, who := .save 2, tensor := none, minDist := none, granted := true, spills := [] }
def saveArea : Save :=
  { ctxs := [(0, task0)], bytes := [], full := [], marks := [], rows := [], ls := [], tiles := [], fpr := [], mx := [], rw := [], gv := [], pubs := [],
    pushes := [], pages := 2, refused := false }
def withStream (x : Stream) (s : State) : State := s.putSlot 0 x
/-- A barge to be stopped with its save area granted, one whose save is settled, one suspended, and one whose task has halted. -/
theorem witness_BargeLifeCycle :
    let s0 := base task0
    let s1 := withStream { str0 with susp := true } { s0 with sq := { s0.sq with allocs := [saveReq] } }
    let s2 := withBarge { barge0 with st := .saving } s1
    let s3 := { withBarge { barge0 with st := .suspended, save := some saveArea } s0 with ctxs := [] }
    let s4 := base { task0 with halted := true }
    (s1.barge? 2 = some barge0 ∧ s1.kernel? (((s1.op? 1).map Op.image).getD 0) = some kern ∧ s1.toPreempt barge0 = true ∧
      s1.allocOf (.save 2) none = some saveReq ∧ saveReq.pages = s1.savePages barge0 kern) ∧
    (s2.barge? 2 = some { barge0 with st := .saving } ∧ s2.allocOf (.save 2) none = some saveReq ∧ s2.allMarked barge0 = true ∧
      (barge0.ctxs.foldl State.startTiles s2).allMarked barge0 = true ∧
      barge0.ctxs.all (barge0.ctxs.foldl State.startTiles s2).ctxSettled = true ∧ (barge0.ctxs.foldl State.startTiles s2).crossDie 0 0 = false) ∧
    (s3.barge? 2 = some { barge0 with st := .suspended, save := some saveArea } ∧ s3.suspended (s3.bargeSid barge0) = false ∧ s3.moving 0 = false ∧
      s3.stackOfDie 0 = some 0 ∧ (∀ c ∈ barge0.ctxs, s3.ctx? (c + 0 * 1152 - 0 * 1152) = none) ∧ s3.pkg.fencedClusters.contains (clusterKey 0 0) = false ∧
      (∀ c ∈ barge0.ctxs, (s3.core (coreOf c + 0 * 288 - 0 * 288)).fenced = false) ∧ (∀ e ∈ saveArea.ctxs, e.1 < barge0.ctxs.length ∧ e.2.later = []) ∧
      s3.rowsFree (coreKey 0 0 0) saveArea = true ∧ s3.launchFirst 0 0 = false ∧ (saveArea.ctxs.map fun e => barge0.ctxs.getD e.1 0 + 0 * 1152 - 0 * 1152).Nodup) ∧
    (s4.barge? 2 = some barge0 ∧ s4.moving (s4.bargeSid barge0 / 16) = false ∧ ∀ c ∈ barge0.ctxs, s4.ctxQuiet c = true ∧
      s4.ctx? c = some { task0 with halted := true }) ∧ (s4.settleStores barge0).ms.held.any (fun h => h.barge == 2) = false := by
  and_intros <;> decide +kernel

def okPacket (n : Nat) : GuestPacket := 
  { seq := 9, status := BitVec.ofNat 16 n, opcode := 0x120, count0 := 0, count1 := 0, count2 := 0, count3 := 0, value := 0 }
def gopCmd (n : Nat) : GuestCmd :=
  { id := 41, src := 30, isStream := true, core := 0, addr := 0, bno := 0, pkt := [], comp := 0, flag := 0, seq := some 9, ingress := true,
    accepted := true, checkpointed := false, done := some (okPacket n) }
/-- Operations not started and started, a decrement of a counter that is 1 and of one that is 0, a packet with status 0 and one with another, a
record that waits, and barges whose save areas were refused before and after the last release. -/
theorem witness_EngineOperationsAndPosting :
    let o := { op0 with started := false, queued := true }
    let g := { o with kind := .gop 0x120 }
    let s := { sbase str0 with sq := { (sbase str0).sq with retryList := [(2, true), (3, false)] },
                               hs := { (sbase str0).hs with cwWait := [([1, 2], .nothing)], cwProd := 4095, cwCons := 0 } }
    (withOp o s).op? 30 = some o ∧ o.started = false ∧ o.done = false ∧ (withOp g s).op? 30 = some g ∧ (withOp op0 s).op? 30 = some op0 ∧
    op0.kind = .xform 2 0 ∧ s.moving (op0.sid / 16) = false ∧ (withOp op0 s).opRetried op0 = false ∧ s.hs.cwWait = ([1, 2], .nothing) :: [] ∧
    (s.hs.cwProd - s.hs.cwCons).toNat ≠ 4096 ∧ s.barge? 2 = none ∧ s.barge? 3 = none := by decide +kernel
def counted (n : Nat) : Stream := { str0 with ctrs := vset str0.ctrs 63 n }
def decState (n : Nat) : State := { sbase (counted n) with sq := { (sbase (counted n)).sq with decs := [(0, 63, 2)] } }
theorem witness_EngineOperationsAndPosting_decrement :
    (∀ n, (decState n).sq.decs = [(0, 63, 2)] ∧ (decState n).mapped 0 = true ∧ (decState n).stream? 0 = some (counted n) ∧ WindowOpen (decState n)) ∧
    vget (counted 0).ctrs 63 0 = 0 ∧ vget (counted 1).ctrs 63 0 ≠ 0 :=
  have h : (State.reset.hs.cwProd - State.reset.hs.cwCons).toNat ≠ 4096 := by decide +kernel
  ⟨fun _ => ⟨rfl, rfl, rfl, rfl, h⟩, by decide +kernel, by decide +kernel⟩
theorem witness_EngineOperationsAndPosting_gop :
    ∀ n ∈ [0, 5],
      let g := { op0 with kind := .gop 0x120 }
      let u := withOp g (sbase str0)
      let v := { u with wk := { u.wk with guestCmds := [gopCmd n] } }
      v.op? 30 = some g ∧ v.moving 0 = false ∧ v.opRetried g = false ∧ g.started = true ∧ g.done = false ∧
      v.wk.guestCmds.find? (fun q => q.isStream && q.src == 30) = some (gopCmd n) ∧ (gopCmd n).done = some (okPacket n) ∧ v.hs.cwWait = [] := by
  decide +kernel

def engineOp (k : OpKind) (ps : List (Word × Bool)) : Op := { newOp 30 0 0 5 1 1 k ps none none 0 with started := true, queued := false }
def engineState (o : Op) (rs : List Rec) : State := withRecs rs (withOp o { sbase str0 with nextId := 60 })
/-- A conversion, a transposition and a requantisation, a routing, collectives of the kinds of coll and an a2av, and elements that wait to be stored. -/
theorem witness_TransferResults :
    (∀ q ∈ [(0, 0, ten, ten), (1, 0, ten, ten), (4, 8, { ten with d0 := 32 }, { ten with d0 := 32, fmt := 8 })],
      let o := engineOp (.xform q.1 q.2.1) [(h0, false), (h0 + 1, true)]
      let s := engineState o [q.2.2.1, q.2.2.2]
      s.op? 30 = some o ∧ s.engineFree o = true ∧ (∀ w ∈ s.sq.ops, w.old = []) ∧ (s.sq.ops.map (·.id)).Nodup ∧ o.out = none ∧ isDiscard (h0 + 1) = false ∧
      s.rec? 0 = some q.2.2.1 ∧ s.rec? 1 = some q.2.2.2 ∧ xformOk q.1 q.2.1 q.2.2.2 q.2.2.1 = true) ∧
    (let o := engineOp (.route 4) [(h0, false), (h0 + 1, false), (h0 + 2, true), (h0 + 3, true), (h0 + 4, true)]
     let s := engineState o launchRecs
     s.op? 30 = some o ∧ s.engineFree o = true ∧ (List.range 5).map s.rec? = (launchRecs.take 5).map some ∧
      routeOk 4 (launchRecs.getD 0 ten) (launchRecs.getD 1 ten) (launchRecs.getD 2 ten) (launchRecs.getD 3 ten) (launchRecs.getD 4 ten) = true) := by
  and_intros <;> decide +kernel
def onTwoDies (o : Op) (rs : List Rec) : State :=
  let u := engineState o rs
  { u with sq := { u.sq with ops := [o, { o with id := 31, sid := 16, die := 1 }], groups := [(5, [0, 1])] } }
theorem witness_TransferResults_coll :
    ∀ q ∈ [(OpKind.coll 0 5 0, ten, ten), (.coll 1 5 0, ten, { ten with d1 := 8 }), (.coll 2 5 0, { ten with d1 := 8 }, ten)],
      let o := engineOp q.1 [(h0, false), (h0 + 1, true)]
      let w := { o with id := 31, sid := 16, die := 1 }
      let s := onTwoDies o [q.2.1, q.2.2]
      let ps : List Part := [{ rank := 0, op := some o }, { rank := 1, op := some w }]
      s.op? 30 = some o ∧ s.op? 31 = some w ∧ s.engineFree o = true ∧ (s.sq.ops.map (·.id)).Nodup ∧ o.collective = some (5, 0) ∧
      s.localParts 5 0 (s.localRanks 5) = some ps ∧ s.peerRanks 5 = [] ∧ s.collAgrees o ps = true ∧ o.msgs = [] ∧
      collShape o.collKind (s.group 5).length q.2.1 q.2.2 = true := by decide +kernel
theorem witness_TransferResults_a2av :
    let o := engineOp (.a2av 5 0) [(h0, false), (h0 + 1, false), (h0 + 2, true)]
    let u := engineState o [ten, { ten with d0 := 1, d1 := 1 }, ten]
    let s := { u with sq := { u.sq with groups := [(5, [0])] } }
    let ps : List Part := [{ rank := 0, op := some o }]
    s.op? 30 = some o ∧ s.engineFree o = true ∧ s.localParts 5 0 (s.localRanks 5) = some ps ∧ s.collAgrees o ps = true ∧ s.a2avFail 1 [[(0, false)]] 0 o = none := by
  and_intros <;> decide +kernel
def waiting : List TElem := [{ row := 0, col := 1, bits := 5, scale := 127, bad := false }]
def landing : Op := { engineOp (.xform 0 0) [(h0, false), (h0 + 1, true)] with out := some (waiting.map fun e => (1, e)) }
theorem witness_TransferResults_landing :
    let s := engineState landing [ten, ten]
    let cells := (elemCells 1 ten (fun _ => 0) waiting).1
    s.op? 30 = some landing ∧ s.engineFree landing = true ∧ s.rec? 1 = some ten ∧ ten.msa = false ∧ cells.map Prod.fst = (List.range 4).map (storeAddr 1 4 + ·) ∧
    (cells.all fun c => storeTensor c.1 == 1) = true ∧ keysOf landing.params = [0, 1] ∧ ((s.rec? 0).map fun r => (r.live, r.st)) = some (true, .resH) ∧
    s.ms.l2 = [] ∧ s.ms.replicas = [] ∧ ((cells.map Prod.fst).map lineOf).eraseDups.length ≤ 16 := by decide +kernel

def ask (n : Nat) (who : Asker) (t : Option Nat) : AllocReq :=
  { id := 21, die := 0, pages := n, who := who, tensor := t, minDist := none, granted := false, spills := [] }
def withAsk (q : AllocReq) (s : State) : State := { s with sq := { s.sq with allocs := [q] } }
/-- A request that H covers and one that nothing covers, copies to L and to H, a granted fetch, a reserve of four pages, and the last legal and
the first illegal field of CST_NEARW. -/
theorem witness_ResidencyAndVictims :
    let s := sbase str0
    let m := withRecs [{ ten with st := .moving, toL := true }, { ten with st := .moving }, { ten with st := .spillL }, ten, { ten with pin := 1 }, { ten with pages := 2 }] s
    ((withAsk (ask 1 (.stream 0) none) s).sq.allocs.find? (fun e => e.die == 0 && !e.granted) = some (ask 1 (.stream 0) none) ∧
      1 ≤ (withAsk (ask 1 (.stream 0) none) s).availH 0 ∧
      (let u := withAsk (ask (2 ^ 21 + 1) (.stream 0) none) s
       u.availH 0 + u.inFlight [] < 2 ^ 21 + 1 ∧ u.victimOrder 0 none = [] ∧ u.stream? 0 = some str0)) ∧
    (m.rec? 0 = some { ten with st := .moving, toL := true } ∧ m.tensorBusy 0 = false ∧ m.rec? 1 = some { ten with st := .moving } ∧ m.tensorBusy 1 = false ∧ m.updateFree = true) ∧
    (let u := withAsk { ask 1 (.fetch 2) (some 2) with granted := true } m
     u.rec? 2 = some { ten with st := .spillL } ∧ u.allocOf (.fetch 2) (some 2) = some { ask 1 (.fetch 2) (some 2) with granted := true }) ∧
    (let e : State := { s with ms := { s.ms with reserve := [] } }
     s.lackingReserve 0 = [] ∧ (e.lackingReserve 0).length = 4 ∧ (e.lackingReserve 0).headD 9 = 0 ∧ e.mapped 0 = true ∧
      (e.askH 0 1 .reserve (some (0 * 16 + 0)) none).1 = none ∧ (e.takeFrame 0 3).isSome = true) ∧
    (let d := (after (exec (.tdef 1 0) (sbase (named str0)))).modRec 0 fun r => { r with use := some { sid := 0, list := 0, pos := 2 }, nextUse := none }
     let q := ask (s.availH 0) (.stream 0) none
     let u := withAsk q d
     u.sq.allocs.find? (fun e => e.die == 0 && !e.granted) = some q ∧ u.availH 0 < q.pages ∧ u.victimOrder 0 none = [0] ∧
      ((u.rec? 0).map fun r => (r.st, u.distance r)) = some (.resH, none) ∧ q.pages ≤ (u.dropTensor 0).availH 0) ∧
    ((8#32).toNat % 16 ≤ 8 ∧ 8 < (9#32).toNat % 16) ∧ (m.victimOrder 0 none).length = 2 := by and_intros <;> decide +kernel

def run0 : ReplayRun :=
  { id := 60, tensor := 0, depth := 4, bound := 4, parent := none, ctx := none, started := false, sid := 0, start := 0, stop := 0, at_ := 0,
    g := Vector.replicate 32 0, t := Vector.replicate 32 0, bound_ := [], raised := [], outs := [], word := none, nextIn := 0, ready := false, tick := none }
def atWordOne (w : DWord) : Stream := { str0 with image := { str0.image with words := [0, w, 0, 0] } }
def replayState (rs : List Rec) (y : Stream) (r : ReplayRun) : State :=
  let s := withRecs rs (sbase y)
  { s with sq := { s.sq with replays := [r] }, nextId := 70 }
/-- A dropped tensor with a valid recipe at the depth bound, one that is too deep and one whose recipe is gone, with a stream that waits for it,
and a replay past its last word. -/
theorem witness_ReplaySteps :
    let y := { str0 with frames := [(0, frame0)] }
    let d := { ten with st := .drop, stored := false, recipe := some recipe0 }
    let s1 := replayState [d] y run0
    let r2 := { run0 with started := true, start := 0, stop := 2, at_ := 2, bound_ := [0] }
    let s2 := replayState [{ ten with st := .rebuild }] y r2
    let deep := { run0 with depth := 5 }
    let z := { str0 with st := .blocked, wait := .replay 60 }
    (s1.replay? 60 = some run0 ∧ run0.id = 60 ∧ 60 < s1.nextId ∧ s1.mayStart run0 = true ∧ run0.depth ≤ run0.bound ∧ s1.rec? 0 = some d ∧
      s1.recipeValid recipe0 = true ∧ s1.stream? 0 = some y ∧ y.frames.find 0 = some frame0) ∧
    ((replayState [d] z deep).mayStart deep = true ∧ deep.bound < deep.depth ∧ (replayState [d] z deep).stream? 0 = some z ∧
      deep.parent = none ∧ deep.ctx = none ∧ deep.raised = [] ∧ deep.bound_ = [] ∧
      (replayState [d] z run0).mayStart run0 = true ∧ (replayState [d] z run0).rec? 0 = some d ∧ (replayState [d] z run0).recipeValid recipe0 = false) ∧
    (s2.replay? 60 = some r2 ∧ r2.started = true ∧ r2.stop ≤ r2.at_ ∧ s2.sq.ops = [] ∧ s2.rec? 0 = some { ten with st := .rebuild }) := by decide +kernel
/-- A replay at a word of arithmetic, at a nop and at an xform whose inputs are ready. -/
theorem witness_ReplaySteps_words :
    let r := { run0 with started := true, stop := 3, at_ := 1, bound_ := [0], word := some [(h0, true)] }
    (∀ w ∈ [0x0222800000000007#64, 0x5200000000000000#64, 0x3100000000000000#64],
      let s := replayState [ten] (atWordOne w) r
      s.replay? 60 = some r ∧ r.at_ < r.stop ∧ (∀ t ∈ r.bound_, ∀ q, s.rec? t = some q → q.stored = true) ∧ s.stream? 0 = some (atWordOne w) ∧
      (atWordOne w).image.words[r.at_]? = some w ∧ (s.sq.replays.map (·.id)).Nodup ∧ s.queuedOn (r.tensor / 2 ^ 20) < 64) := by
  intro r w hw
  refine ⟨rfl, by decide, ?_, rfl, rfl, by simp [replayState], Nat.zero_lt_succ _⟩
  intro t ht q hq
  have : t = 0 := by simpa [r] using ht
  subst this; cases hq; rfl
theorem witness_ReplaySteps_decode :
    decodeStream 0x0222800000000007#64 = .ok (.addi 4 10 7) ∧ decodeStream 0x5200000000000000#64 = .ok .nop ∧
    decodeStream 0x3100000000000000#64 = .ok (.xform 0 0 0 0 0) := ⟨by rfl, by rfl, by rfl⟩

theorem witness_GlobalTriggers : Runs (runAt 1 (port oGvO 0x100000 task0)) (trg 1) (port oGvO 0x100000 task0) ∧
    Runs (runAt 2 (port oGvO 0x100000 task0)) (trg 2) (port oGvO 0x100000 task0) ∧ (trg 1).y.scalar.toNat % 2 = 1 ∧ (trg 2).y.scalar.toNat % 2 ≠ 1 :=
  ⟨runs_at _ _, runs_at _ _, by decide +kernel⟩

def gvOp (code n v : Nat) : GvOp :=
  { id := 7, ctx := 0, code := code, handle := h0, idx := 14, o2 := val n, o3 := val v, bno := 1, slot := 3, todo := [], listed := true, sent := none }
def gvState (o : GvOp) : State :=
  let s := withRecs [{ ten with attrs := 1 }] (base (waitsFor qGvV (waitsFor qGv task0)))
  { s with wk := { s.wk with gv := [o] }, nextId := 50 }
theorem wayFree_empty (s : State) (a : Nat) (h : s.ms.l2 = []) (k : s.ms.replicas = []) : WayFree s a :=
  .inr fun _ _ => by simp [State.linesIn, State.replicasIn, h, k]
theorem linesFit_empty (s : State) (as : List Nat) (h : s.ms.l2 = []) (k : s.ms.replicas = []) (n : (as.map lineOf).eraseDups.length ≤ 16) :
    LinesFit s as := fun _ _ => .inr fun _ _ => by simpa [State.linesIn, State.replicasIn, h, k] using n
theorem witness_GlobalAccessResults_way (code n v a : Nat) : WayFree (gvState (gvOp code n v)) a := wayFree_empty _ _ rfl rfl
/-- Each operation on the last pair of words of a tensor; the version of its line is 0, so that the compare with 0 stores and with 1 does not. -/
theorem witness_GlobalAccessResults :
    (∀ code ∈ [0, 1, 4, 5, 6, 7, 8, 9, 10, 11, 12, 13, 14, 15, 16], ∀ v ∈ [0, 1],
      let o := gvOp code 5 v
      let s := gvState o
      let x := waitsFor qGvV (waitsFor qGv task0)
      let r := { ten with attrs := 1 }
      s.wk.gv.find? (fun e => e.id == 7) = some o ∧ s.ctx? o.ctx = some x ∧ s.gvMay x o = true ∧ x.gate = [] ∧ s.ms.held = [] ∧ s.live? o.handle = some r ∧
      r.width = 32 ∧ r.linear = true ∧ r.msa = false ∧ (o.idx + 2) * 4 ≤ 2 ^ 45 ∧ o.idx + 2 ≤ r.elems ∧ vget x.r.pend qGv none = some 7 ∧
      vget x.r.pend qGvV none = some 7 ∧ x.r.vlist.length < 8 ∧
      s.ms.versions.get (lineOf (storeAddr (handleKey o.handle) (4 * o.idx))) 0 = 0) := by decide +kernel
/-- The same with a validate set that is full. -/
theorem witness_GlobalAccessResults_full :
    let x := regs (fun r => { r with vlist := List.replicate 8 (h0, 0, 0) }) (waitsFor qGv task0)
    let s := { gvState (gvOp 5 5 0) with ctxs := [(0, x)] }
    s.ctx? 0 = some x ∧ s.gvMay x (gvOp 5 5 0) = true ∧ 8 ≤ x.r.vlist.length ∧ vget x.r.pend qGv none = some 7 := by decide +kernel

def heldStore : Held :=
  { id := 31, die := 0, ctx := 0, barge := 2, bytes := [(0, 0xab), (1, 0xcd)], poi := [], ver := false, visible := false, deadline := some 100, sent := none }
def gateStore : GStore :=
  { isGlobal := false, dst := 0, cells := [(0x40, 0xcd), (0x41, 0xab)], poi := [], opId := 5, bno := 1, slot := 3, handle := 0, walked := false,
    released := true, sent := none }
/-- A released store, a held store, a publication at package scope, a near line, and a line of H whose page the tables of its home map. -/
theorem witness_CollectorAndWriteBack :
    let x := { task0 with gate := [gateStore] }
    let s := withRecs [ten] (base x)
    let h := { s with ms := { s.ms with held := [heldStore] } }
    let p : PubOp := { id := 7, ctx := 0, code := 3, scope := 4, before := 7 }
    let q := base (waitsFor qBn task0)
    let q1 := { q with wk := { q.wk with pubs := [p] } }
    let m := (withRecs [{ ten with stored := false }] (base task0)).allocStorage 0
    (s.ctx? 0 = some x ∧ s.mayDrain 0 x gateStore = true ∧ (∀ c ∈ gateStore.cells, (s.core (coreOfPhys c.1)).fenced = false) ∧
      (gateStore.cells.map Prod.fst).Nodup) ∧
    (h.ms.held.find? (fun e => e.id == 31) = some heldStore ∧ h.mayLeave heldStore = true ∧
      h.heldMay heldStore = true ∧ (heldStore.bytes.map Prod.fst).Nodup ∧ h.isMsa 0 = false ∧
      (∀ p ∈ heldStore.bytes, lineOf p.1 = 0) ∧ WayFree h 0) ∧
    (let l := { h with ms := { h.ms with l2 := (after (exec (.collectorDrain 31) h)).ms.l2 } }
     l.pkg.deadLinks = [] ∧ l.ms.retries = [] ∧ l.wk.gv = [] ∧ (∀ h ∈ l.ms.held, h.sent = none) ∧ (∀ e ∈ l.ctxs, ∀ g ∈ e.2.gate, g.sent = none) ∧
     (∀ h ∈ l.ms.held, ∀ p ∈ h.bytes, (l.ms.l2.find (lineOf p.1)).isSome = true) ∧ (l.ms.held.map (·.id)) = [31]) ∧
    (q1.wk.pubs.find? (fun e => e.id == 7) = some p ∧ q1.ctx? 0 = some (waitsFor qBn task0) ∧ q1.pubReady (waitsFor qBn task0) p = true ∧
      vget (waitsFor qBn task0).r.pend qBn none = some 7) ∧
    ((withRecs [{ ten with st := .near }] s).rec? (storeTensor (0 * 256)) = some { ten with st := .near }) ∧
    ((m.rec? (storeTensor (0 * 256))).map (·.st) = some .resH ∧
      (m.homeLeaf? (storeTensor (0 * 256)) (storeOff (0 * 256))).map (fun e => pteC e.1) = some false) := by
  and_intros <;> first | decide +kernel | exact wayFree_empty _ _ rfl rfl
def packedState (data : Nat) (reserve : Bool) : State :=
  let m := (withRecs [{ ten with stored := false, st := .compH }] (base task0)).allocStorage 0
  let c := m.setLeaf 0 0 (((m.pageLeaf? 0 0).getD 0) ||| 0x40#64)
  { c with ms := { c.ms with l2 := [(0, { mask := 1, data := BitVec.ofNat 2048 data, present := 1, set := c.setIn 0 0 })],
                             packs := [(0, [some (c.ownFrame? 0 0 |>.getD 0)])], reserve := if reserve then c.ms.reserve else [] } }
/-- A block of raw granules in empty memory holds zeros under the line's own bytes. -/
theorem mergedBlock_fresh (s : State) (line : Nat) (l : Line) (h : s.ms.tags = []) (b : s.ms.badTags = []) (m : s.mem = []) :
    s.mergedBlock line l = (List.range 32).map fun i => (List.range 128).map fun j =>
      if lineOf (line * 256 / 4096 * 4096 + 128 * i + j) = line ∧ l.mask.getLsbD ((line * 256 / 4096 * 4096 + 128 * i + j) % 256) then
        l.data.extractLsb' (8 * ((line * 256 / 4096 * 4096 + 128 * i + j) % 256)) 8
      else (List.replicate 128 (0 : Byte)).getD j 0 := by
  have g : ∀ a, (s.storedGranule a).1 = List.replicate 128 0 := fun a => by
    have z : ∀ k, s.byte k = 0 := fun k => by simp only [State.byte, m]; rfl
    simp only [State.storedGranule, State.heldTag, State.tag, h, b, z]; rfl
  simp only [State.mergedBlock, g]
def packedLine (data : Nat) : Line := { mask := 1, data := BitVec.ofNat 2048 data, present := 1, set := 0 }
theorem packedLine_sizes : ∀ q ∈ [(0, 0), (1, 24)], (((List.range 32).map fun i => (List.range 128).map fun j =>
      if lineOf (128 * i + j) = 0 ∧ (packedLine q.1).mask.getLsbD ((128 * i + j) % 256) then
        (packedLine q.1).data.extractLsb' (8 * ((128 * i + j) % 256)) 8
      else (List.replicate 128 (0 : Byte)).getD j 0).flatMap fun g => granuleBytes (granuleTag g) g).length = q.2 := by decide +kernel
/-- A dirty line of a compressed page: a block that fits where it is, one that needs an overflow slot, and one that finds none. -/
theorem witness_CollectorAndWriteBack_packed :
    (∀ q ∈ [(0, true), (1, true), (1, false)],
      let s := packedState q.1 q.2
      (s.rec? (storeTensor (0 * 256))).map (·.st) = some .compH ∧
      (s.homeLeaf? (storeTensor (0 * 256)) (storeOff (0 * 256))).map (fun e => pteC e.1) = some true ∧ (s.ms.l2.find 0).map (fun l => l.mask != 0) = some true) ∧
    (∀ q ∈ [(0, true), (1, true), (1, false)], (packedState q.1 q.2).ms.tags = [] ∧ (packedState q.1 q.2).ms.badTags = [] ∧ (packedState q.1 q.2).mem = [] ∧
      (packedState q.1 q.2).ms.allots.get (blockKey 0) 0 = 0) ∧
    (packedState 1 true).freeSlot 0 = some 0 ∧ (packedState 1 false).freeSlot 0 = none := by decide +kernel

theorem witness_TablesAndHarvests :
    let s := withRecs [ten] (base task0)
    let u : TabUpdate := { tensor := 0, pages := [(0, 5)], last := true, stack := 0 }
    let b := { s with ms := { s.ms with broken := [(0, 3)] } }
    let q := { s with hs := { s.hs with tuQueue := [u] } }
    let e := { s with hs := { s.hs with tuQueue := [{ u with pages := [] }] } }
    let h := { s with pkg := { s.pkg with harvest := true, ioTick := 200000 } }
    b.ms.broken ≠ [] ∧ (q.ms.broken = [] ∧ q.hs.tuQueue = u :: [] ∧ u.pages ≠ [] ∧ q.hs.guest.shoots = [] ∧ q.rec? 0 = some ten ∧ ten.stored = true ∧
      (u.pages.map Prod.fst).Nodup ∧ (∀ e ∈ u.pages, e.1 < 2 ^ 29)) ∧ (e.hs.guest.shoots = [] ∧ u.last = true) ∧
    (h.pkg.harvest = true ∧ h.pkg.harvestDue ≤ h.pkg.ioTick) := by decide +kernel

/-- A segment that is held and has no access under way, with a page in a hot channel. -/
def heldPage : State :=
  let m := (withRecs [{ ten with stored := false }] (base task0)).allocStorage 0
  { m with ms := { m.ms with heldSegs := [(0, 0)], hot := [(0, 0)] },
           sq := { m.sq with dies := vset m.sq.dies 0 { m.die 0 with heat := 0x200 } } }
/-- A held segment that may go, its hot page, a notification, a retried request whose hint is over, one that waits behind it, and a request that
has waited 10 000 ticks. -/
theorem witness_MemorySystemEvents :
    let o := { gvOp 0 5 0 with sent := some 0 }
    let s := gvState o
    let m := { s with ms := { s.ms with heldSegs := [(0, 0)], notes := [(0, 77)], refreshing := [3], retries := [] },
                      pkg := { s.pkg with dieTicks := vset s.pkg.dieTicks 0 10000 } }
    let r : Retry := { id := 7, sector := (s.gvAddrs o).headD 0 / 64, due := 10000, again := false }
    let m2 := { m with ms := { m.ms with retries := [r] } }
    let q := { o with id := 8 }
    let m3 := { m2 with wk := { m2.wk with gv := [o, q] } }
    (let f := { m with wk := Work.reset }
     f.rec? 0 = some { ten with attrs := 1 } ∧ (0, 0) ∈ f.ms.heldSegs ∧ ten.st ≠ .moving ∧ f.segBusy 0 0 = false ∧ f.updateFree = true ∧
      f.hs.tuBusy = false) ∧
    m.ms.notes.find? (fun e => e.1 == 0) = some (0, 77) ∧ (m.sentAddrs 7 ≠ [] ∧ m.ms.refreshing ≠ [] ∧ m.retrying = []) ∧
    (m2.retrying = [r] ∧ r.due ≤ m2.dieTick (storeTensor (r.sector * 64) / 2 ^ 20)) ∧
    (m3.wk.gv.find? (fun e => e.id == 8) = some q ∧ m3.retrying = [r] ∧ r.id ≠ 8 ∧ (m3.gvAddrs q).any (fun y => y / 64 == r.sector) = true) ∧
    (m.wk.gv.find? (fun e => e.id == 7) = some o ∧ o.sent = some 0 ∧ 0 + 10000 ≤ m.dieTick (m.dieOf o.ctx) ∧
      m.ctx? o.ctx = some (waitsFor qGvV (waitsFor qGv task0))) := by
  decide +kernel
theorem witness_MemorySystemEvents_hot :
    let s := heldPage
    (s.rec? 0).map (fun r => (r.pages, r.st)) = some (1, .resH) ∧ (0, 0) ∈ s.ms.heldSegs ∧ s.segBusy 0 0 = false ∧ s.updateFree = true ∧ s.hs.tuBusy = false ∧
    s.pkg.fencedChannels = [] ∧ (s.ownLeaf? 0 0).isSome = true ∧
    ((s.rec? 0).map fun r => (s.placesWhere 0 r (s.hotAddr 0)).filter fun p => r.placePage p / 32 == 0 && s.ms.hot.contains (0, p)) = some [0] ∧
    ((s.nextFrame 0 0).map fun f => decide (f / 2 ^ 20 < 16)) = some true := by decide +kernel

/-- The last legal vector of the last core, the first that leaves it, a misaligned one, the first core past the cluster, granule counts of 0, 1,
8192 and 8193, and phases 15 and 16. -/
theorem witness_ScratchTriggers :
    (∀ y ∈ [47 * 2 ^ 22 + (2 ^ 22 - 256), 47 * 2 ^ 22 + (2 ^ 22 - 224), 2, 48 * 2 ^ 22], ∀ n ∈ [0, 1, 8192, 8193], ∀ ph ∈ [15, 16],
      Runs (runAt y (port oLsO n (port oLsO2 ph task0))) (trg y) (port oLsO n (port oLsO2 ph task0))) ∧
    ((trg (47 * 2 ^ 22 + (2 ^ 22 - 256))).y.scalar.toNat / 2 ^ 22 ≤ 47 ∧ (trg (47 * 2 ^ 22 + (2 ^ 22 - 256))).y.scalar.toNat % 2 ^ 22 + 256 ≤ 2 ^ 22 ∧
      ¬ (trg (47 * 2 ^ 22 + (2 ^ 22 - 224))).y.scalar.toNat % 2 ^ 22 + 256 ≤ 2 ^ 22 ∧ ¬ (trg 2).y.scalar.toNat % 4 = 0 ∧
      ¬ (trg (48 * 2 ^ 22)).y.scalar.toNat / 2 ^ 22 ≤ 47) :=
  ⟨fun _ _ _ _ _ _ => runs_at _ _, by decide +kernel⟩

/-- Every code on the first word of the core itself, three cycles on: with full granules for those that wait for full, empty for the others; those
that give no result wait for no port. -/
theorem witness_ScratchResultsAndFullEmpty :
    (∀ code ∈ [0, 1, 2, 3, 4, 5, 10, 11, 12, 13, 14, 15, 16, 17, 18, 19, 20, 21, 22, 23, 24],
      let o := { lsOp code 0 2 with cyc := 97, pos := if code = 18 then 1 else 0 }
      let x := if [12, 13, 16, 17, 18].contains code then task0 else waitsFor qLs task0
      let s := { lsState o [1, 2, 3, 0xff] x with fbits := if [10, 11, 14, 15].contains code then (List.range 8).map (fun i => (i, true)) else [] }
      s.wk.ls.find? (fun e => e.id == 7) = some o ∧ s.ctx? o.ctx = some x ∧ x.gate = [] ∧ s.lsMay x o = true ∧ s.lsReady o = true ∧
      isLocal o.ctx o.addr.toNat = true ∧ o.cyc + 3 ≤ (s.core (coreOf o.ctx)).cyc ∧ (s.cores.all fun p => !p.2.fenced) = true ∧
      o.done = none ∧ o.arrived = none ∧ o.late = none ∧ ([12, 13, 16, 17, 18].contains code = true ∨ vget x.r.pend qLs none = some 7) ∧
      o.addr.toNat % alignOf (max 1 (lsWidth o.code)) = 0 ∧ o.pos < o.o.scalar.toNat) ∧
    (∀ code ∈ [12, 16],
      let o := lsOp code (2 ^ 22) 1
      let s := lsState o [] task0
      s.wk.ls.find? (fun e => e.id == 7) = some o ∧ (lsWaits o.code).isSome = true ∧ isLocal o.ctx o.addr.toNat = false ∧ o.done = none ∧
      s.lsMay task0 o = true ∧ s.lsReady o = true) := by decide +kernel

def barOf (pending phase waiters : Nat) : List Byte :=
  leBytes 4 pending ++ leBytes 4 96 ++ leBytes 4 (phase + 256 * waiters) ++ leBytes 4 5
/-- An object of 96 with and without waiters; arrivals of 95, 96 and 97; waits for its phase and another, with no timeout and one; and a wait that
expires now. -/
theorem witness_BarrierObjects :
    (∀ p ∈ [(25, 96, 0, 5), (25, 96, 1, 5), (26, 95, 0, 5), (26, 96, 0, 5), (26, 97, 0, 5), (28, 0, 0, 5), (27, 0, 0, 4), (27, 0, 0, 5), (27, 9, 0, 5)],
      let o := { lsOp p.1 0 p.2.1 with cyc := 97, o2 := val p.2.2.2 }
      let x := waitsFor qLs task0
      let s := lsState o (barOf 96 5 p.2.2.1) x
      s.wk.ls.find? (fun e => e.id == 7) = some o ∧ s.ctx? o.ctx = some x ∧ o.addr.toNat % 16 = 0 ∧ (s.cores.all fun p => !p.2.fenced) = true ∧
      s.lsMay x o = true ∧ s.lsReady o = true ∧ o.cyc + 3 ≤ (s.core (coreOf o.ctx)).cyc ∧ vget x.r.pend qLs none = some 7 ∧
      (s.bar o).pending = 96 ∧ (s.bar o).phase = 5 ∧ (s.bar o).waiters = p.2.2.1 ∧ x.halted = false ∧ x.stop = none ∧
      s.actionFor x.pid 5 = 0 ∧ s.hs.cwWait = [] ∧ (s.hs.cwProd - s.hs.cwCons).toNat ≠ 4096) ∧
    (let o := { lsOp 27 0 20 with arrived := some 79 }
     (lsState o (barOf 96 5 1) task0).waitExpired o = true) := by decide +kernel

def bind0 (fe : Bool) (buf : List Elem) : Binding :=
  { fe := fe, wide := false, a := 0x100, n := 4, m := 0, b := 0, k := 0, c1 := 4, c2 := 1, taken := 0, moved := 3, buf := buf, closed := false, born := 3 }
def bound (p : Nat) (b : Binding) (x : Ctx) : Ctx := regs (fun r => { r with binds := vset r.binds p (some b) }) x
def setsAt (a : Nat) : AgSet := { a := PW.of (BitVec.ofNat 32 a), n := PW.of 4, b := PW.zero, k := PW.zero }
/-- Legal and illegal words, zero counts, an unaligned set, ports 7 and 8, and the last element of an i port and of an o port. -/
theorem witness_StreamPorts :
    (∀ y ∈ [5, 2 ^ 14, 8, 7], ∀ c ∈ [2 ^ 16 + 1, 2 ^ 16, 1], ∀ a ∈ [4, 2],
      let t := { trg y with ag := setsAt a }
      Runs { base (port oLsO c task0) with cur := .trigger t } t (port oLsO c task0)) ∧
    (∀ fe ∈ [true, false],
      let b := bind0 fe []
      let x := bound 1 b task0
      let s := { runAt 0 x with fbits := if fe then [(8, true)] else [] }
      let e : Elem := { id := 4, val := val 9, addr := 0x100, wide := false, fe := fe }
      let o := bind0 fe [e]
      let z := bound 5 o task0
      let u := runAt 0 z
      vget x.r.binds 1 none = some b ∧ b.moved < b.c1 * b.c2 ∧ b.buf.length < 8 ∧ elementLegal b b.moved = true ∧ s.wk.ls = [] ∧
      s.awaiting x b.born = false ∧ (fe = true → s.elementF (s.elementPhys 0 b b.moved) true = true) ∧
      vget z.r.binds 5 none = some o ∧ o.buf = [e] ∧ z.gate = [] ∧ u.wk.gv = [] ∧ e.addr % 4 = 0 ∧ (u.cores.all fun p => !p.2.fenced) = true ∧
      x.pushedBefore b.born = false ∧ u.awaiting z e.id = false ∧ z.pushedBefore e.id = false ∧ (fe = true → u.elementF (u.elemPhys 0 e) false = true)) :=
  ⟨fun _ _ _ _ _ _ => ⟨rfl, rfl⟩, by decide +kernel⟩

def round0 (n : Nat) : Round :=
  { id := 9, op := 1, unit := 0, scope := 4, bid := 3, arrived := List.replicate n (2048, 5), orVote := true, andVote := false,
    waiting := List.replicate n (2048, 29), complete := false }
def withRound (r : Round) (s : State) : State := { s with wk := { s.wk with rounds := [r] } }
/-- Scope 4 and 5, the last operand and the first past it, an open round of which this task is not yet, one it waits for, one that is over, and
publications at the last scope and past it. -/
theorem witness_BarriersRoundsAndPublication :
    let x := { task0 with lastArr := [(19, 9)] }
    let s := withRound (round0 0) (runAt 28 x)
    let z := { waitsFor qBn task0 with lastArr := [(19, 9)] }
    let u := withRound (round0 1) (base z)
    Runs (runAt 28 task0) (trg 28) task0 ∧ Runs s (trg 28) x ∧ Runs (runAt 29 task0) (trg 29) task0 ∧ Runs (runAt 32 task0) (trg 32) task0 ∧
    Runs (runAt 5 task0) (trg 5) task0 ∧ Runs (runAt 6 task0) (trg 6) task0 ∧ Runs (runAt 0 task0) (trg 0) task0 ∧
    (28 < 32 ∧ 28 % 8 < 5 ∧ ¬ 29 % 8 < 5 ∧ (4 * 4 + 28 / 8 % 4 : Nat) = 19 ∧ task0.lastArr.find 19 = none ∧ x.lastArr.find 19 = some 9 ∧
      s.wk.rounds = [round0 0] ∧ (round0 0).complete = false ∧
      u.wk.rounds.find? (fun q => q.id == (round0 1).id) = some (round0 1) ∧ u.unplaced (round0 1) = false ∧ u.members (round0 1) = [2048] ∧ u.counted (round0 1) 2048 = true ∧
      s.members (round0 0) = [2048] ∧ s.counted (round0 0) 2048 = false ∧ (round0 1).waiting = [(2048, 7 * 4 + 1)] ∧ u.barge? (2048 / 2 ^ 10) = some barge0 ∧
      barge0.ctxs[2048 % 2 ^ 10]? = some 0 ∧ u.ctx? 0 = some z ∧ vget z.r.pend qBn none = some 7) :=
  ⟨runs_at _ _, ⟨rfl, rfl⟩, runs_at _ _, runs_at _ _, runs_at _ _, runs_at _ _, runs_at _ _, by decide +kernel⟩

/-- A bundle of one move, with a header and seven empty slots (0x800000 each); 0x0c0a72 is `2 -> ag1.pdec` of 10_notes. -/
def bundleOf (hdr slot : Word) : List Word :=
  [hdr, slot, 0x00008000, 0x80000080, 0x00800000, 0x00008000, 0x80000080]
def withBundle (ws : List Word) (s : State) : State := { s with sq := { s.sq with kernels := [{ kern with bundles := [ws, ws, ws, ws] }] } }
def unsaved (x : Ctx) : Ctx := { x with marked := false, shadow := none, needMark := false }
/-- A bundle with MARK before its mark, a halted task with a store still gated, and a task that needs none. -/
theorem witness_MarksCopyTheContext :
    let x := unsaved task0
    let s := withBundle (bundleOf 0x00100000 0x000c0a72) (base x)
    let h := { task0 with halted := true, gate := [{ gateStore with released := false }] }
    s.ctx? 0 = some x ∧ s.needsMark 0 = some true ∧ s.untranslated 0 = false ∧ (base h).ctx? 0 = some h ∧ (base h).needsMark 0 = some false ∧
    (base h).untranslated 0 = false ∧ (withBundle (bundleOf 0 0x000c0a72) (base task0)).needsMark 0 = none := by decide +kernel

def goes : Attempt → Bool | .go _ _ => true | _ => false
def fails : Attempt → Option (Nat × Nat) | .fault f => some (f.cls, f.code) | _ => none
/-- A bubble, no task, a bundle that issues, and one with a reserved trigger code. -/
theorem witness_BundlesIssue :
    let s := withCore id (withBundle (bundleOf 0 0x000c0a72) (base task0))
    let f := withCore id (withBundle (bundleOf 0 0x000c025b) (base task0))
    (s.coreDue 0).isNone = true ∧ ((withCore (fun k => { k with bubble := true }) s).coreDue 0).isNone = true ∧ ({ s with ctxs := [] }).candidate 0 = none ∧
    (({ s with ctxs := [] }).coreDue 0).isNone = true ∧ (s.core 0).bubble = false ∧ s.candidate 0 = some 0 ∧ s.ctx? 0 = some task0 ∧
    goes (s.attempt 0 (s.core 0).cyc) = true ∧ (f.coreDue 0).isNone = true ∧ f.candidate 0 = some 0 ∧ (fails (f.attempt 0 (f.core 0).cyc)).isSome = true ∧
    task0.halted = false ∧ task0.stop = none ∧ f.actionFor task0.pid 1 = 0 ∧
    (fails (f.attempt 0 (f.core 0).cyc)).map Prod.fst = some 1 := by decide +kernel

/-- The six words of eight slots under a header. -/
def slots8 (hdr : Word) (ws : List Nat) : List Word :=
  let n := sumNats ((List.range 8).map fun j => ws.getD j 0x800000 * 2 ^ (24 * j))
  hdr :: (List.range 6).map fun i => BitVec.ofNat 32 (n / 2 ^ (32 * i))
/-- The word of a move from a source to a destination. -/
def mv (src dst : Nat) : Nat := src * 2 ^ 10 + dst
def movesOf (ws : List Word) : List Move := ((List.range 8).map fun j => moveOfWord j (slotWord ws j)).filter fun m => m.guard != 8
/-- Bundles that fail each check of their words, in the order of the checks: header bits, a bundle cut off, the reserved sources, destinations and
triggers, br under REP, a vector to a predicate; seven scalar reads and five writes, four vector reads, three writes and three views; a port
popped and one pushed twice, a destination and a unit named twice; and one that passes. -/
theorem witness_BundlesDecode :
    (∀ q ∈ [(slots8 0x00010000 [], 0x10), (slots8 1 [], 0x10), (slots8 0x00200000 [], 0x10), (slots8 0 [mv 0xac 1], 0x11), (slots8 0 [mv 0 1, mv 1 0xa0], 0x12),
        (slots8 0 [mv 0 0x25b], 0x13), (slots8 0x100 [mv 0x302 0x287], 0x18), (slots8 0 [mv 0x40 0xa1], 0x14),
        (slots8 0 ((List.range 7).map fun i => mv i (0x60 + i)), 0x15), (slots8 0 ((List.range 5).map fun i => mv 0x302 i), 0x15),
        (slots8 0 ((List.range 4).map fun i => mv (0x40 + i) (0x60 + i)), 0x15), (slots8 0 ((List.range 3).map fun i => mv 0x302 (0x40 + i)), 0x15),
        (slots8 0 ((List.range 3).map fun i => mv (0x180 + i) (0x200 + 0x20 * i)), 0x15),
        (slots8 0 [mv 0xa8 0, mv 0xa8 1], 0x15), (slots8 0 [mv 0 0xa8, mv 1 0xa8], 0x15), (slots8 0 [mv 0 5, mv 1 5], 0x16), (slots8 0 [mv 0 0x200, mv 1 0x201], 0x17)],
      let s := withBundle q.1 (base task0)
      s.ctx? 0 = some task0 ∧ s.alive 0 task0 = true ∧ ((s.kernelOf 0).bind fun k => k.bundles[task0.r.pc]?) = some q.1 ∧
      (fails (s.attempt 0 100)) = some (1, q.2)) ∧
    ((movesOf (slots8 0 ((List.range 7).map fun i => mv i (0x60 + i)))).filter fun m => decide (m.src < 0x40)).length = 7 ∧
    (let s := withBundle (slots8 0 [mv 0 5, mv 1 6]) (base task0)
     (s.nextBundle 0 task0).isOk = true ∧ goes (s.attempt 0 100) = true) := by decide +kernel

def tileCmd (code : Nat) (h : Word) (fl : Nat) : TileCmd :=
  { id := 7, ctx := 0, core := 0, code := code, y := 0, h := h, h2 := h0 + 1, c := 0, c2 := 0, sh := 4 + 512 * 4, fl := BitVec.ofNat 32 fl,
    fmt := fmtReset, dst := 0, bno := 1, slot := 3, todo := [], listed := true, started := true, region := 3, sent := none, gated := [], got := [], out := none, pos := 0,
    fp := Fpr.zero, bad := none }
/-- Shapes at both bounds and past them, flag words, formats and roundings on either side of their bounds, the last legal address of a tile of
4096 bytes and of a full one, rings 0 and 1, limits 0, 1, 32 and 33, and a flag with and without a command. -/
theorem witness_TileTriggers :
    let sh := 32 + 512 * 32
    let top := 47 * 2 ^ 22 + (2 ^ 22 - 4096)
    let x := fun (sh fl : Nat) => port oTxS sh (port oTxF fl task0)
    let w := fun (k : TileCmd) (s : State) => { s with wk := { s.wk with tiles := [k] } }
    (∀ y ∈ [0, 1, 16, 31, 32, 33, top], ∀ sh ∈ [sh, 256 + 512 * 256, 257, 512, 32 + 512 * 30], ∀ fl ∈ [0, 8, 8 * 32, 11 * 32, 2 ^ 12],
      Runs (runAt y (x sh fl)) (trg y) (x sh fl)) ∧
    Runs (runAt 0 (withFmt (rnd 5) (x sh 0))) (trg 0) (withFmt (rnd 5) (x sh 0)) ∧ Runs (w (tileCmd 0 h0 7) (runAt 7 task0)) (trg 7) task0 ∧
    tileFlag (tileCmd 0 h0 7).fl = 7 % 8 ∧
    ((padTile fmtReset (BitVec.ofNat 32 sh) 0).bytes = 4096 ∧ (padTile fmtReset (BitVec.ofNat 32 (256 + 512 * 256)) 0).bytes = 2 ^ 18 ∧
      top / 2 ^ 22 ≤ 47 ∧ top % 2 ^ 22 + 4096 ≤ 2 ^ 22 ∧ ¬ 33 % 32 = 0 ∧ rndReserved (rnd 4) = false ∧ rndReserved (rnd 5) = true ∧
      (runAt 0 (x sh 0)).ringOf 0 0 = some { ring := 0, buf := 0, slotSize := 4096, slots := 2 } ∧ (runAt 0 (x sh 0)).ringOf 0 (1 % 16) = none ∧
      (runAt 0 (x sh 0)).tailAddr 0 0 = 0 ∧ (runAt 0 (x sh 0)).bargeOf 0 = some barge0 ∧ (runAt 0 (x sh 0)).wk.tiles = [] ∧
      (padTile fmtReset (BitVec.ofNat 32 (32 + 512 * 30)) (8 * 32)).cols % 32 = 30) :=
  ⟨fun _ _ _ _ _ _ => runs_at _ _, runs_at _ _, ⟨rfl, rfl⟩, rfl, by decide +kernel⟩

def tileState (k : TileCmd) (rs : List Rec) : State :=
  let s := withRecs rs (base task0)
  { s with wk := { s.wk with tiles := [k] }, nextId := 50 }
/-- A stale handle, two MX formats that do not convert, a page found and one not found by a command and by a prefetch, a start, and the completions
of a load, a store with and without CE, a store to a freed tensor, a copy and a prefetch. -/
theorem witness_TileCommands :
    (let k := { tileCmd 0 (h0 + 5) 3 with listed := false, started := false }
     let s := tileState k [ten]
     s.wk.tiles.find? (fun e => e.id == 7) = some k ∧ s.ctx? 0 = some task0 ∧ s.wk.gv.find? (fun e => e.id == 7) = none ∧ s.staleHandle k = some (h0 + 5)) ∧
    (let k := { tileCmd 0 h0 (3 + 32 * 9) with listed := false, started := false }
     let s := tileState k [{ ten with fmt := 8 }]
     s.staleHandle k = none ∧ ((s.sides k).map fun p => pairOk k p.1 p.2) = some false) ∧
    (∀ code ∈ [0, 4], let k : TileCmd := { tileCmd code h0 3 with todo := [(0, 0, false)], started := false }
     let s := tileState k [ten]
     let u := withCore (fun c => { c with tlb := [{ tensor := 0, page := 0, leaf := 5, dirty := false }] }) s
     u.coreLeaf k.core 0 0 = some 5 ∧ checkPage (some 5) false false = none ∧ u.mayWalk k.core 7 0 0 = true ∧ s.mayWalk k.core 7 0 0 = false ∧
     (s.queueWalk k.core 7).mayWalk k.core 7 0 0 = true ∧ (s.queueWalk k.core 7).coreLeaf k.core 0 0 = none ∧ s.actionFor task0.pid 3 = 0) ∧
    (let k := { tileCmd 0 h0 3 with started := false }
     ∀ q ∈ (tileState k [ten]).wk.tiles, q.ctx = k.ctx → q.id ≤ 7 → q.started = true ∨ q.walked = true) ∧
    (∀ code ∈ [0, 1], let k := tileCmd code h0 3
     let s := tileState k [ten]
     s.tileMay k = true ∧ s.opLive? k.ctx k.h = some ten ∧ s.mayLand k = true ∧ k.bad = none ∧ k.dst % 32 = 0 ∧
     32 * k.pos + 32 ≤ k.tile.bytes ∧ (s.core (coreOfPhys (s.phys k.ctx (k.dst + 32 * k.pos)))).fenced = false) ∧
    (let k := { tileCmd 0 h0 3 with pos := 3 }
     32 * k.pos + 32 = k.tile.bytes ∧ (tileState k [ten]).tileMay k = true) ∧
    (∀ fl ∈ [3, 3 + 2 ^ 11], let k := tileCmd 2 h0 fl
     let s := tileState k [ten]
     s.tileMay k = true ∧ s.sourceReady task0 k = true ∧ s.opLive? k.ctx k.h = some ten ∧ s.ms.held = [] ∧ k.gated = [] ∧ k.got = [] ∧ k.out = none ∧ task0.gate = [] ∧ k.dst % 32 = 0 ∧
     (∀ g ∈ granules k.dst k.tile.bytes, (s.core (coreOfPhys (s.phys k.ctx g))).fenced = false ∧ (k.fw = true → s.fbit (s.phys k.ctx g) = true)) ∧
     s.pkg.deadLinks = [] ∧ s.ms.retries = [] ∧ ten.msa = false ∧ ten.ver = false ∧ tileSF k.fl = 0 ∧
     k.tr = false ∧ ten.elems * 4 ≤ 2 ^ 45) ∧
    (let k := tileCmd 2 (h0 + 5) 3
     let s := tileState k [ten]
     s.tileMay k = true ∧ s.sourceReady task0 k = true ∧ s.opLive? k.ctx k.h = none ∧ tileSF k.fl ≠ 6) ∧
    (let k := tileCmd 3 h0 3
     let s := tileState k [ten, ten]
     s.tileMay k = true ∧ s.opLive? k.ctx k.h = some ten ∧ s.opLive? k.ctx k.h2 = some ten ∧ handleKey k.h ≠ handleKey k.h2 ∧ task0.gate = [] ∧ k.tr = false ∧ s.ms.held = []) ∧
    (let k := tileCmd 4 h0 3
     (tileState k [ten]).tileMay k = true ∧ k.bad = none) ∧
    (let k := tileCmd 2 h0 (3 + 2 ^ 10)
     let s := { tileState k [ten] with fbits := (List.range 128).map fun i => (i, false) }
     k.fw = true ∧ s.tileMay k = true ∧ s.sourceReady task0 k = true ∧ k.got = [] ∧ k.out = none ∧ granules k.dst k.tile.bytes ≠ [] ∧
     (∀ g ∈ granules k.dst k.tile.bytes, s.fbit (s.phys k.ctx g) = false)) := by and_intros <;> decide +kernel
theorem witness_TileCommands_homes : HomesOpen (tileState (tileCmd 2 h0 3) [ten]) ∧ HomesOpen (tileState (tileCmd 3 h0 3) [ten, ten]) := by
  unfold HomesOpen; decide +kernel
theorem witness_TileCommands_lines (code : Nat) (h : code ∈ [0, 2, 3]) :
    LinesFit (tileState (tileCmd code h0 3) [ten, ten]) ((tileState (tileCmd code h0 3) [ten, ten]).tileAddrs (tileCmd code h0 3)) := by
  refine linesFit_empty _ _ rfl rfl ?_
  revert code; decide +kernel

/-- Shapes of 128 by 128 by 512 and of 129 rows, ring words, tiles 7 and 8, addresses, and a 32 by 32 by 32 product of BF16 from ring 0. -/
theorem witness_MatrixTriggers :
    let big := 128 + 128 * 256 + 16 * 2 ^ 16
    let x := regs (fun r => { r with shape := 0x00012020, ring := 0 }) task0
    (∀ y ∈ [big, big + 1, 2 ^ 12 - 1, 2 ^ 12, 0, 63, 64, 511, 512, 7, 8, 16, 1023, 1024, 2 ^ 22 - 4096], ∀ o ∈ [0, 7, 8, 31, 32, 96, 255, 256],
      Runs (runAt y (port oMxO o x)) (trg y) (port oMxO o x)) ∧
    (big < 2 ^ 21 ∧ big / 2 ^ 16 = 16 ∧ big % 256 = 128 ∧ (big + 1) % 256 = 129 ∧ 7 % 8 + 7 / 8 + 1 ≤ 8 ∧ ¬ 63 % 8 + 63 / 8 + 1 ≤ 8 ∧
      (2 ^ 22 - 4096) % 2 ^ 22 + 4096 ≤ 2 ^ 22 ∧ matrixReserved fmtReset = false ∧ fmtMxs fmtReset = false ∧ fmtA fmtReset ≠ 7 ∧ fmtB fmtReset ≠ 7 ∧
      (runAt 0 x).ringOf 0 (x.r.ring.toNat % 16) = some { ring := 0, buf := 0, slotSize := 4096, slots := 2 } ∧
      (tileA fmtReset x.r.shape false).bytes ≤ 4096 ∧ (tileB fmtReset x.r.shape false).bytes ≤ 4096 ∧
      8 % 8 < 8 / 8 % 8 ∧ 8 / 8 % 8 + 8 / 64 % 4 + 1 ≤ 8 ∧ drainReserved fmtReset = false ∧
      (drainTile fmtReset x.r.shape false).bytes = 4096 ∧ (preTile 0 x.r.shape).bytes ≤ 4096) :=
  ⟨fun _ _ _ _ => runs_at _ _, by decide +kernel⟩

/-- The operand clauses of MatrixTriggers, at both sides of each: FP8 against FP32, a transposed MX operand, a format-7 operand by groups of four
with 31 and 32 rows and its bank claimed and not, no ring, a slot of 4096 bytes that BF16 tiles of 32 by 64 and 32 by 96 fit and do not, MX drains
of 32 and 31 columns, format 7 as a drain, and ring 1, which is not declared, for a drainf. -/
theorem witness_MatrixTriggers_operands :
    (let x := regs (fun r => { r with shape := 0x00012020, ring := 0 }) task0
     let s := runAt 0 x
     matrixReserved 0x03 = true ∧ matrixReserved 0x11 = false ∧ fmtMxs 0x00800088 = true ∧ matrixReserved 0x00800088 = false ∧ fmtA 0x00800088 = 8 ∧
     (∃ q, s.ringOf 0 0 = some q ∧ (tileA 0x11 0x00022020 false).bytes = q.slotSize ∧ q.slotSize < (tileA 0x11 0x00032020 false).bytes) ∧ s.ringOf 0 1 = none ∧
     matrixReserved 0x00080077 = false ∧ cbGroup 0x00080077 = 4 ∧ 31 % 4 ≠ 0 ∧ 32 % 4 = 0 ∧ fmtCbank 0x00080077 = 0 ∧
     (∃ k, s.kernelOf 0 = some k ∧ k.cbmask / 2 ^ 0 % 2 = 1) ∧
     (let u := { s with sq := { s.sq with kernels := [{ kern with cbmask := 14 }] } }
      ∀ k ∈ u.kernelOf 0, ¬ k.cbmask / 2 ^ 0 % 2 = 1)) ∧
    ((0 < 1023 % 8 ∧ 7 / 8 % 8 + 7 / 64 % 4 + 1 ≤ 7 % 8) ∧ ¬ (8 % 8 < 0 / 8 % 8 ∨ 0 / 8 % 8 + 0 / 64 % 4 + 1 ≤ 0 % 8)) ∧
    (drainReserved 0x711 = true ∧ drainReserved 0x811 = false ∧ (drainTile 0x811 0x00012020 false).cols % 32 = 0 ∧
     (drainTile 0x811 0x00011f20 false).cols % 32 = 31 ∧ (drainTile 0x811 0x00011f20 true).cols % 32 = 0 ∧
     ¬ (2 ^ 22 - 4064) % 2 ^ 22 + 4096 ≤ 2 ^ 22 ∧ (preTile 0x80 0x00012020).bytes = 4096 ∧ 4096 < (preTile 0x80 0x00012120).bytes ∧
     255 / 32 % 4 = 3 ∧ 0x40 / 32 % 4 ≠ 3 ∧ (runAt 0 task0).ringOf 0 (0x100 / 256 % 16) = none) := by decide +kernel

def noEff : MxEff := { acc := [], rmax := [], rsum := [], marks := [], out := [], q := PV.zero }
def mxOp (code y o : Nat) : MxOp :=
  { id := 7, ctx := 0, core := 0, code := code, y := BitVec.ofNat 32 y, o := PW.of (BitVec.ofNat 32 o), fmt := fmtReset, shape := 0x00010101, ring := 0,
    book := none, bno := 1, slot := 3, trig := 80, start := none, eff := noEff, fault := none }
def mxState (o : MxOp) : State :=
  let s := withCore id (base (waitsFor qMx task0))
  { s with wk := { s.wk with mx := [o] }, fbits := (List.range 256).map fun i => (i, true), nextId := 50 }
/-- A head that may start for each code, one under way, one with a granule still to be written, and one that retires in the cycle its latency is
over. The products have shape 1 by 1 by 32. -/
theorem witness_MatrixOperations :
    (∀ p ∈ [(2, 0, 0), (3, 0, 0), (4, 8, 0x3f800000), (5, 0, 0), (6, 0, 0), (7, 8, 0), (8, 0, 1), (9, 0, 0), (10, 0, 0), (11, 0, 0), (12, 0, 0)],
      let o := mxOp p.1 p.2.1 p.2.2
      let s := mxState o
      s.mxHead 0 = some o ∧ s.ctx? o.ctx = some (waitsFor qMx task0) ∧ s.mxReady (waitsFor qMx task0) o = true) ∧
    (let o := { mxOp 5 0 0 with start := some 80, eff := { noEff with out := [([(0x40, 1), (0x41, 2)], false)] } }
     let s := mxState o
     s.mxHead 0 = some o ∧ o.eff.out.find? (s.granuleFree (waitsFor qMx task0) o) = some ([(0x40, 1), (0x41, 2)], false) ∧ [(0x40 : Nat), 0x41].Nodup) ∧
    (let o := { mxOp 2 0 0 with start := some 72 }
     let s := mxState o
     s.mxHead 0 = some o ∧ 72 + mxLatency o ≤ (s.core 0).cyc ∧ vget (waitsFor qMx task0).r.pend qMx none = some o.id ∧
     s.ringOf o.ctx 0 = some { ring := 0, buf := 0, slotSize := 4096, slots := 2 } ∧ s.bargeOf o.ctx = some barge0 ∧ (∀ p ∈ mxReads o, p.1 < 16)) ∧
    (0 < shapeM 0x00010101 ∧ 0 < shapeN 0x00010101 ∧ 1 ≤ shapeKB 0x00010101 ∧ fmtDrain fmtReset = 0) := by decide +kernel

def rwCmd (code y o : Nat) : RwCmd :=
  { id := 7, ctx := 0, core := 0, code := code, y := BitVec.ofNat 32 y, o := BitVec.ofNat 32 o, eps := 0, x := 0x1000, g := 0x2000, yAddr := 0x3000,
    rows := 2, d := 3, pitch := 32, inBf := false, outBf := false, due := some 100, cycles := 20 }
def slots (n : Nat) (k : CoreState) : CoreState := { k with slotOwner := (List.range n).map fun i => (i, (2, i)) }
def rwState (r : RwCmd) (n : Nat) : State :=
  let s := withCore (slots n) (base (waitsFor qRw task0))
  { s with wk := { s.wk with rw := [r] }, nextId := 50 }
/-- A descriptor of two rows of three FP32 words at offset 0. -/
def descBytes : List Byte := leBytes 4 0x1000 ++ leBytes 4 0x2000 ++ leBytes 4 0x3000 ++ leBytes 2 2 ++ leBytes 2 3 ++ leBytes 4 32 ++ leBytes 12 0
/-- A slot that the barge owns and one that it does not, a legal and an illegal descriptor, the operands on either side of each bound, the six
computations, claims with a slot free and with none, a save, a load and a freeing. -/
theorem witness_RowEngine :
    (∀ y ∈ [0, 1, 2, 3, 15, 16, 61, 64, 2 ^ 22], ∀ o ∈ [0, 1, 32, 0x4000, 2 ^ 22 - 4096, 2 ^ 22 - 4064],
      Runs ((withCore (slots 1) (runAt y (port oRwO o task0))).setBytes (bankBase 0 0) descBytes) (trg y) (port oRwO o task0)) ∧
    (let s := (withCore (slots 1) (runAt 0 (port oRwO 0 task0))).setBytes (bankBase 0 0) descBytes
     ((s.core 0).slotOf 2 0).isSome = true ∧ ((s.core 0).slotOf 2 1).isSome = false ∧ (∀ code ∈ [0, 1, 2, 3, 4, 5], (s.rowDesc 0 0).ok code = true) ∧
     (s.rowDesc 0 0).rows = 2 ∧ (s.rowDesc 0 32).ok 0 = false ∧ (2 ^ 22 - 4096) % 2 ^ 22 + 4096 = 2 ^ 22 ∧ 2 ^ 22 < (2 ^ 22 - 4064) % 2 ^ 22 + 4096) ∧
    (∀ p ∈ [(0, 0, 0), (1, 0, 0), (2, 0, 0), (3, 0, 0), (4, 0, 0), (5, 0, 0), (6, 0, 0), (6, 1, 0x4000), (6, 2, 0x4000), (7, 0, 0)], ∀ n ∈ [1, 16],
      let r := rwCmd p.1 p.2.1 p.2.2
      let s := rwState r n
      s.rwOf 0 = r :: [] ∧ s.ctx? r.ctx = some (waitsFor qRw task0) ∧ r.due = some 100 ∧ 100 ≤ (s.core 0).cyc ∧
      s.storesOver r.ctx (waitsFor qRw task0) r.id = true ∧ s.storesOverTo r.ctx (waitsFor qRw task0) r.id (s.physList r.ctx 0x4000 64) = true ∧ s.loadsOver r.ctx (waitsFor qRw task0) r.id = true ∧ vget (waitsFor qRw task0).r.pend qRw none = some r.id ∧
      (s.core 0).slotOf 2 0 = some 0 ∧ (∀ i, i < r.rows → (s.physList r.ctx (r.yAddr.toNat + i * r.pitch) (r.d * 4)).Nodup) ∧ 1 ≤ r.d ∧
      (s.cores.all fun p => !p.2.fenced) = true) ∧
    (((rwState (rwCmd 6 0 0) 1).core 0).lowestNumber 2 = some 1 ∧ ((rwState (rwCmd 6 0 0) 1).core 0).freeRow = some 1 ∧
      ((rwState (rwCmd 6 0 0) 16).core 0).freeRow = none) := by
  refine ⟨fun _ _ _ _ => ⟨rfl, rfl⟩, by decide +kernel, by decide +kernel, by decide +kernel⟩
theorem witness_RowEngine_slot : ((rwState (rwCmd 6 1 0x4000) 1).physList 0 0x4000 4096).Nodup := by
  have hb : (rwState (rwCmd 6 1 0x4000) 1).bankMapOf 0 = 0xfedcba9876543210#64 := by decide +kernel
  refine List.pairwise_map.mpr (List.Pairwise.imp_of_mem (fun {x y} hx hy hl h => ?_) List.pairwise_lt_range)
  have hx := List.mem_range.mp hx
  have hy := List.mem_range.mp hy
  simp only [State.phys, hb, physAt, bankBase, addrCore, addrOff] at h
  have e1 : (0x4000 + x) / 2 ^ 22 = 0 := by omega
  have e2 : (0x4000 + y) / 2 ^ 22 = 0 := by omega
  have e3 : (0x4000 + x) % 2 ^ 22 / 2 ^ 18 = 0 := by omega
  have e4 : (0x4000 + y) % 2 ^ 22 / 2 ^ 18 = 0 := by omega
  rw [e1, e2, e3, e4] at h
  omega

def push0 : GuestCmd :=
  { id := 7, src := 2048, isStream := false, core := 0, addr := 0x100, pkt := List.replicate 52 0, comp := 0x200, flag := 6, seq := some 0xa31, ingress := true,
    accepted := true, checkpointed := false, done := none, bno := 1 }
def packet (seq status : Nat) : GuestPacket :=
  { seq := BitVec.ofNat 32 seq, status := BitVec.ofNat 16 status, opcode := 0x120, count0 := 2048, count1 := 0, count2 := 0, count3 := 0, value := 0 }
def withPush (p : GuestCmd) (s : State) : State := { s with wk := { s.wk with guestCmds := [p] } }
/-- A tensor with storage on die 0. -/
def stored (r : Rec) (s : State) : State := (withRecs [{ r with stored := false }] s).allocStorage 0
def guestReq (a : GuestAsk) : GuestRequest := { translated := false, home := 0, index := 0, generation := 1, offset := 0, ask := a }
/-- A guest that is present, pre-empted and fenced; deadlines in their last tick and over; packets to be delivered (good and malformed), accepted
and completed with each kind of status; an unknown sequence number; and requests at a tensor and at a freed one. -/
theorem witness_GuestSite :
    let s := present (base (waitsFor qGq task0))
    let v := withGuest (fun g => { g with shoots := [{ due := 50, pages := [(0, 0)], segs := [(0, 1)] }, { due := 51, pages := [], segs := [(0, 1)] }], preemptBy := some 50, stopped := true }) s
    let at50 := { v with pkg := { v.pkg with ioTick := 50 } }
    let e := withGuest (fun g => { g with st := .preempted }) s
    let fresh := { push0 with seq := none, ingress := false, accepted := false }
    let bad := (withPush fresh s).setBytes 0x100 (leBytes 2 0x200)
    let good := (withPush fresh s).setBytes 0x100 (leBytes 2 0x120)
    (s.hs.guest.st = .present ∧ s.hs.guest.stopped = false ∧ e.hs.guest.st = .preempted ∧ e.pkg.p1 = false ∧ (base task0).hs.guest.st = .absent) ∧
    (at50.hs.guest.shoots.head?.map (·.due) = some 50 ∧ at50.hs.guest.shoots.length = 2 ∧ at50.hs.guest.preemptBy = some 50 ∧ 50 ≤ at50.pkg.ioTick ∧ at50.pkg.ioTick ≤ 50 ∧ at50.wk.guestCmds = [] ∧
      (withPush push0 at50).wk.guestCmds = [push0] ∧ push0.accepted = true ∧ push0.checkpointed = false ∧ push0.done = none) ∧
    (good.push? 7 = some fresh ∧ good.deliverable fresh = true ∧ good.ingressCount < 256 ∧ leNat ((good.packetBody fresh).take 2) = 0x120 ∧
      bad.deliverable fresh = true ∧ leNat ((bad.packetBody fresh).take 2) = 0x200 ∧ bad.hs.guest.lastOp < 0x200) ∧
    (let p := { push0 with accepted := false }
     let q := withPush p s
     q.push? 7 = some p ∧ q.pusher p = some 0 ∧ q.ctx? 0 = some (waitsFor qGq task0) ∧ vget (waitsFor qGq task0).r.pend qGq none = some 7) ∧
    (let q := withPush push0 s
     q.wk.guestCmds.find? (fun c => c.seq == some 0xa31 && c.accepted && c.done.isNone) = some push0 ∧ (packet 0xa31 0x8000).seq = 0xa31 ∧
     (packet 0xa31 0).status ≠ 0x8000 ∧ ∀ c ∈ q.wk.guestCmds, c.seq ≠ some 0xa32) ∧
    (let p := { push0 with done := some (packet 0xa31 0) }
     let q := withPush p s
     q.push? 7 = some p ∧ q.barge? (p.src / 2 ^ 10) = some barge0 ∧ barge0.ctxs[p.src % 2 ^ 10]? = some 0 ∧ p.comp.toNat % 32 = 0 ∧
     (q.core (coreOfPhys (q.phys 0 p.comp.toNat))).fenced = false ∧ p.flag < 8) ∧
    (let p := { push0 with isStream := true, src := 1 }
     (withPush p s).op? p.src ≠ none) ∧
    (let m := stored ten s
     m.live? h0 ≠ none ∧ s.live? h0 = none ∧ m.extFault h0 0 64 false false = none ∧ m.extFault h0 0 64 true false = none ∧
     m.extFault h0 0 64 false true = none ∧ m.extHeld h0 0 64 false = false ∧ m.extHeld h0 0 64 true = false ∧ (m.live? h0).map Rec.msa = some false ∧
     makeHandle ((guestReq .translate).home.toNat * 2 ^ 20 + (guestReq .translate).index.toNat) (guestReq .translate).generation.toNat = h0) := by
  decide +kernel

/-- A translated access with its translation cached and without it, an atomic of each code on a tensor with storage, and a fault record of a packet
that a running context has pushed and of one that an operation has. -/
theorem witness_GuestSite_translated :
    (let m := stored ten (present (base (waitsFor qGq task0)))
     let c := withGuest (fun g => { g with cached := [(0, 0)] }) m
     let req := { guestReq (.read 64) with translated := true }
     req.translated = true ∧ c.hs.guest.st = .present ∧ c.extFault h0 0 64 false false = none ∧ c.extBlocked h0 0 64 false = false ∧
       (∀ k ∈ pagesIn 0 64, (0, k) ∈ c.hs.guest.cached) ∧ (∃ k ∈ pagesIn 0 64, (0, k) ∉ m.hs.guest.cached) ∧
     m.extFault h0 0 4 false true = none ∧ m.extHeld h0 0 4 true = false ∧ (∀ b ∈ storeRange 0 0 4, (m.homeByte b).2 = false) ∧
     (∀ code ∈ [0, 1, 2, 3, 4, 5], (guestReq (.atomic code 1 0)).ask = .atomic code 1 0 ∧ code < 6)) ∧
    (let q := withPush push0 (present (base (waitsFor qGq task0)))
     q.pusher push0 = some 0 ∧ q.ctx? 0 = some (waitsFor qGq task0) ∧ q.barge? (push0.src / 2 ^ 10) = some barge0 ∧ barge0.st ≠ .retired ∧
       (waitsFor qGq task0).halted = false) ∧
    (let p := { push0 with isStream := true, src := 30 }
     let q := withOp { newOp 30 0 0 5 1 1 (.gop 0x120) [] none none 0 with started := true, queued := false } (withPush p (present (base (waitsFor qGq task0))))
     q.wk.guestCmds.find? (fun c => c.seq == some 0xa31 && c.accepted && c.done.isNone) = some p ∧ (q.op? p.src).isSome = true) := by
  decide +kernel
theorem witness_GuestSite_word : LinesFit (stored ten (present (base (waitsFor qGq task0)))) (storeRange 0 0 4) :=
  linesFit_empty _ _ (by decide +kernel) (by decide +kernel) (by decide +kernel)

theorem witness_External_lines (s : State) (h : s = stored ten (present (base (waitsFor qGq task0)))) : LinesFit s (storeRange 0 0 64) := by
  subst h; exact linesFit_empty _ _ (by decide +kernel) (by decide +kernel) (by decide +kernel)

def coll0 (g : Nat) : Op := { newOp 30 0 0 5 1 1 (.a2av g 0) [] none none 0 with started := true, queued := false }
/-- A device that is up and one in recovery, a group that a collective uses and one that none does, an index with a record and one without, the
last stream and its states, legal and illegal depths, and accesses through a coherent slot: allowed, read-only, raw, past the end and stale. -/
theorem witness_HostRegisters :
    let s := sbase str0
    let up := { s with pkg := { s.pkg with ready := true } }
    let r := { s with pkg := { s.pkg with recovery := true } }
    let c := withOp (coll0 5) s
    let m := stored ten up
    let slot := fun (e : Nat) => { m with hs := { m.hs with slots := [(3, BitVec.ofNat 64 e)] } }
    s.pkg.recovery = false ∧ r.pkg.recovery = true ∧ s.stackOfDie 7 = some 7 ∧ (withRecs [ten] s).rec? (0 * 2 ^ 20 + 0) = some ten ∧ (withRecs [ten] s).rec? 1 = none ∧
    (∀ o ∈ c.sq.ops, o.done = false ∧ o.kind = .a2av 5 0) ∧ (∀ o ∈ (withOp { coll0 6 with kind := .coll 0 6 0 } s).sq.ops, o.done = false ∧ o.kind = .coll 0 6 0) ∧ s.sq.ops = [] ∧ (s.slot 0).st = .ready ∧
    (({ str0 with st := .idle } : Stream).st = .idle) ∧ (8#64).toNat % 16 ≤ 8 ∧ 8 < (9#64).toNat % 16 ∧ (1#64).toNat % 2 ^ 16 ≠ 0 ∧
    (∀ e ∈ [0x100000, 0x100000 + 2 ^ 32, 0x100000 + 2 ^ 33, 0x100000 + 2 ^ 32 + 2 ^ 33],
      (slot e).pkg.ready = true ∧ ((slot e).hs.slots.get 3 0).setWidth 32 = h0 ∧ (slot e).extFault h0 65472 64 false false = none ∧
      (slot e).extFault h0 0 64 false true = none ∧ (slot e).extFault h0 0 64 true true = none ∧ (slot e).extHeld h0 0 64 false = false ∧ (slot e).extHeld h0 0 64 true = false ∧
      (slot e).extFault h0 65473 64 false false = some 3 ∧ (slot e).extFault (h0 + 1) 0 64 false false = some 2) ∧
    (slot (0x100000 + 2 ^ 32)).pkg.apst = 0 ∧ ((slot (0x100000 + 2 ^ 32)).hs.slots.get 3 0).getLsbD 32 = true ∧
    ((slot (0x100000 + 2 ^ 32)).hs.slots.get 3 0).getLsbD 33 = false := by decide +kernel

def stopped : Ctx := { task0 with stop := some { cls := 7, resume := 2, posted := true } }
/-- Each command in a state that Table 25.5 lists and in one it does not, in P1, at the last word of the code, and for a stopped context with a plain
resume point and with a redirect. -/
theorem witness_StreamCommands :
    let up := fun (x : Stream) => { sbase x with pkg := { (sbase x).pkg with ready := true } }
    let st := fun (v : StreamState) => { str0 with st := v, pc := 3 }
    let ks := fun (x : Stream) => { x with image := { x.image with kernels := [([], 0)] }, arg1 := 1 }
    (∀ v ∈ [StreamState.idle, .done, .faulted, .halted, .ready, .empty],
      (up (st v)).pkg.ready = true ∧ (up (st v)).pkg.p1 = false ∧ (up (st v)).slot 0 = st v ∧ (up (st v)).mapped (0 / 16) = true ∧ (st v).st = v) ∧
    ({ up (st .idle) with pkg := { (up (st .idle)).pkg with p1 := true } }).pkg.p1 = true ∧ ({ st .ready with susp := true } : Stream).susp = true ∧
    (let x := ks (st .idle)
     let s := { up x with sq := { (up x).sq with kernels := [kern] } }
     x.image.kernels[x.arg0.toNat % 2 ^ 16]? = some ([], 0) ∧ s.kernel? x.arg1.toNat = some kern ∧ (up x).kernel? x.arg1.toNat = none) ∧
    (let s := withStream (st .ready) (base stopped)
     let r := withStream (st .ready) (base (regs (fun q => { q with redirect := some 1 }) stopped))
     argContext (st .ready).arg0 = some (0, 0) ∧ s.stoppedOn 0 0 0 = some 2048 ∧ s.barge? (2048 / 2 ^ 10) = some barge0 ∧ barge0.ctxs[2048 % 2 ^ 10]? = some 0 ∧
     s.ctx? 0 = some stopped ∧ stopped.stop = some { cls := 7, resume := 2, posted := true } ∧ stopped.later = [] ∧ stopped.r.redirect = none ∧ stopped.r.loops = [] ∧
     r.stoppedOn 0 0 0 = some 2048 ∧ ((argContext (st .ready).arg0).bind fun a => (withStream (st .ready) (base task0)).stoppedOn 0 a.1 a.2) = none) := by
  decide +kernel

/-- A context stopped in a bundle of MARK that it has not begun and in one it has, with and without an untranslated command, whose bundle clears
the two flags it waits for. -/
theorem witness_StreamCommands_mark :
    let h : Word := BitVec.ofNat 32 (2 ^ 20 + 2 ^ 19 + 3 * 2 ^ 24)
    let st := fun (x : Ctx) => withStream { str0 with st := .ready, pc := 3 } (withBundle [h] (base x))
    let x := { stopped with marked := false }
    let k := { tileCmd 2 h0 3 with todo := [(0, 0, false)], started := false }
    (st x).headerOf 2048 2 = h ∧ h.getLsbD 20 = true ∧ h.getLsbD 19 = true ∧ h.extractLsb' 24 8 = 3#8 ∧ x.r.rep = none ∧ stopped.marked = true ∧
      (st x).untranslated 0 = false ∧ { st x with wk := { (st x).wk with tiles := [k] } }.untranslated 0 = true ∧
      (st x).stoppedOn 0 0 0 = some 2048 ∧ (regs (fun r => { r with rep := some 1 }) x).r.rep ≠ none := by decide +kernel

def request (kind first count arg : Nat) : TuSlot := { kind := kind, status := 0, handle := h0, first := first, count := count, arg := arg }
/-- Each kind, an unknown one, a stale handle, the last page and the first past it, a pinned tensor, MAP with storage and without room for it, and the
last legal argument and the first past it. -/
theorem witness_TableRequests :
    let mk := fun (q : TuSlot) (s : State) => { s with pkg := { s.pkg with ready := true }, hs := { s.hs with tu := [(0, q)], tuProd := 1, tuDone := 0 } }
    (∀ kind ∈ [0, 1, 2, 3, 4, 5, 6], let q := request kind 0 1 1
     let s := mk q (sbase str0)
     let m := mk q (stored ten (sbase str0))
     q = s.tuSlot ∧ s.pkg.ready = true ∧ s.pkg.p1 = false ∧ s.hs.tuDone ≠ s.hs.tuProd ∧ s.hs.tuBusy = false ∧ s.live? q.handle = none ∧
     q = m.tuSlot ∧ m.live? q.handle = some ten ∧ handleKey q.handle = 0 ∧ q.first + q.count ≤ ten.pages ∧ ten.stored = true ∧ q.arg ≤ 1 ∧ ten.ver = false ∧
     ten.msa = false ∧ ten.st ≠ .compH ∧ (∀ k ∈ [0], (m.pageLeaf? 0 k).isSome = true)) ∧
    (let q := request 1 1 1 0
     ten.pages < q.first + q.count) ∧
    (let m := mk (request 4 0 1 0) (stored { ten with pin := 1 } (sbase str0))
     m.live? h0 = some { ten with pin := 1 }) ∧
    (let m := mk (request 1 0 1 0) (withRecs [ten] (sbase str0))
     m.live? h0 = some ten ∧ (m.pageLeaf? 0 0).isNone = true ∧ 1 ≤ m.availH (0 / 2 ^ 20) ∧ (m.takeFrame (0 / 2 ^ 20) 3).isSome = true) ∧
    (let m := mk (request 1 0 1 0) (withRecs [ten] (withAsk { ask (2 ^ 21) .reserve none with granted := true } (sbase str0)))
     m.availH (0 / 2 ^ 20) < 1) ∧
    (1 : Nat) % 2 = 1 ∧ (2 : Nat) % 2 ≠ 1 ∧ 2 ≤ (request 4 0 1 2).arg := by decide +kernel

def waits : Attempt → Bool | .wait => true | _ => false
/-- A context whose next bundle has some slots, under a header. -/
def nextOf (hdr : Word) (ws : List Nat) (x : Ctx) : State := withBundle (slots8 hdr ws) (base x)
/-- Each thing that a legal bundle waits for: a flag, a busy result port, an empty i port and a full o port, a division under way for its own
context and for another, a product that lands later, and the full queues of mx, rw, tx, ls and gq, with a scratchpad word in the wrong state. -/
theorem witness_BundleChecks :
    (let s := nextOf 0x01000000 [mv 0 1] task0
     (s.nextBundle 0 task0).isOk = true ∧ waits (s.attempt 0 100) = true) ∧
    (∀ q ∈ [(mv 0xb0 1, regs (fun r => { r with pend := vset r.pend 0 (some 7) }) task0), (mv 0xa8 1, bound 0 (bind0 false []) task0),
        (mv 1 0xa8, bound 4 (bind0 false (List.replicate 8 { id := 4, val := val 9, addr := 0x100, wide := false, fe := false })) task0),
        (mv 1 0x244, { task0 with flights := [{ port := 2, val := val 1, due := 101 }] })],
      let s := nextOf 0 [q.1] q.2
      s.ctx? 0 = some q.2 ∧ s.alive 0 q.2 = true ∧ (s.nextBundle 0 q.2).isOk = true ∧ waits (s.attempt 0 100) = true) ∧
    (let b := bind0 false []
     elementLegal b b.taken = true ∧ b.closed = false ∧ b.wide = false) ∧
    (∀ q ∈ [(0x240, 0), (0x244, 3)], let s := withCore (fun k => { k with div := some (q.2, val 1, val 1, 101, 0) }) (nextOf 0 [mv 1 q.1] task0)
      (s.core 0).take = none ∧ (s.nextBundle 0 task0).isOk = true ∧ waits (s.attempt 0 100) = true) ∧
    (∀ q ∈ [(0x292, { (base task0).wk with mx := List.replicate 16 (mxOp 7 0 0) }), (0x2a7, { (base task0).wk with rw := List.replicate 4 (rwCmd 7 0 0) }),
        (0x2b0, { (base task0).wk with tiles := List.replicate 32 (tileCmd 0 h0 3) }), (0x2c4, { (base task0).wk with ls := List.replicate 16 (lsOp 2 2 0) }),
        (0x360, { (base task0).wk with guestCmds := List.replicate 16 { push0 with accepted := false } }), (0x2ca, (base task0).wk)],
      let s := { nextOf 0 [mv 1 q.1] task0 with wk := q.2 }
      (s.nextBundle 0 task0).isOk = true ∧ waits (s.attempt 0 100) = true) ∧
    ((List.replicate 16 (mxOp 7 0 0)).length = 16 ∧ ({ (base task0) with wk := { (base task0).wk with mx := List.replicate 16 (mxOp 7 0 0) } }.mxOf 0).length = 16 ∧
     ({ (base task0) with wk := { (base task0).wk with rw := List.replicate 4 (rwCmd 7 0 0) } }.rwOf 0).length = 4 ∧
     ({ (base task0) with wk := { (base task0).wk with tiles := List.replicate 32 (tileCmd 0 h0 3) } }.tilesOf 0).length = 32 ∧
     ({ (base task0) with wk := { (base task0).wk with guestCmds := List.replicate 16 { push0 with accepted := false } } }.gqUsed 0) = 16) := by decide +kernel
/-- A single move that faults, alone: a pop and a push with no binding and a poisoned register; two moves of which the second is of class 1 and of
which neither is; a guard that holds nothing back and one that does; and a bundle that repeats. -/
theorem witness_BundleChecks_faults :
    (∀ q ∈ [(mv 0xa8 1, task0, 1, 0x11), (mv 1 0xa8, task0, 1, 0x12),
        (mv 0 1, regs (fun r => { r with sr := vset r.sr (r.sIndex 0) { PW.zero with poi := true } }) task0, 11, 0xb0)],
      let s := nextOf 0 [q.1] q.2.1
      s.alive 0 q.2.1 = true ∧ (s.nextBundle 0 q.2.1).isOk = true ∧ fails (s.attempt 0 100) = some (q.2.2.1, q.2.2.2)) ∧
    (let x := regs (fun r => { r with sr := vset r.sr (r.sIndex 0) { PW.zero with poi := true } }) task0
     let s := nextOf 0 [mv 0 1, mv 0xa8 2] x
     let u := nextOf 0 [mv 0 1, mv 0 2] x
     (∀ q ∈ s.foundMoves 0 x 100 (s.liveMoves 0 x { moves := [moveOfWord 0 (BitVec.ofNat 24 (mv 0 1)), moveOfWord 1 (BitVec.ofNat 24 (mv 0xa8 2))], waitf := 0, clrf := false, mark := false, rep := 0, lits := [] } [moveOfWord 0 (BitVec.ofNat 24 (mv 0 1)), moveOfWord 1 (BitVec.ofNat 24 (mv 0xa8 2))]), q.2.need ≠ .wait) ∧
     fails (s.attempt 0 100) = some (1, 0x11) ∧ fails (u.attempt 0 100) = some (11, 0xb0)) ∧
    (let g := 2 ^ 20 * 1 + mv 0 1
     let s := nextOf 0 [g] task0
     task0.r.pr.getLsbD 1 = false ∧ goes (s.attempt 0 100) = true ∧ goes ((nextOf 0x200 [mv 0x40 0x41] task0).attempt 0 100) = true) := by decide +kernel

def zeros (n : Nat) : List Byte := List.replicate n 0
/-- The header of a container with its section table (Table 5.14, Table 5.15). -/
def container (kind total : Nat) (sections : List (Nat × Nat × Nat)) (body : List Byte) : List Byte :=
  leBytes 4 0x3143575a ++ leBytes 2 1 ++ leBytes 2 kind ++ leBytes 4 sections.length ++ zeros 4 ++ leBytes 8 total ++ zeros 40 ++
  sections.flatMap (fun e => leBytes 4 e.1 ++ zeros 4 ++ leBytes 4 e.2.1 ++ leBytes 4 e.2.2) ++ body
/-- A kernel of one bundle: R with its slot count, entry and barge bound, then the index and seven words. -/
def kernelFile : List Byte :=
  container 1 164 [(1, 96, 32), (2, 128, 36)]
    (leBytes 4 1 ++ zeros 4 ++ leBytes 1 1 ++ zeros 1 ++ leBytes 2 1 ++ zeros 20 ++
     (leBytes 4 1 ++ zeros 4 ++ (bundleOf 0 0x00008000).flatMap fun w => leBytes 4 w.toNat))
/-- A stream of one branch. -/
def streamFile : List Byte :=
  container 2 120 [(1, 96, 16), (2, 112, 8)] (zeros 4 ++ leBytes 1 2 ++ zeros 11 ++ leBytes 8 0x1300000000000000)
def loadIn (f : LoadRegs → LoadRegs) : State :=
  let s := sbase { str0 with st := .empty }
  { s with pkg := { s.pkg with ready := true }, hs := { s.hs with load := f s.hs.load } }
def okKernel : Except Nat Loaded → Option Kernel
  | .ok (.kernel k) => some k
  | _ => none
def okStream : Except Nat Loaded → Option StreamImage
  | .ok (.stream x) => some x
  | _ => none
def errorOf : Except Nat Loaded → Option Nat
  | .error e => some e
  | _ => none
theorem okKernel_of {e : Except Nat Loaded} (h : (okKernel e).isSome = true) : ∃ k, e = .ok (.kernel k) := by
  match e, h with
  | .ok (.kernel k), _ => exact ⟨k, rfl⟩
theorem okStream_of {e : Except Nat Loaded} (h : (okStream e).isSome = true) : ∃ x, e = .ok (.stream x) := by
  match e, h with
  | .ok (.stream x), _ => exact ⟨x, rfl⟩

/-- A kernel container reads as its image, and a stream container as its own. -/
theorem test_container_kernel :
    (okKernel (readContainer kernelFile 5)).map (fun k => (k.bundles.length, k.entry, k.contexts, k.bargeMax, k.bankMap, k.size)) = some (1, 0, 1, 1, 5#64, 164) := by
  decide +kernel
theorem test_container_stream :
    (okStream (readContainer streamFile 5)).map (fun x => (x.words, x.entry, x.prio)) = some ([0x1300000000000000#64], 0, 2) := by decide +kernel

/-- The registers busy, with a result, idle and before READY and in P1; a file of each kind, wrong in its magic, without a section, with one too many and
with a fault inside; space and none; a slot free, taken, and past the last; an image unknown, in use and free. -/
theorem witness_ImageLoading :
    (loadIn fun l => { l with busy := true, result := some 3 }).hs.load.busy = true ∧ (loadIn fun l => { l with busy := true }).hs.load.result = none ∧
    (loadIn id).hs.load.busy = false ∧ (loadIn id).pkg.ready = true ∧ (loadIn id).pkg.p1 = false ∧ (sbase str0).pkg.ready = false ∧
    fileNat (zeros 64) 0 4 ≠ 0x3143575a ∧ fileNat kernelFile 0 4 = 0x3143575a ∧ fileNat kernelFile 4 2 = 1 ∧
    (let f := container 1 80 [(1, 80, 0)] []
     fileNat f 0 4 = 0x3143575a ∧ (readSections f (fileNat f 8 4)).map (fun ss => (sectionOf ss 2).isNone) = some true ∧ errorOf (readContainer f 0) = some 2) ∧
    (let f := container 1 112 [(1, 112, 0), (2, 112, 0), (11, 112, 0)] []
     (readSections f (fileNat f 8 4)).map (fun ss => ss.any fun e => 10 < e.1 && e.1 < 2 ^ 31) = some true) ∧
    (let f := container 1 96 [(1, 96, 0), (2, 96, 0)] []
     errorOf (readContainer f 0) = some 3) ∧
    (∃ k, readContainer kernelFile (loadIn id).hs.load.lmap = .ok (.kernel k)) ∧ (∃ x, readContainer streamFile (loadIn id).hs.load.lmap = .ok (.stream x)) ∧
    (let n := (loadIn fun l => { l with len := 164 }).hs.load.len.toNat
     n ≤ kernelFile.length ∧ kernelFile.take n = kernelFile ∧ streamFile.length < n) ∧
    (loadIn id).imageFits 164 = true ∧ (loadIn id).imageFits (2 ^ 37 + 1) = false ∧
    ((loadIn id).slot (loadIn id).hs.load.slot).st = .empty ∧ (loadIn id).mapped ((loadIn id).hs.load.slot / 16) = true ∧ (sbase str0).hs.load.slot = 0 ∧
    ((sbase str0).slot 0).st ≠ .empty ∧ 128 ≤ (loadIn fun l => { l with slot := 128 }).hs.load.slot ∧
    (∀ s ∈ [{ loadIn id with sq := { (loadIn id).sq with kernels := [{ kern with id := 9 }] } }], s.kernel? 9 ≠ none ∧ s.kernel? 8 = none ∧ s.imageInUse 9 = false) ∧
    (∀ s ∈ [{ loadIn id with sq := { (loadIn id).sq with kernels := [{ kern with id := 9 }], ops := [newOp 1 0 0 0 0 1 (.opr 9 1 1 0 0 []) [] none none 0] } }],
      s.kernel? 9 ≠ none ∧ s.imageInUse 9 = true) :=
  by and_intros <;> first | exact okKernel_of (by decide +kernel) | exact okStream_of (by decide +kernel) | decide +kernel

def mail (f : Mailbox → Mailbox) : State :=
  let s := State.reset
  { s with hs := { s.hs with mailbox := f s.hs.mailbox } }
def withPkg (f : Package → Package) (s : State) : State := { s with pkg := f s.pkg }
/-- The mailbox busy and idle; a log with a record, one drained, and summary counters; lengths and arguments at their bounds; a device in recovery; dies used
and free; P1, quiet and not quiet; and units that each fence may fence. What Config.verifies answers of the staged bytes is free, so one of its two clauses
has a witness whatever it is. -/
theorem witness_MailboxCommands :
    (mail fun m => { m with busy := true }).hs.mailbox.busy = true ∧ (mail id).hs.mailbox.busy = false ∧
    (withPkg (fun p => { p with log := [zeros 32] }) (mail id)).pkg.log = zeros 32 :: [] ∧ (mail id).pkg.log = [] ∧ (mail id).pkg.summary = [] ∧
    (mail id).hs.mailbox.drained = false ∧ (withPkg (fun p => { p with summary := [(4, 1)] }) (mail id)).pkg.summary ≠ [] ∧
    (mail fun m => { m with len := 32 }).hs.mailbox.len = 32 ∧ (mail fun m => { m with len := 31 }).hs.mailbox.len ≠ 32 ∧ (mail id).hs.mailbox.output = [] ∧
    (let m := (mail fun m => { m with output := zeros 300, arg := 1 }).hs.mailbox
     256 * m.arg.toNat < m.output.length) ∧
    (let m := (mail fun m => { m with output := zeros 256, arg := 1 }).hs.mailbox
     m.output ≠ [] ∧ m.output.length ≤ 256 * m.arg.toNat) ∧
    (mail id).pkg.recovery = false ∧ (withPkg (fun p => { p with recovery := true }) (mail id)).pkg.recovery = true ∧
    (Config.verifies (mail id).hs.mailbox.staged = false ∨ Config.verifies (mail id).hs.mailbox.staged = true) := by
  refine ⟨rfl, rfl, rfl, rfl, rfl, rfl, by decide, rfl, by decide, rfl, by decide +kernel, by decide +kernel, rfl, rfl, ?_⟩
  cases Config.verifies (mail id).hs.mailbox.staged
  · exact .inl rfl
  · exact .inr rfl
theorem witness_MailboxCommands_setmap :
    (∀ s ∈ [sbase str0], s.dieUsed 0 = true ∧ s.dieUsed 1 = false ∧ s.moving 1 = false ∧ s.dieOfStack 0 = some 0 ∧ s.dieOfStack 2 = some 2 ∧ s.dieUsed 2 = false ∧
      s.dieOfStack 1 = some 1 ∧ s.pkg.fencedStacks = []) ∧
    (field (0x21#32) 0 3 = 1 ∧ field (0x21#32) 4 3 = 2 ∧ (0x21#32).getLsbD 8 = false ∧ (0x101#32).getLsbD 8 = true) := by decide +kernel
theorem witness_MailboxCommands_power :
    2500 ≤ (2500#32).toNat ∧ (5000#32).toNat ≤ 5000 ∧ (2499#32).toNat < 2500 ∧ 5000 < (5001#32).toNat ∧ (mail id).pkg.p1 = false ∧
    (withPkg (fun p => { p with p1 := true }) (mail id)).pkg.p1 = true ∧ (mail id).sq.streams = [] ∧ (mail id).hs.guest.st ≠ .present ∧ (mail id).wk.gv = [] ∧
    (mail id).wk.tiles = [] ∧ (sbase str0).sq.streams = [(0, str0)] ∧ str0.st ≠ .empty ∧ str0.susp = false := by decide +kernel
theorem witness_MailboxCommands_fence :
    field (0x8#32) 0 4 = 8 ∧ field (0x0#32) 0 4 = 0 ∧ field (0x70007#32) 0 4 = 7 ∧ field (0x70007#32) 16 16 = 7 ∧ vget (mail id).pkg.peers 7 0 ≠ 3 ∧
    field (0x8ff0001#32) 16 16 = 2303 ∧ ((mail id).core 2303).fenced = false ∧ (mail id).fencedCoresOf (2303 / 48) = 0 ∧
    (∀ h, h < 4 → (mail id).ctx? (2303 * 4 + h) = none) ∧ field (0x3ff0003#32) 16 16 = 1023 ∧ (mail id).pkg.fencedChannels = [] ∧ (∀ r ∈ (mail id).ms.reserve, ∀ j ∈ 1023 :: (mail id).pkg.fencedChannels, frameChannel r.2.2 ≠ j / 4) ∧
    (present (mail id)).hs.guest.modified = [] ∧ (present (mail id)).hs.guest.st = .present ∧ (mail id).pkg.log.length < 512 := by
  and_intros <;> first | decide +kernel | exact fun _ _ => rfl

def badSector : Nat := devBase + 15 * 2 ^ 48 + 64
/-- A core with no earlier error, with one and with two; a context, its gate, and the last register, operand, accumulator and bank entry; a free sector of
the last target; and a log that is not full and one that is. -/
theorem witness_DetectedErrors :
    (∀ s ∈ [base { task0 with gate := [gateStore] }], ∃ x, s.ctx? 0 = some x ∧ coreOf 0 = 0 ∧ 0 < x.gate.length ∧
      ((s.core 0).errTimes.filter fun t => vget s.pkg.ticks (stackOf 0) 0 < t + 10 ^ 8).length = 0 ∧ s.pkg.log.length < 512) ∧
    coreOfPhys (2303 * 2 ^ 22) = 2303 ∧
    (let s := withCore (fun c => { c with errTimes := [0] }) (base task0)
     ((s.core 0).errTimes.filter fun t => vget s.pkg.ticks (stackOf 0) 0 < t + 10 ^ 8).length = 1) ∧
    (let s := withCore (fun c => { c with errTimes := [0, 0] }) State.reset
     ((s.core 0).errTimes.filter fun t => vget s.pkg.ticks (stackOf 0) 0 < t + 10 ^ 8).length = 2 ∧ (s.core 0).fenced = false ∧ s.fencedCoresOf (0 / 48) = 0 ∧
     (∀ h ∈ [0, 1, 2, 3], s.ctx? (0 * 4 + h) = none) ∧ coreOfPhys 64 = 0) ∧
    (devBase ≤ badSector ∧ deviceTgt badSector = 15 ∧ State.reset.storageOf badSector = [] ∧
      ((State.reset.pkg.sectorErrs.get (pseudoChannel badSector) []).filter fun t =>
        t.1 != badSector / 64 && vget State.reset.pkg.ticks (deviceTgt badSector / 2) 0 < t.2 + 86400 * 10 ^ 8).length < 15) ∧
    512 ≤ (withPkg (fun p => { p with log := List.replicate 512 [] }) State.reset).pkg.log.length := by
  refine ⟨fun s hs => ?_, ?_⟩
  · simp only [List.mem_singleton] at hs
    subst hs
    exact ⟨{ task0 with gate := [gateStore] }, rfl, rfl, by decide, by decide +kernel, by decide⟩
  · decide +kernel

/-- A tensor whose page lies in the pool behind expander port 0, a guest that is there, units that each failure may fence, stacks with a die and a spare,
with a die and none, and without a die, a copy under way, and ports that a change moves and ones it does not. -/
theorem witness_FencesAndReset :
    (∀ n ∈ [0, 7], n < 8 ∧ vget State.reset.pkg.peers n 0 ≠ 3 ∧ n ∉ State.reset.pkg.fencedStacks) ∧ State.reset.pkg.fencedExpanders = [] ∧
    (present State.reset).hs.guest.st = .present ∧ State.reset.pkg.fencedClusters = [] ∧
    State.reset.dieOfStack 7 = some 7 ∧ State.reset.spareStack 7 = none ∧
    (∀ s ∈ [withPkg (fun p => { p with vmap := vset p.vmap 5 none }) State.reset], s.dieOfStack 5 = none ∧ s.dieOfStack 7 = some 7 ∧ s.spareStack 7 = some 5) ∧
    (∀ s ∈ [withPkg (fun p => { p with vmap := vset p.vmap 5 none, copying := [(7, 5)] }) State.reset],
      s.pkg.copying.find 7 = some 5 ∧ s.pkg.copying.find 6 = none ∧ s.stackOfDie 7 = some 7 ∧ Memory.wf s.mem = true ∧ s.sq.barges = []) ∧
    (∀ s ∈ [withPkg (fun p => { p with peers := vset p.peers 7 3 }) State.reset], vget s.pkg.peers 7 0 = 3) ∧
    vget State.reset.pkg.peers 7 0 ≠ 2 := by decide +kernel
/-- A stack with a task under way and no spare: its save is open after the trip, and the copy does not complete. -/
theorem witness_FencesAndReset_saves :
    let s := base task0
    let a := after (exec (.thermalTrip 0) s)
    s.dieOfStack 0 = some 0 ∧ s.spareStack 0 = none ∧ s.pkg.fencedStacks = [] ∧ a.savesOpen 0 = true := by decide +kernel
def peerUp (s : State) : State := withPkg (fun p => { p with peers := vset p.peers 0 2 }) s
def group2 : List (BitVec 16) := [0, 0x8000]
def collOp (g : Nat) : Op := { coll0 g with since := 0 }
/-- A collective of a local rank and a peer rank, with its port up and down, a rank that has sent its message, and the last tick in time and the first
too late. -/
theorem witness_PeerCollectives :
    let o := collOp 5
    let s := withOp o (sbase str0)
    let t := peerUp { s with sq := { s.sq with groups := [(5, group2)], collTmo := 1 } }
    t.op? 30 = some o ∧ o.id = 30 ∧ o.collective = some (5, 0) ∧ o.done = false ∧ t.peerRanks 5 = [1] ∧ vget t.pkg.peers (rankPort ((t.group 5).getD 1 0)) 0 = 2 ∧
    o.msgs = [] ∧ t.localRanks 5 = [(0, 0)] ∧ t.partner 5 0 o.die = some o ∧ o.started = true ∧ o.out = none ∧ (o.replay = none ∧ 0 < o.ctr) ∧ ({ o with ctr := 0 } : Op).ctr = 0 ∧
    t.pkg.ioTick ≤ o.since + t.sq.collTmo.toNat * 100000 ∧ o.since + t.sq.collTmo.toNat * 100000 < 100001 ∧ s.peerRanks 5 = [] := by decide +kernel

def faulty (fact : Word) (x : Ctx) : State := withStream { str0 with fact := fact } (withBarge { barge0 with op := 1 } (withOp { opr2 with id := 1 } (base x)))
/-- Each action of FACT for class 6, a halted task, a context already stopped, one that keeps faults for its next boundary with each action that
stops or with END, a resume point of its own and without, and a dropped tensor with a recipe. -/
theorem witness_TakingFaults :
    (∀ q ∈ [(0#32, 0), (0x1000#32, 1), (0x2000#32, 2), (0x3000#32, 3)],
      let s := faulty q.1 task0
      ((((s.op? 1).bind fun o => s.stream? o.sid).map fun y => y.fact.toNat / 2 ^ (2 * 6) % 4).getD 0) = q.2 ∧ s.ctx? 0 = some task0 ∧ task0.task < 2 ^ 10 ∧
      s.barge? task0.barge = some { barge0 with op := 1 } ∧ barge0.save = none ∧ barge0.ctxs[task0.task]? = some 0 ∧ s.hs.cwWait = [] ∧
      (s.hs.cwProd - s.hs.cwCons).toNat ≠ 4096) ∧
    ((faulty 0 { task0 with halted := true }).ctx? 0).map (·.halted) = some true ∧
    ((faulty 0 stopped).ctx? 0).map (·.stop.isSome) = some true ∧ task0.halted = false ∧ task0.stop = none ∧ task0.later = [] ∧ stopped.halted = false ∧
    (let f : FaultInfo := { cls := 3, code := 0x30, flags := flRolled, slot := 3, subcode := 0, bno := 1, value := 0x100000 }
     let k := fun (act : Nat) (at_ : Option Nat) => ({ info := f, action := act, resume := at_ } : LaterFault)
     f.flags / flRolled % 2 = 1 ∧ (∀ q ∈ [(0, some 7), (3, none)], { stopped with later := [k q.1 q.2, k 1 none] }.later = k q.1 q.2 :: [k 1 none]) ∧
     { stopped with later := [k 1 none] }.later = [k 1 none]) := by
  decide +kernel
theorem witness_TakingFaults_resolve :
    let f : RFrame := { bracket := 40, g := str0.g, t := str0.t, inputs := [], outs := [] }
    let s := withRecs [{ ten with st := .drop, stored := false, recipe := some recipe0 }] { faulty 0x2000 task0 with nextId := 70 }
    let t := withStream { str0 with fact := 0x2000, frames := [(0, f)] } s
    t.resolvable { cls := 6, code := 0x30, flags := 0, slot := 3, subcode := 0, bno := 1, value := 0x100000 } = some 0 ∧
    t.resolvable { cls := 6, code := 0x31, flags := 0, slot := 3, subcode := 0, bno := 1, value := 0x100000 } = none := by
  decide +kernel

def turnState (agenda : List Turn) (s : State) : State := { s with agenda := agenda }
/-- A trigger of the issued bundle; a sequencer at a word that decodes and at one that does not; a core with nothing due and with a task; and an event. -/
theorem witness_StepRunsTheDecodedInstruction_trigger :
    let t := { trg 0 with word := 0x040200#24 }
    let s := { base task0 with micro := [t] }
    s.micro = t :: [] ∧ decodeSlot t.word = some (.saAdd false) := by decide +kernel
def atWord (w : DWord) : Stream := { str0 with image := { str0.image with words := [0, w] } }
theorem witness_StepRunsTheDecodedInstruction_sequencer (w : DWord) :
    let s := turnState [.sequencer 0] (sbase (atWord w))
    s.micro = [] ∧ s.agenda = .sequencer 0 :: [] ∧ s.pkg.p1 = false ∧ s.mapped 0 = true ∧ s.moving 0 = false ∧ s.stream? 0 = some (atWord w) ∧
    (atWord w).image.words[(atWord w).pc]? = some w ∧ s.sq.badWords = [] ∧ s.sq.badRecs = [] ∧ s.sq.badState = [] := ⟨rfl, rfl, rfl, rfl, rfl, rfl, rfl, rfl, rfl, rfl⟩
theorem witness_StepRunsTheDecodedInstruction_next :
    (sbase (atWord 0x1300000000000000#64)).nextStream 0 = some 0 ∧ (sbase (atWord 0x5300000000000000#64)).nextStream 0 = some 0 := by decide +kernel
theorem witness_StepRunsTheDecodedInstruction_word : decodeStream 0x1300000000000000#64 = .ok (.blt 0 0 0) := by rfl
theorem witness_StepRunsTheDecodedInstruction_core :
    let s := turnState [.core 0 0 0] (base task0)
    s.micro = [] ∧ s.pkg.p1 = false ∧ ({ s with agenda := [] } : State).coreDue (coreKey 0 0 0) = none := by decide +kernel
theorem witness_StepRunsTheDecodedInstruction_event :
    State.reset.agenda = [] ∧ isDeadline (.reset true) = false ∧ ∃ a, exec (.reset true) State.reset = .next a := by
  refine ⟨rfl, rfl, ?_⟩
  show ∃ a, execReset true State.reset = .next a
  unfold execReset
  split <;> exact ⟨_, rfl⟩

/-- A tick of a stack without a die, of one whose bounds are kept, and of one at a bound; and one decrement of a counter. -/
theorem witness_StepRunsTheDecodedInstruction_tick :
    let u := withPkg (fun p => { p with vmap := vset p.vmap 5 none }) State.reset
    let d := withBarge { barge0 with st := .saving, saveBy := some 0 } (base task0)
    let x := { str0 with ctrs := vset str0.ctrs 5 2 }
    let c := withStream x { State.reset with sq := { State.reset.sq with decs := [(0, 5, 3)] } }
    u.dieOfStack 5 = none ∧ u.dieOfStack 0 = some 0 ∧ u.boundDue 0 = false ∧ (after (u.dieTickEnd 0)).sq.streams = [] ∧ d.boundDue 0 = true ∧
    c.sq.decs = [(0, 5, 3)] ∧ c.stream? 0 = some x ∧ c.mapped 0 = true ∧ x.ctr 5 ≠ 0 := by decide +kernel

/-- A word of a well-formed instruction, of one that is not, and the code and slot of a trigger. -/
theorem witness_EncodingsAgree :
    (Instr.phase 3).wf = true ∧ (encodeStream (.phase 3)).isSome = true ∧ decodeStream 0x4000000000001400#64 = .ok (.depw 5) ∧ (Instr.phase 2).wf = false ∧
    (encodeStream (.phase 2)).isSome = true ∧ encodeTrigger (.saAdd false) = some 0x200 ∧ decodeTrigger 0x200 = some (.saAdd false) ∧
    (encodeSlot (.saAdd false)).isSome = true :=
  by and_intros <;> first | rfl | decide +kernel

theorem witness_StepKeepsMemoryForm :
    let s := { base task0 with micro := [{ trg 0 with word := 0x040200#24 }] }
    Memory.wf s.mem = true ∧ ∃ t, step s = .next t := ⟨by decide, _, rfl⟩

theorem witness_TriggersKeepToTheirContext :
    (runAt 0 task0).cur = .trigger (trg 0) ∧ decodeTrigger 0x200 = some (.saAdd false) ∧ ∃ a, exec (.saAdd false) (runAt 0 task0) = .next a :=
  ⟨rfl, by decide +kernel, _, rfl⟩

/-- A tensor whose page lies in the pool behind expander port 0, and a compressed page whose tag an error can have made invalid. -/
theorem witness_FencesAndReset_pool :
    let s := (stored ten (withPkg (fun p => { p with expanders := vset p.expanders 0 (2 ^ 30) }) (sbase str0))).setLeaf 0 0
      (BitVec.ofNat 64 (16 * 2 ^ 59 + State.reset.expanderFirst 0 * 2 ^ 16 + 7))
    s.rec? 0 = some ten ∧ ten.stored = true ∧ 0 < ten.pages ∧ (s.pageLeaf? 0 0).map (fun l => (pteC l, pteTgt l, ptePa l / pageBytes)) =
      some (false, 16, s.expanderFirst 0) ∧ 0 < s.expanderPages 0 ∧ s.pkg.fencedExpanders = [] ∧
    (packedState 0 true).badTag 0 6 = true ∧ (packedState 0 true).badTag 0 5 = false := by decide +kernel
/-- A load that waits for P1 to end, a PSTATE of a device whose guest is there, and one of a device at rest. -/
theorem witness_MailboxCommands_rest :
    (withPkg (fun p => { p with p1 := true }) (loadIn id)).hs.load.busy = false ∧ (withPkg (fun p => { p with p1 := true }) (loadIn id)).pkg.p1 = true ∧
    (mail id).ms.held = [] ∧ (mail id).gates = [] ∧ (present (mail id)).hs.guest.st = .present ∧ (present (mail id)).hs.guest.stopped = false ∧
    (mail fun m => { m with arg := 1 }).hs.mailbox.arg = 1 := by decide +kernel

end Sys2Proof.Tests
end

section
/-! PROOFS. Words as exact integers (Table 0.4): each operator of the model that a scalar unit uses, written as a wrapped
expression over zz and zs, which is how R149 to R155 give it. -/
namespace Sys2Proof.Machine
open Sys2Proof Sys2Proof.Safety

/-! ### wrap, zz and zs -/

theorem wrap_add (w : Nat) (x y : Int) : wrap w (x + y) = wrap w x + wrap w y := BitVec.ofInt_add x y
theorem wrap_mul (w : Nat) (x y : Int) : wrap w (x * y) = wrap w x * wrap w y := BitVec.ofInt_mul x y
theorem wrap_neg (w : Nat) (x : Int) : wrap w (-x) = -wrap w x := BitVec.ofInt_neg
theorem wrap_sub (w : Nat) (x y : Int) : wrap w (x - y) = wrap w x - wrap w y := by
  rw [Int.sub_eq_add_neg, wrap_add, wrap_neg, BitVec.sub_eq_add_neg]
theorem wrap_natCast (w n : Nat) : wrap w n = BitVec.ofNat w n := BitVec.ofInt_natCast w n
@[simp] theorem wrap_zz (x : Word) : wrap 32 (zz x) = x := by simp [zz, wrap_natCast]
@[simp] theorem wrap_zs (x : Word) : wrap 32 (zs x) = x := BitVec.ofInt_toInt

theorem zz_injective : Function.Injective zz := fun x y h => by rw [← wrap_zz x, h, wrap_zz]
theorem zs_injective : Function.Injective zs := fun x y h => by rw [← wrap_zs x, h, wrap_zs]

theorem zz_eq_zero_iff (x : Word) : zz x = 0 ↔ x = 0 := by
  rw [zz, Int.natCast_eq_zero, ← BitVec.toNat_inj]; rfl

/-! ### Arithmetic and shifts (R148) -/

theorem add_eq_wrap (x y : Word) : x + y = wrap 32 (zz x + zz y) := by simp [wrap_add]
theorem sub_eq_wrap (x y : Word) : x - y = wrap 32 (zz x - zz y) := by simp [wrap_sub]
theorem mul_eq_wrap (x y : Word) : x * y = wrap 32 (zz x * zz y) := by simp [wrap_mul]

theorem mad_eq_wrap (x y w : Word) : x * y + w = wrap 32 (zz x * zz y + zz w) := by simp [wrap_add, wrap_mul]
theorem mulhZ_eq_wrap (x y : Word) : BitVec.ofNat 32 (x.toNat * y.toNat / 2 ^ 32) = wrap 32 (zz x * zz y / 2 ^ 32) := by
  rw [← wrap_natCast]; push_cast; rfl

theorem ofNat_mul_two_pow (x : Word) (n : Nat) : BitVec.ofNat 32 (x.toNat * 2 ^ n) = wrap 32 (zz x * 2 ^ n) := by
  rw [← wrap_natCast]; push_cast; rfl

theorem shiftLeft_eq_wrap (x : Word) (n : Nat) : x <<< n = wrap 32 (zz x * 2 ^ n) := by
  rw [← ofNat_mul_two_pow]
  apply BitVec.eq_of_toNat_eq
  simp [Nat.shiftLeft_eq]

theorem ushiftRight_eq_wrap (x : Word) (n : Nat) : x >>> n = wrap 32 (zz x / 2 ^ n) := by
  have h : zz x / 2 ^ n = ((x >>> n).toNat : Int) := by
    rw [BitVec.toNat_ushiftRight, Nat.shiftRight_eq_div_pow]; push_cast; rfl
  rw [h]; exact (wrap_zz _).symm

theorem sshiftRight_eq_wrap (x : Word) (n : Nat) : x.sshiftRight n = wrap 32 (zs x / 2 ^ n) := by
  have h : zs x / 2 ^ n = (x.sshiftRight n).toInt := by
    rw [BitVec.toInt_sshiftRight, Int.shiftRight_eq_div_pow]; push_cast; rfl
  rw [h]; exact (wrap_zs _).symm

/-- The two parts of a rotation share no bit, so their sum is their union. -/
theorem rotateLeft_eq_wrap (x : Word) {n : Nat} (h : n < 32) :
    x.rotateLeft n = wrap 32 (zz x * 2 ^ n + zz x / 2 ^ (32 - n)) := by
  have apart : x <<< n &&& x >>> (32 - n) = 0#32 := by
    ext i hi
    have : n ≤ i → 32 ≤ 32 - n + i := by omega
    simp only [BitVec.getElem_and, BitVec.getElem_shiftLeft, BitVec.getElem_ushiftRight, BitVec.getElem_zero]
    by_cases hn : i < n
    · simp [hn]
    · simp [hn, BitVec.getLsbD_of_ge x _ (this (by omega))]
  rw [wrap_add, ← shiftLeft_eq_wrap, ← ushiftRight_eq_wrap, BitVec.add_eq_or_of_and_eq_zero _ _ apart,
    BitVec.rotateLeft_def, Nat.mod_eq_of_lt h]

/-! ### Comparisons (R148) -/

theorem slt_iff_zs_lt (x y : Word) : x.slt y = true ↔ zs x < zs y := BitVec.slt_iff_toInt_lt
theorem sle_iff_zs_le (x y : Word) : x.sle y = true ↔ zs x ≤ zs y := by simp [BitVec.sle_eq_decide, zs]
theorem ult_iff_zz_lt (x y : Word) : x.ult y = true ↔ zz x < zz y := by simp [BitVec.ult_eq_decide, zz]
theorem ule_iff_zz_le (x y : Word) : x.ule y = true ↔ zz x ≤ zz y := by simp [BitVec.ule_eq_decide, zz]

theorem min_by_value {g : Word → Int} {lt : Word → Word → Bool} (h : ∀ x y, lt x y = true ↔ g x < g y) (x y : Word) :
    (if lt y x then y else x) = if g x ≤ g y then x else y := by
  by_cases hxy : g x ≤ g y
  · rw [if_pos hxy, if_neg (by rw [h]; exact not_lt.mpr hxy)]
  · rw [if_neg hxy, if_pos ((h y x).mpr (not_le.mp hxy))]

/-- The larger of two words by a value that determines the word: on a tie both choices are the same word. -/
theorem max_by_value {g : Word → Int} {lt : Word → Word → Bool} (h : ∀ x y, lt x y = true ↔ g x < g y) (hg : Function.Injective g)
    (x y : Word) : (if lt x y then y else x) = if g x ≤ g y then y else x := by
  rcases lt_trichotomy (g x) (g y) with hxy | hxy | hxy
  · rw [if_pos ((h x y).mpr hxy), if_pos hxy.le]
  · simp [hg hxy]
  · rw [if_neg (by rw [h]; exact hxy.not_gt), if_neg (not_le.mpr hxy)]

/-- A truth value of the model and the bit of a proposition that it decides. -/
theorem bit32_eq_bit {b : Bool} {p : Prop} [Decidable p] (h : b = true ↔ p) : bit32 b = bit p := by
  simp [bit32, bit, h]

/-! ### Counts of bits (R148) -/

/-- The numbers from 0 up that pass a test end before k, which is n or the first number that fails it. -/
theorem length_takeWhile_range {p : Nat → Bool} {n k : Nat} (hk : k ≤ n) (hp : ∀ i < k, p i = true) (hn : k = n ∨ p k = false) :
    ((List.range n).takeWhile p).length = k := by
  obtain ⟨d, rfl⟩ := Nat.exists_eq_add_of_le hk
  rw [List.range_add, List.takeWhile_append_of_pos (by simpa using hp)]
  cases d with
  | zero => simp
  | succ d =>
    have hf : p k = false := hn.resolve_left (by omega)
    simp [List.range_succ_eq_map, hf]

theorem clz32_eq_wrap (y : Word) : clz32 y = wrap 32 ((List.range 32).takeWhile fun i => !y.getLsbD (31 - i)).length := by
  rw [wrap_natCast, clz32]
  congr 1
  symm
  split
  · next h => exact length_takeWhile_range le_rfl (by simp [h]) (.inl rfl)
  · next h =>
    have h0 : y.toNat ≠ 0 := fun e => h (BitVec.eq_of_toNat_eq e)
    have hlog : y.toNat.log2 < 32 := (Nat.log2_lt h0).mpr y.isLt
    have top : y.getLsbD y.toNat.log2 = true := Nat.testBit_log2 h0
    have above : ∀ j, y.toNat.log2 < j → y.getLsbD j = false := fun j hj =>
      Nat.testBit_lt_two_pow ((Nat.log2_lt h0).mp hj)
    refine length_takeWhile_range (by omega) (fun i hi => ?_) (.inr ?_)
    · simp [above (31 - i) (by omega)]
    · simp [show 31 - (31 - y.toNat.log2) = y.toNat.log2 by omega, top]

/-- The trailing zeros from bit i on are those that a search through the next k bits passes. -/
theorem ctzFrom_eq (y : Word) : ∀ k i : Nat, ctzFrom y k i = i + ((List.range' i k).takeWhile fun j => !y.getLsbD j).length
  | 0, _ => rfl
  | k + 1, i => by
    rw [ctzFrom, List.range'_succ, List.takeWhile_cons, ctzFrom_eq y k (i + 1)]
    cases h : y.getLsbD i
    · simp [Nat.add_assoc, Nat.add_comm 1]
    · simp

theorem ctz32_eq_wrap (y : Word) : ctz32 y = wrap 32 ((List.range 32).takeWhile fun i => !y.getLsbD i).length := by
  rw [wrap_natCast, ctz32, ctzFrom_eq, Nat.zero_add, List.range_eq_range']

/-! ### Fields and bytes (R149) -/

theorem insField_eq (x y w : Word) {mask : Word}
    (h : mask = wrap 32 ((2 ^ fieldLen y - 1) * 2 ^ fieldPos y)) :
    insField x y w = (x &&& ~~~mask) ||| (wrap 32 (zz w * 2 ^ fieldPos y) &&& mask) := by
  have hm : mask = BitVec.ofNat 32 ((2 ^ fieldLen y - 1) * 2 ^ fieldPos y) := by
    rw [h, ← wrap_natCast, Nat.cast_mul, Nat.cast_sub Nat.one_le_two_pow]; push_cast; rfl
  rw [insField, ← ofNat_mul_two_pow, hm]

theorem toNat_append_eq {m n : Nat} (x : BitVec m) (y : BitVec n) : (x ++ y).toNat = x.toNat * 2 ^ n + y.toNat := by
  rw [BitVec.toNat_append, ← Nat.shiftLeft_add_eq_or_of_lt y.isLt, Nat.shiftLeft_eq]

theorem bswap32_eq_wrap (y : Word) : bswap32 y = wrap 32
    ((List.range 4).foldl (fun (a : Int) j => a + (y.toNat / 2 ^ (8 * j) % 256 : Nat) * 2 ^ (8 * (3 - j))) 0) := by
  have bytes : zz (bswap32 y) = (((y.toNat / 2 ^ 0 % 2 ^ 8 * 2 ^ 8 + y.toNat / 2 ^ 8 % 2 ^ 8) * 2 ^ 8 + y.toNat / 2 ^ 16 % 2 ^ 8) * 2 ^ 8 +
      y.toNat / 2 ^ 24 % 2 ^ 8 : Nat) := by
    simp only [zz, bswap32, toNat_append_eq, BitVec.extractLsb'_toNat, Nat.shiftRight_eq_div_pow]
  rw [← wrap_zz (bswap32 y), bytes]
  congr 1
  simp only [show List.range 4 = [0, 1, 2, 3] from rfl, List.foldl_cons, List.foldl_nil]
  push_cast
  ring

/-! ### Division (R151) -/

/-- The remainder of a truncated division, from the wrapped quotient. -/
theorem tmod_eq_wrap (x y : Word) : BitVec.ofInt 32 (x.toInt.tmod y.toInt) = wrap 32 (zs x - zs (wrap 32 ((zs x).tdiv (zs y))) * zs y) := by
  show wrap 32 ((zs x).tmod (zs y)) = _
  rw [Int.tmod_def, wrap_sub, wrap_sub, wrap_mul, wrap_mul, wrap_zs (wrap 32 _), mul_comm]

/-! ### The window (R154) -/

theorem window_eq_win (b k : Word) (x : Int) : window b k x = win b k x := by
  simp only [window, win, zz_eq_zero_iff]; rfl

end Sys2Proof.Machine
end

section
/-! PROOFS. The scalar and address units: one rule for each shared operation of sa and sb, of sm, and of ag0 and ag1 (R148 to R155). -/
namespace Sys2Proof.Machine
open Sys2Proof Sys2Proof.Safety

/-! ### Changes of one context -/

theorem Map.put_put_same {α : Type} (m : Map α) (k : Nat) (x y : α) : (m.put k x).put k y = m.put k y := by
  induction m with
  | nil => simp [Map.put]
  | cons c m ih =>
    obtain ⟨a, z⟩ := c
    rcases lt_trichotomy k a with h | h | h
    · simp [Map.put, h]
    · simp [Map.put, h]
    · simp [Map.put, h.not_gt, h.ne', ih]

theorem State.putCtx_putCtx_same (s : State) (c : Nat) (x y : Ctx) : (s.putCtx c x).putCtx c y = s.putCtx c y := by
  simp [State.putCtx, Map.put_put_same]

theorem State.modCtx_eq_putCtx {s : State} {c : Nat} {x : Ctx} (h : s.ctx? c = some x) (f : Ctx → Ctx) : s.modCtx c f = s.putCtx c (f x) := by
  have h' : Map.find s.ctxs c = some x := h
  simp [State.modCtx, Map.mod, h', State.putCtx]

theorem State.ctx?_pendPort_same {s : State} {c : Nat} {x : Ctx} (h : s.ctx? c = some x) (port id : Nat) :
    (s.pendPort c port id).ctx? c = some { x with r := { x.r with pend := vset x.r.pend port (some id) } } := by
  simp [State.pendPort, State.modRegs, h]
theorem State.ctx?_pendPort_other (s : State) {c d : Nat} (port id : Nat) (h : d ≠ c) : (s.pendPort c port id).ctx? d = s.ctx? d :=
  State.ctx?_modCtx_other s _ h

/-! ### Exposed scalar results

In the rules below e is the meaning that exec gives to the instruction: naming it keeps the two equations cheap to check. -/

section
variable {i : Instr} (e : State → Out) {s : State} {t : Trig} {x : Ctx} {f : Word → Word → Word → Word} {r : Word}

/-- An operation of sa or sb exposes the value of its function after one cycle. -/
theorem saOp_exposes {u : Bool} (h : Runs s t x) (he : exec i s = e s) (hop : e s = saOp u f s)
    (hf : f (x.portW (if u then 2 else 0)) t.y.scalar (x.portW (if u then 3 else 1)) = r) :
    Exposes i s t x (if u then 1 else 0) 1 fun v => v.val = r.setWidth 2048 :=
  exposes_of_onTrigger h ((he.trans hop).trans (onTrigger_of_runs h _)) (congrArg (BitVec.setWidth 2048) hf)

/-- An exposed operation of sm gives the value of its function after its latency. -/
theorem smOp_exposes {l : Nat} (h : Runs s t x) (he : exec i s = e s) (hop : e s = smOp l f s)
    (hf : f (x.portW oSmO) t.y.scalar (x.portW oSmO2) = r) :
    Exposes i s t x qSm l fun v => v.val = r.setWidth 2048 :=
  exposes_of_onTrigger h ((he.trans hop).trans (onTrigger_of_runs h _)) (congrArg (BitVec.setWidth 2048) hf)

end

/-! ### Divisions -/

/-- What a division leaves: the divider holds both results until the eighteenth cycle, both result ports are pending for it, and memory
and the other contexts are as before (R151). -/
def Divides (s : State) (t : Trig) (x : Ctx) (q qh : Word) (a : State) : Prop :=
  ∃ id v vh, v.val = q.setWidth 2048 ∧ vh.val = qh.setWidth 2048 ∧
    (a.core (coreOf t.ctx)).div = some (t.ctx, v, vh, t.cyc + 18, id) ∧
    a.ctx? t.ctx = some { x with r := { x.r with pend := vset (vset x.r.pend qSm (some id)) qSmH (some id) } } ∧
    (∀ c, c ≠ t.ctx → a.ctx? c = s.ctx? c) ∧ SameMemory s a

theorem smDiv_divides {i : Instr} (e : State → Out) {s : State} {t : Trig} {x : Ctx} {f : Word → Word → Word × Word} {swap : Bool} {q r : Word}
    (h : Runs s t x) (he : exec i s = e s) (hop : e s = smDiv f swap s) (hf : f (x.portW oSmO) t.y.scalar = (q, r)) :
    Answers i s (Divides s t x (if swap then r else q) (if swap then q else r)) := by
  have hf' : f (x.port oSmO).scalar t.y.scalar = (q, r) := hf
  refine ⟨_, (he.trans hop).trans (onTrigger_of_runs h _), s.nextId, scalarOut (if swap then r else q) [x.port oSmO, t.y],
    scalarOut (if swap then q else r) [x.port oSmO, t.y], rfl, rfl, ?_, ?_, fun c hc => ?_, fun _ => rfl⟩
  · rw [State.core_modCore_same, hf', State.ticket_id]
  · exact State.ctx?_pendPort_same (State.ctx?_pendPort_same h.2 qSm _) qSmH _
  · exact (State.ctx?_pendPort_other _ qSmH _ hc).trans (State.ctx?_pendPort_other _ qSm _ hc)

theorem divS_eq (x y q : Word)
    (hq : q = if y = 0 then 0xffffffff#32 else if x = 0x80000000#32 ∧ y = 0xffffffff#32 then 0x80000000#32
      else wrap 32 ((zs x).tdiv (zs y))) :
    divS x y = (q, if y = 0 then x else if x = 0x80000000#32 ∧ y = 0xffffffff#32 then 0 else wrap 32 (zs x - zs q * zs y)) := by
  subst hq
  unfold divS
  split
  · rfl
  · split
    · rfl
    · rw [tmod_eq_wrap]; rfl

theorem divZ_eq (x y : Word) :
    divZ x y = (if y = 0 then 0xffffffff#32 else wrap 32 (zz x / zz y), if y = 0 then x else wrap 32 (zz x % zz y)) := by
  unfold divZ
  split
  · rfl
  · rw [zz, zz, ← Int.natCast_ediv, ← Int.natCast_emod, wrap_natCast, wrap_natCast]

/-! ### Address operations -/

theorem State.writeA_putCtx_same (s : State) (c j : Nat) (x : Ctx) (a : PW) :
    (s.putCtx c x).writeA c j a = s.putCtx c { x with r := { x.r with ar := vset x.r.ar j a } } := by
  rw [State.writeA, State.modRegs, State.modCtx_eq_putCtx (State.ctx?_putCtx_same ..), State.putCtx_putCtx_same]
  rfl

/-- Whether an address operation uses poison: in its set or in its port u.o (log entry 7). -/
def addressPoison (u : Bool) (t : Trig) (x : Ctx) : Bool :=
  t.ag.a.poi || t.ag.n.poi || t.ag.b.poi || t.ag.k.poi || (x.port (if u then 7 else 6)).bad

section
variable {i : Instr} (e : State → Out) {u : Bool} {s : State} {t : Trig} {x : Ctx} {f : AgSet → Word → Word × Option Word} {r w : Word}

theorem agOp_eq_expose (h : Runs s t x) (hf : f t.ag (x.portW (if u then 7 else 6)) = (r, none)) :
    agOp u f s = .next (s.expose t (if u then 5 else 4) 1 (PV.ofWord r (addressPoison u t x))) := by
  have hz : f t.ag (x.port (if u then 7 else 6)).scalar = (r, none) := hf
  simp only [agOp, onTrigger_of_runs h, hz, addressPoison]

theorem agOp_eq_writeA (h : Runs s t x) (hf : f t.ag (x.portW (if u then 7 else 6)) = (r, some w)) :
    agOp u f s = .next ((s.expose t (if u then 5 else 4) 1 (PV.ofWord r (addressPoison u t x))).writeA t.ctx
      (t.y.scalar.toNat % 16) { val := w, poi := addressPoison u t x }) := by
  have hz : f t.ag (x.port (if u then 7 else 6)).scalar = (r, some w) := hf
  simp only [agOp, onTrigger_of_runs h, hz, addressPoison]

/-- An operation that leaves its set as it is exposes its value and changes nothing else. -/
theorem agOp_keeps (h : Runs s t x) (he : exec i s = e s) (hop : e s = agOp u f s)
    (hf : f t.ag (x.portW (if u then 7 else 6)) = (r, none)) :
    ∃ (v : PV) (_ : Bool), v.val = r.setWidth 2048 ∧ exec i s = .next (s.putCtx t.ctx (withResults x t [(if u then 5 else 4, v, 1)])) :=
  ⟨PV.ofWord r (addressPoison u t x), false, rfl, by rw [he, hop, agOp_eq_expose h hf, State.expose_eq h.2]⟩

/-- An operation that moves its set on exposes its value and writes the new a of the set that y names. -/
theorem agOp_writes (h : Runs s t x) (he : exec i s = e s) (hop : e s = agOp u f s)
    (hf : f t.ag (x.portW (if u then 7 else 6)) = (r, some w)) :
    ∃ (v : PV) (poi : Bool), v.val = r.setWidth 2048 ∧
      let y := withResults x t [(if u then 5 else 4, v, 1)]
      exec i s = .next (s.putCtx t.ctx { y with r := { y.r with ar := vset y.r.ar (t.y.scalar.toNat % 16) { val := w, poi := poi } } }) :=
  ⟨PV.ofWord r (addressPoison u t x), addressPoison u t x, rfl,
    by rw [he, hop, agOp_eq_writeA h hf, State.expose_eq h.2, State.writeA_putCtx_same]⟩

end

end Sys2Proof.Machine
end

section
/-! PROOFS. The obligations on the scalar and address units, assembled from the rules of their shared operations: each line names one
instruction's meaning and why its word is the one that the specification gives. -/
namespace Sys2Proof.ScalarUnits
open Sys2Proof Sys2Proof.Machine Sys2Proof.Safety

/-- Settles O1: each operation of sa and sb is its word function, and each word function is the wrapped expression of R148 and R149. -/
theorem integerUnitResults : Obligations.IntegerUnitResults := by
  intro u s t x h X Y W hX hY hW m pos len f hm hpos hlen hf mask hmask
  subst X Y W m pos len f
  simp only [List.forall_mem_cons]
  exact ⟨
    saOp_exposes (execSaAdd u) h rfl rfl (add_eq_wrap ..),
    saOp_exposes (execSaSub u) h rfl rfl (sub_eq_wrap ..),
    saOp_exposes (execSaRsub u) h rfl rfl (sub_eq_wrap ..),
    saOp_exposes (execSaAnd u) h rfl rfl rfl,
    saOp_exposes (execSaOr u) h rfl rfl rfl,
    saOp_exposes (execSaXor u) h rfl rfl rfl,
    saOp_exposes (execSaAndn u) h rfl rfl rfl,
    saOp_exposes (execSaNot u) h rfl rfl rfl,
    saOp_exposes (execSaShl u) h rfl rfl (shiftLeft_eq_wrap ..),
    saOp_exposes (execSaShr u) h rfl rfl (ushiftRight_eq_wrap ..),
    saOp_exposes (execSaSar u) h rfl rfl (sshiftRight_eq_wrap ..),
    saOp_exposes (execSaRotl u) h rfl rfl (rotateLeft_eq_wrap _ (Nat.mod_lt _ (by decide))),
    saOp_exposes (execSaMinS u) h rfl rfl (min_by_value slt_iff_zs_lt _ _),
    saOp_exposes (execSaMaxS u) h rfl rfl (max_by_value slt_iff_zs_lt zs_injective _ _),
    saOp_exposes (execSaMinZ u) h rfl rfl (min_by_value ult_iff_zz_lt _ _),
    saOp_exposes (execSaMaxZ u) h rfl rfl (max_by_value ult_iff_zz_lt zz_injective _ _),
    saOp_exposes (execSaEq u) h rfl rfl (bit32_eq_bit beq_iff_eq),
    saOp_exposes (execSaNe u) h rfl rfl (bit32_eq_bit bne_iff_ne),
    saOp_exposes (execSaLtS u) h rfl rfl (bit32_eq_bit (slt_iff_zs_lt ..)),
    saOp_exposes (execSaLeS u) h rfl rfl (bit32_eq_bit (sle_iff_zs_le ..)),
    saOp_exposes (execSaLtZ u) h rfl rfl (bit32_eq_bit (ult_iff_zz_lt ..)),
    saOp_exposes (execSaLeZ u) h rfl rfl (bit32_eq_bit (ule_iff_zz_le ..)),
    saOp_exposes (execSaClz u) h rfl rfl (clz32_eq_wrap _),
    saOp_exposes (execSaCtz u) h rfl rfl (ctz32_eq_wrap _),
    saOp_exposes (execSaPopc u) h rfl rfl (wrap_natCast ..).symm,
    saOp_exposes (execSaExtZ u) h rfl rfl (wrap_natCast ..).symm,
    saOp_exposes (execSaExtS u) h rfl rfl rfl,
    saOp_exposes (execSaIns u) h rfl rfl (insField_eq _ _ _ hmask),
    saOp_exposes (execSaMov u) h rfl rfl rfl,
    saOp_exposes (execSaSel u) h rfl rfl rfl,
    saOp_exposes (execSaBswap u) h rfl rfl (bswap32_eq_wrap _),
    saOp_exposes (execSaAbsd u) h rfl rfl (wrap_natCast ..).symm,
    List.forall_mem_nil _⟩

/-- Settles O2: the multiplies by their word functions, the divisions by what the divider holds (R150, R151). -/
theorem multiplyAndDivisionResults : Obligations.MultiplyAndDivisionResults := by
  refine ⟨fun s t x h X Y W hX hY hW => ?_, fun s t x h X Y qs rs qz rz hX hY hqs hrs hqz hrz => ?_⟩
  · subst X Y W
    simp only [List.forall_mem_cons]
    exact ⟨
      smOp_exposes execSmMul h rfl rfl (mul_eq_wrap ..),
      smOp_exposes execSmMulhS h rfl rfl rfl,
      smOp_exposes execSmMulhZ h rfl rfl (mulhZ_eq_wrap ..),
      smOp_exposes execSmMad h rfl rfl (mad_eq_wrap ..),
      List.forall_mem_nil _⟩
  · subst X Y
    have hS : divS (x.portW oSmO) t.y.scalar = (qs, rs) := by rw [hrs]; exact divS_eq _ _ qs hqs
    have hZ : divZ (x.portW oSmO) t.y.scalar = (qz, rz) := by rw [hqz, hrz]; exact divZ_eq ..
    simp only [List.forall_mem_cons]
    exact ⟨
      smDiv_divides execSmDivS h rfl rfl hS,
      smDiv_divides execSmDivZ h rfl rfl hZ,
      smDiv_divides execSmRemS h rfl rfl hS,
      smDiv_divides execSmRemZ h rfl rfl hZ,
      List.forall_mem_nil _⟩

/-- Settles O4: each operation of ag0 and ag1 forms its address by the window function of R154. -/
theorem addressUnitResults : Obligations.AddressUnitResults := by
  intro u s t x h a n b k z ha hn hb hk hz j hj
  subst a n b k z j
  have hw : ∀ p, t.ag.win p = win t.ag.b.val t.ag.k.val p := window_eq_win _ _
  simp only [List.forall_mem_cons]
  exact ⟨
    agOp_keeps (execAgGet u) h rfl rfl rfl,
    agOp_writes (execAgPinc u) h rfl rfl (by rw [hw]; rfl),
    agOp_writes (execAgPdec u) h rfl rfl (by rw [hw]; rfl),
    agOp_writes (execAgPreinc u) h rfl rfl (by rw [hw]; rfl),
    agOp_writes (execAgAdd u) h rfl rfl (by rw [hw]; rfl),
    agOp_keeps (execAgLea u) h rfl rfl (by rw [hw]; rfl),
    agOp_keeps (execAgIdx u) h rfl rfl (by rw [hw]; rfl),
    List.forall_mem_nil _⟩

end Sys2Proof.ScalarUnits
end
